-- ==== Sys2Proof/Word.lean ====
section
/-!
DEFINITION. The byte carried by one character of the three serial lines (R54), and big-endian numbers of bytes
("multi-byte fields travel most significant byte first", R59, R201, R202).
-/

namespace Sys2Proof

/-- The eight data bits of one character (R54). -/
abbrev Byte := BitVec 8

/-- The number that bytes spell, most significant first. -/
def beNat (bs : List Byte) : Nat := bs.foldl (fun a b => a * 256 + b.toNat) 0

/-- `k` bytes of a number, most significant first. -/
def beBytes : Nat → Nat → List Byte
  | 0, _ => []
  | k + 1, n => BitVec.ofNat 8 (n / 256 ^ k) :: beBytes k n

end Sys2Proof
end

