-- ==== Sys2Proof/Syntax.lean ====
section
/-!
DEFINITION. The commands of the LC24: one constructor of `Instr` for each row of spec/opcode_table.json, with what the
command brings from outside the part (log 1).
-/

namespace Sys2Proof

/-- The two host ports (10). -/
inductive Port where
  | building | service
  deriving DecidableEq, Repr

/-- The two halves of a terminal (02, section 2.1). -/
inductive Half where
  | a | b
  deriving DecidableEq, Repr

/-- The three lines that share one design of receiver (R54). -/
inductive Line where
  | bus
  | host (p : Port)
  deriving DecidableEq, Repr

/-- A stored record by its group and its number in the group (R204). -/
structure RecordId where
  group  : Nat
  number : Nat
  deriving DecidableEq, Repr

/-- One character as it stands on a line (R54, R55): how many samples in a row were high right before its first low sample,
those of the stop bit before it among them; how many samples lie between the end of the stop bit of the last character before
it and that first low sample (the gap of R57); and the samples 7, 8 and 9 of each of its 11 bits (bits 3k..3k+2 are those of
the character's bit k: the start bit, the eight data bits least significant first, the ninth bit, the stop bit). -/
structure RxChar where
  quiet   : Nat
  gap     : Nat
  samples : BitVec 33
  deriving DecidableEq, Repr

/-- What the sender supplies with a reading of the unit strap, for the stages of start-up that follow when the reading
ends (R135, R205, R183): the count of the UNIT input, whether the INTERLOCK input has held its active level for 50 ms
when the stages end, and the stored records that fail their check. -/
structure StartInput where
  count     : Nat
  interlock : Bool
  failed    : List RecordId
  deriving DecidableEq, Repr

/-- The commands. A host request carries its port and the bytes of its body, which follow the kind byte (R202). -/
inductive Instr where
  | startUp (i : StartInput)
  | strapReread (i : StartInput)
  | rotationPoll
  | probePoll
  | outOfTurnPoll
  | broadcastDisplay
  | terminalReply (chars : List RxChar)
  | malformedReply
  | replyTimeout
  | contentionWindow (start a3 a2 a1 a0 : BitVec 3)
  | briefDeadline (t : Fin 16) (h : Half)
  | armedDeadline (n : Fin 24)
  | lockingDeadline (n : Fin 24)
  | unlockDeadline (n : Fin 24)
  | collectWindowExpiry (n : Fin 24)
  | recoveryDeadline (n : Fin 24)
  | runSecond
  | overrun (n : Fin 24)
  | paidSecondsExhausted (n : Fin 24)
  | coolDownEnd (n : Fin 24)
  | waitlistEntryExpiry (c : Fin 4) (position : Nat)
  | reservationExpiry (n : Fin 24)
  | scanStart
  | conversionResult (count : Nat)
  | scanEnd (count : Nat)
  | onDemandConversionResult (count : Nat)
  | clockSecond
  | minuteChange
  | interlockActive
  | interlockInactive
  | suspensionLimit
  | storeWriteDone
  | hostReplyEnd (p : Port)
  | hostFrameDiscard (p : Port) (chars : List RxChar)
  | frameGapTimeout (l : Line) (address : Byte)
  | hostFrameOverrun (p : Port) (address : Byte)
  | frameNotForUnit (address : Byte)
  | broadcastDropped (p : Port) (kind : Byte) (body : List Byte)
  | broadcastTimeSet (p : Port) (body : List Byte)
  | broadcastBudgetSet (p : Port) (body : List Byte)
  | broadcastBudgetDeferred (p : Port)
  | unknownKindRequest (p : Port) (kind : Byte) (body : List Byte)
  | roomStatus (p : Port) (body : List Byte)
  | slotStatus (p : Port) (body : List Byte)
  | terminalStatus (p : Port) (body : List Byte)
  | portStatus (p : Port) (body : List Byte)
  | eventsRead (p : Port) (body : List Byte)
  | classSet (p : Port) (body : List Byte)
  | priceSetEntry (p : Port) (body : List Byte)
  | priceSetGeneral (p : Port) (body : List Byte)
  | slotSet (p : Port) (body : List Byte)
  | terminalSet (p : Port) (body : List Byte)
  | governorSetGeneral (p : Port) (body : List Byte)
  | governorSetClass (p : Port) (body : List Byte)
  | senseSetInput (p : Port) (body : List Byte)
  | senseSetGeneral (p : Port) (body : List Byte)
  | roomSet (p : Port) (body : List Byte)
  | timeSet (p : Port) (body : List Byte)
  | accountPut (p : Port) (body : List Byte)
  | accountCredit (p : Port) (body : List Byte)
  | accountState (p : Port) (body : List Byte)
  | accountRemove (p : Port) (body : List Byte)
  | accountRead (p : Port) (body : List Byte)
  | settlementRead (p : Port) (body : List Byte)
  | settlementRelease (p : Port) (body : List Byte)
  | slotServiceTake (p : Port) (body : List Byte)
  | slotServiceReturn (p : Port) (body : List Byte)
  | slotStop (p : Port) (body : List Byte)
  | faultsRead (p : Port) (body : List Byte)
  | historyRead (p : Port) (body : List Byte)
  | faultClear (p : Port) (body : List Byte)
  | budgetSet (p : Port) (body : List Byte)
  | grantsRead (p : Port) (body : List Byte)
  | waitlistRead (p : Port) (body : List Byte)
  | waitlistRemove (p : Port) (body : List Byte)
  | roomMode (p : Port) (body : List Byte)
  | roomResume (p : Port) (body : List Byte)
  | senseRead (p : Port) (body : List Byte)
  | restart (p : Port) (body : List Byte)
  | powerLoss
  deriving DecidableEq, Repr

end Sys2Proof
end

