-- ==== Sys2Proof/Decode.lean ====
section
/-!
DEFINITION. The commands that words spell: the opcode table gives no row any bits, so no word spells one (log 30).
-/

namespace Sys2Proof

/-- The command that an instruction of `nbits` bits spells. -/
def decodeTableWord (_nbits _w : Nat) : Option Instr := none

end Sys2Proof
end

