-- ==== Sys2Proof/Config.lean ====
section
/-!
DEFINITION. What the spec leaves open: values that no definition of the model gives, so that a statement about one holds
whatever it is.
-/

namespace Sys2Proof

/-- How many of the record store's writes in progress are done when the RESET pin starts the part, before it is cut to
their number. The store completes writes in order (R204) and the spec says what happens to those in progress at a power
loss (R204) and at a RESTART (R196), not at the RESET pin. The argument is the state's counter of free values (log 9). -/
opaque Config.writesDoneAtReset : Nat → Nat

end Sys2Proof
end

