-- ==== Sys2Proof/Machine/State.lean ====
section
/-!
DEFINITION. The state of the LC24 as plain data: every piece of state the spec gives its ten blocks (00, "Block
overview"), the replies and frames it sends, and the machine right after reset. Each type cites the rule that lays it
down. Quantities are `Nat` with the range of their rule.
-/

namespace Sys2Proof.Machine

/-! ### Time (R172) -/

/-- The room clock: second of day, day number, CLOCK_SET (R172). It also stamps records with the time they were made. -/
structure Clock where
  second : Nat
  day    : Nat
  isSet  : Bool
  deriving DecidableEq, Repr

/-! ### Slots (01) -/

/-- The kind of a class (01, section 1.1). -/
inductive Kind where
  | washer | dryer
  deriving DecidableEq, Repr

/-- The slot states, in the row order of R3. -/
inductive SlotState where
  | unconfigured | outOfService | idle | reserved | armed | locking | running | awaitPower | suspended | recovering
  | finishing | faulted | collect
  deriving DecidableEq, Repr

/-- The phase of a cycle (R1). -/
inductive Phase where
  | none | fill | wash | rinse | spin | dry | cool
  deriving DecidableEq, Repr

/-- The cause set (07, section 7.6). -/
structure Causes where
  host    : Bool
  service : Bool
  lockout : Bool
  lost    : Bool
  deriving DecidableEq, Repr

/-- The members of a cause set. -/
inductive Cause where
  | host | service | lockout | lost
  deriving DecidableEq, Repr

/-- A slot's desired outputs (R1, R3): the lock LOCKED, run-enable on, heat-permit on. -/
structure Outputs where
  locked : Bool
  run    : Bool
  heat   : Bool
  deriving DecidableEq, Repr

/-- The lock as a terminal reports it (R59). -/
inductive LockView where
  | unlocked | locked | moving
  deriving DecidableEq, Repr

/-- The machine status as a terminal reports it (R59). -/
inductive MachineStatus where
  | idle | running | done | error
  deriving DecidableEq, Repr

/-- The report fields of one half (R41): a slot's terminal view (R1) and a half's last report (R33). -/
structure View where
  doorOpen  : Bool
  lock      : LockView
  status    : MachineStatus
  errorCode : Nat
  heat      : Bool
  phase     : Phase
  deriving DecidableEq, Repr

/-- The resume point of a suspended slot (R26). -/
inductive Resume where
  | locking | running
  deriving DecidableEq, Repr

/-- A reservation of one slot (R162); its class is the slot's. -/
structure Reservation where
  card    : Nat
  account : Nat
  joined  : Clock
  window  : Nat
  deriving DecidableEq, Repr

/-- The class and terminal half of a configured slot (R1). -/
structure SlotCfg where
  cls  : Fin 4
  term : Fin 16
  half : Half
  deriving DecidableEq, Repr

/-- One strike counter and its raised flag (R131). -/
structure Strike where
  count  : Nat
  raised : Bool
  deriving DecidableEq, Repr

/-- The four strike tests, in the order of R132. -/
inductive SenseTest where
  | heaterOpen | overcurrent | ungrantedDraw | idleDraw
  deriving DecidableEq, Repr

/-- What the sense scanner keeps for one slot (R130 to R132): the measured draw, the four tests, whether the heater-open
test is armed, and, for the present scan, whether the slot's conversion has begun, whether its result is stale, and the class
under which the scan has the slot: none where it is not on the scan list or its class became none since (R123). -/
structure SlotSense where
  amps       : Nat
  watts      : Nat
  heaterOpen : Strike
  overcurrent : Strike
  ungranted  : Strike
  idleDraw   : Strike
  armed      : Bool
  begun      : Bool
  stale      : Bool
  scanned    : Option (Fin 4)
  deriving DecidableEq, Repr

/-- The slot context (R1). -/
structure Slot where
  cfg         : Option SlotCfg
  state       : SlotState
  causes      : Causes
  run         : Nat
  phase       : Phase
  heatReq     : Bool
  heatGrant   : Bool
  remaining   : Nat
  topUp       : Nat
  cool        : Nat
  timer       : Option Nat
  resume      : Option Resume
  reservation : Option Reservation
  warning     : Bool
  outputs     : Outputs
  view        : View
  sense       : SlotSense
  deriving DecidableEq, Repr

/-! ### Terminals (02) -/

inductive Presence where
  | absent | present | lost
  deriving DecidableEq, Repr

inductive TermMode where
  | single | paired
  deriving DecidableEq, Repr

/-- The display codes (R49). -/
inductive DisplayCode where
  | none | ready | paid | closeDoor | running | waitPower | suspended | collect | outOfService | reservedOther
  | reservedYou | unknownCard | cardBlocked | lowBalance | dailyCap | roomClosed | queueFull | waitlistPosition
  | waitlistFull | freeAt | topUpAdded | topUpLimit | inUse | noPower
  deriving DecidableEq, Repr

/-- A display code with its parameter, 0 where it has none (R49, R59). -/
structure Display where
  code  : DisplayCode
  param : Nat
  deriving DecidableEq, Repr

/-- What the terminal table keeps for one half (R33). -/
structure HalfEntry where
  lasting : Display
  pending : Display
  number  : Nat
  brief   : Option Nat
  report  : Option View
  deriving DecidableEq, Repr

/-- One entry of the terminal table (R33). Slot A and slot B mirror the slot configuration and are read from it. -/
structure Terminal where
  presence : Presence
  mode     : TermMode
  misses   : Nat
  deferral : Bool
  tag      : Nat
  tagValid : Bool
  halfA    : HalfEntry
  halfB    : HalfEntry
  deriving DecidableEq, Repr

/-- The kinds of poll (02, section 2.2). -/
inductive PollKind where
  | rotation | probe | outOfTurn
  deriving DecidableEq, Repr

/-- Where the bus stands: between two turns, in a poll exchange, or with the contention window of the exchange to come. -/
inductive BusTurn where
  | between
  | exchange (address : Fin 16) (kind : PollKind)
  | window
  deriving DecidableEq, Repr

/-- A character as it is sent on a line (R54): its eight data bits and its ninth bit, set on an address character. -/
structure Character where
  data  : Byte
  ninth : Bool
  deriving DecidableEq, Repr

/-- The terminal bus controller's own state (R36, R37, R43, R53), and the characters of the last frame it sent. -/
structure Bus where
  turn      : BusTurn
  winner    : Option (Fin 16)
  position  : Fin 16
  count     : Nat
  probeDue  : Bool
  pointer   : Fin 16
  broadcast : Bool
  sent      : List Character
  deriving DecidableEq, Repr

/-! ### Accounts, holds, prices, settlement (03, 04) -/

inductive AccountState where
  | free | active | blocked | suspect
  deriving DecidableEq, Repr

/-- An account record (R60). -/
structure Account where
  card     : Nat
  state    : AccountState
  balance  : Nat
  held     : Nat
  cap      : Nat
  spent    : Nat
  spendDay : Nat
  deriving DecidableEq, Repr

/-- The price snapshot (R73), with the kind of the class that a settlement takes from it (R86). -/
structure Snapshot where
  cls   : Fin 4
  kind  : Kind
  band  : Nat
  price : Nat
  planned : Nat
  step  : Nat
  stepPrice : Nat
  granularity : Nat
  grace : Nat
  deriving DecidableEq, Repr

/-- A hold entry (R72). -/
structure Hold where
  account : Nat
  card    : Nat
  amount  : Nat
  snap    : Snapshot
  steps   : Nat
  storedRun : Nat
  startDay : Nat
  startSecond : Nat
  deriving DecidableEq, Repr

/-- The class settings of the slot controller (01, section 1.1; R194). -/
structure ClassCfg where
  kind    : Kind
  warning : Nat
  cool    : Nat
  deriving DecidableEq, Repr

/-- A price entry (R80): B, P, S, T. -/
structure PriceEntry where
  price     : Nat
  planned   : Nat
  step      : Nat
  stepPrice : Nat
  deriving DecidableEq, Repr

/-- The price table (R80, R81): the entry of class c in band b at place 2 c + b, and the device-wide settings. -/
structure PriceCfg where
  entries     : Vector PriceEntry 8
  granularity : Nat
  grace       : Nat
  bandStart   : Nat
  bandEnd     : Nat
  deriving DecidableEq, Repr

/-- The reasons of a settlement (R95, R101). -/
inductive Reason where
  | completed | userStop | notStarted | fault | abandoned | outage | outageComplete | storeLoss
  deriving DecidableEq, Repr

/-- The fault codes (R137). -/
inductive FaultCode where
  | lockFail | unlockFail | doorForced | heaterOpen | overcurrent | ungrantedDraw | idleDraw | overrun | terminalLost
  | machineError | restoredLockout | senseReference | feedOver | storeIntegrity
  deriving DecidableEq, Repr

/-- A settlement record (R95). -/
structure Settlement where
  number    : Nat
  account   : Nat
  card      : Nat
  slot      : Nat
  cls       : Nat
  band      : Nat
  held      : Nat
  charge    : Nat
  reason    : Reason
  run       : Nat
  paid      : Nat
  steps     : Option Nat
  fault     : Option FaultCode
  errorCode : Option Nat
  ended     : Clock
  deriving DecidableEq, Repr

/-- The settlement queue (R94, R96) and the store place its oldest record stands in (R204). -/
structure SettlementQueue where
  records : List Settlement
  oldest  : Nat
  next    : Nat
  deriving DecidableEq, Repr

/-! ### The load governor (05) -/

/-- A class's governor settings (R102). -/
structure GovClass where
  motor    : Nat
  heat     : Nat
  priority : Nat
  deriving DecidableEq, Repr

/-- The governor configuration (R102). -/
structure GovCfg where
  budget  : Nat
  margin  : Nat
  classes : Vector GovClass 4
  deriving DecidableEq, Repr

/-- A heat request (R109); whether it is WAITING or GRANTED is told by the list it stands in. -/
structure HeatRequest where
  slot   : Fin 24
  cls    : Fin 4
  stamp  : Nat
  passes : Nat
  aged   : Bool
  deriving DecidableEq, Repr

/-- The governor's figures and lists (R104, R105, R109, R110, R119). -/
structure Governor where
  motor     : Nat
  stray     : Nat
  heat      : Int
  grants    : List HeatRequest
  waits     : List HeatRequest
  stamp     : Nat
  feedOver  : Nat
  feedRaised : Bool
  deriving DecidableEq, Repr

/-! ### Sensing (06) -/

/-- An input's zero and scale (R134). -/
structure Calibration where
  zero  : Nat
  scale : Nat
  deriving DecidableEq, Repr

/-- The sense configuration (R134). -/
structure SenseCfg where
  inputs : Vector Calibration 25
  volts  : Nat
  deriving DecidableEq, Repr

/-- The conversion in progress (R122, R124): one of the scan, or one asked for by a port. -/
inductive Conversion where
  | scan (input : Nat)
  | onDemand (p : Port) (input : Nat)
  deriving DecidableEq, Repr

/-- A scaled result held until its scan ends (R123, R128). -/
structure ScanResult where
  slot  : Fin 24
  amps  : Nat
  watts : Nat
  deriving DecidableEq, Repr

/-- The sense scanner (R122 to R127). -/
structure Scanner where
  converter : Option Conversion
  waiting   : List (Port × Nat)
  active    : Bool
  toConvert : List Nat
  results   : List ScanResult
  feed      : Nat
  number    : Nat
  ended     : Nat
  valid     : Bool
  refFault  : Bool
  feedWatts : Nat
  deriving DecidableEq, Repr

/-! ### Faults (07) -/

inductive Severity where
  | note | stop | lockout | lost
  deriving DecidableEq, Repr

inductive Condition where
  | active | latched
  deriving DecidableEq, Repr

/-- An entry of the open-fault table (R142); the source DEVICE is none. -/
structure FaultEntry where
  source      : Option (Fin 24)
  code        : FaultCode
  errorCode   : Option Nat
  first       : Clock
  last        : Clock
  occurrences : Nat
  condition   : Condition
  severity    : Severity
  deriving DecidableEq, Repr

/-- The closing reasons (R151). -/
inductive Closing where
  | cleared (p : Port)
  | displaced
  | untabled
  deriving DecidableEq, Repr

/-- A closed entry of the fault history ring (R151). -/
structure ClosedFault where
  entry  : FaultEntry
  number : Nat
  reason : Closing
  closed : Clock
  deriving DecidableEq, Repr

/-- The open-fault table, the history ring (oldest first) and the next history number (07). -/
structure Faults where
  table   : List FaultEntry
  history : List ClosedFault
  next    : Nat
  deriving DecidableEq, Repr

/-! ### The waitlist (08) -/

/-- An entry of a class queue (R158). -/
structure WaitEntry where
  card     : Nat
  account  : Nat
  joined   : Clock
  lifetime : Nat
  notified : Bool
  deriving DecidableEq, Repr

/-! ### The room (09) -/

inductive RoomState where
  | openRoom | closing | closed | suspended | held
  deriving DecidableEq, Repr

inductive Mode where
  | schedule | forceOpen | forceClosed
  deriving DecidableEq, Repr

/-- The causes a ROOM_STATE event carries (R176). -/
inductive RoomCause where
  | schedule | timeSet | settings | mode | holdsEnded | interlockActive | interlockInactive | resume | startUp
  deriving DecidableEq, Repr

/-- The suspension timer (R181). -/
inductive SuspTimer where
  | idle
  | running (deadline : Nat)
  | reached
  deriving DecidableEq, Repr

/-- The room configuration (R174). -/
structure RoomCfg where
  openMinute  : Nat
  closeMinute : Nat
  limit       : Nat
  collect     : Nat
  lifetime    : Nat
  window      : Nat
  mode        : Mode
  deriving DecidableEq, Repr

/-- Room control's own state (R176, R179, R181). -/
structure Room where
  state     : RoomState
  interlock : Bool
  timer     : SuspTimer
  deriving DecidableEq, Repr

/-! ### Events and ports (10) -/

/-- The event kinds with their fields (R201). -/
inductive EventBody where
  | slotState (slot : Fin 24) (state : SlotState) (causes : Causes) (card : Nat)
  | cycleEnd (slot : Fin 24) (number : Nat)
  | faultRaised (source : Option (Fin 24)) (code : FaultCode) (errorCode : Option Nat) (occurrences : Nat)
      (severity : Severity) (untabled : Bool)
  | faultCleared (source : Option (Fin 24)) (code : FaultCode) (p : Port) (causes : Option Causes)
  | waitlistReady (card : Nat) (slot : Fin 24) (cls : Fin 4) (minutes : Nat)
  | waitlistSoon (card : Nat) (slot : Fin 24) (minutes : Nat)
  | entryExpired (card : Nat) (cls : Fin 4) (position : Nat)
  | reservationExpired (card : Nat) (cls : Fin 4) (slot : Fin 24)
  | waitlistDropped (card : Nat) (cls : Fin 4)
  | roomState (before after : RoomState) (mode : Mode) (clockSet : Bool) (cause : RoomCause)
  | terminalPresence (address : Fin 16) (presence : Presence)
  | storeSuspect (group number : Nat)
  deriving DecidableEq, Repr

/-- An event with its number and the room clock when it was queued (R198). -/
structure Event where
  number : Nat
  body   : EventBody
  time   : Clock
  deriving DecidableEq, Repr

/-- The event queue, oldest first (R198). -/
structure EventQueue where
  queue : List Event
  next  : Nat
  lost  : Nat
  deriving DecidableEq, Repr

/-- The statuses of a reply (R188). -/
inductive Status where
  | ok | unknownKind | badLength | badValue | wrongState | notFound | full | limit | notPermitted | stillActive
  deriving DecidableEq, Repr

/-- A port's counts (R197). -/
structure PortCounts where
  taken      : Nat
  broadcasts : Nat
  errors     : Nat
  overruns   : Nat
  deriving DecidableEq, Repr

/-- The reply to ROOM_STATUS (R184): `states` counts the slots in each state, in the row order of R3. -/
structure RoomReport where
  state       : RoomState
  mode        : Mode
  calledOpen  : Bool
  clock       : Clock
  openMinute  : Nat
  closeMinute : Nat
  band        : Nat
  interlock   : Bool
  timer       : SuspTimer
  secondsLeft : Option Nat
  holds       : Nat
  states      : List Nat
  unit        : Nat
  strapMarginal : Bool
  deriving DecidableEq, Repr

/-- The reply to SLOT_STATUS (R195). -/
structure SlotReport where
  slot        : Slot
  secondsLeft : Option Nat
  hold        : Option Hold
  heldAmount  : Nat
  paidSeconds : Nat
  deriving DecidableEq, Repr

/-- The reply to PORT_STATUS (R197). -/
structure PortReport where
  building     : PortCounts
  service      : PortCounts
  buildingBusy : Bool
  serviceBusy  : Bool
  unit         : Nat
  turn         : Option Port
  events       : Nat
  lost         : Nat
  next         : Nat
  deriving DecidableEq, Repr

/-- A granted or waiting request as GRANTS_READ reports it (R121). -/
structure RequestReport where
  request  : HeatRequest
  priority : Nat
  heat     : Nat
  deriving DecidableEq, Repr

/-- The reply to GRANTS_READ (R121). -/
structure GovReport where
  budget      : Nat
  margin      : Nat
  motor       : Nat
  stray       : Nat
  heat        : Int
  granted     : Nat
  motorActive : Nat
  feedOver    : Nat
  feedRaised  : Bool
  stamp       : Nat
  grants      : List RequestReport
  waits       : List RequestReport
  deriving DecidableEq, Repr

/-- The reply to SENSE_READ (R125). -/
structure SenseReport where
  input     : Nat
  count     : Nat
  amps      : Option Nat
  watts     : Option Nat
  calibration : Option Calibration
  strap     : Option (Nat × Bool × Nat)
  scan      : Nat
  valid     : Bool
  volts     : Nat
  slot      : Option SlotSense
  feedWatts : Option Nat
  deriving DecidableEq, Repr

/-- The reply to WAITLIST_READ (R170). -/
structure WaitReport where
  lifetime     : Nat
  window       : Nat
  entries      : List WaitEntry
  reserved     : Nat
  reservations : List (Fin 24 × Reservation)
  deriving DecidableEq, Repr

/-- What a reply carries after its status. -/
inductive ReplyBody where
  | empty
  | room (r : RoomReport)
  | slot (r : SlotReport)
  | terminal (t : Terminal) (slotA slotB : Option (Fin 24))
  | ports (r : PortReport)
  | events (lost : Nat) (events : List (List Byte)) (left next : Nat)
  | cls (c : ClassCfg)
  | price (e : PriceEntry)
  | clock (c : Clock)
  | account (a : Account) (available : Nat)
  | credit (balance available : Nat)
  | settlements (records holds next : Nat) (oldest : List (List Byte))
  | released (removed left : Nat) (oldest : Option Nat)
  | notReleased (left : Nat) (oldest : Option Nat)
  | slotCauses (state : SlotState) (causes : Causes)
  | stopped (state : SlotState) (number : Nat)
  | faults (count : Nat) (entries : List FaultEntry)
  | history (count : Nat) (oldest : Option Nat) (next : Nat) (gap : Bool) (entries : List ClosedFault)
  | cleared (entry : Option FaultEntry) (slot : Option (SlotState × Causes))
  | budget (feed : Nat) (heat : Int)
  | grants (r : GovReport)
  | waits (r : WaitReport)
  | removedEntry (position left : Nat)
  | removedReservation (slot : Fin 24) (left : Nat)
  | roomMode (mode : Mode) (state : RoomState)
  | resumed (state : RoomState) (slots : Nat)
  | sense (r : SenseReport)
  deriving DecidableEq, Repr

/-- A reply (R201): the request's kind echoed, the status and the body. -/
structure Reply where
  kind   : Nat
  status : Status
  body   : ReplyBody
  deriving DecidableEq, Repr

/-- What a port is doing (R187, R189, R190). `storing` waits for as many store changes to be done; `sensing` for a
conversion; `deferred` is a broadcast BUDGET_SET that waits for the store turn; `built` has its reply built, and `sending` has
begun to send it. -/
inductive Activity where
  | idle
  | storing (reply : Reply) (changes : Nat)
  | sensing (input : Nat)
  | deferred (budget : Nat)
  | built (reply : Reply)
  | sending (reply : Reply)
  deriving DecidableEq, Repr

/-- A host port (R187, R197), with the frame that its assembly has open: the address and the bytes received after it (R57,
R185). -/
structure PortUnit where
  activity : Activity
  counts   : PortCounts
  frame    : Option (Byte × List Byte) := none
  deriving DecidableEq, Repr

/-! ### The record store (11) -/

/-- The settlement header (R204). -/
structure Header where
  oldest : Nat
  count  : Nat
  next   : Nat
  deriving DecidableEq, Repr

/-- The nonvolatile records (R204); none, or an index not listed among the accounts, is unwritten. A slot configuration
may be written as class none. -/
structure Store where
  accounts  : List (Nat × Account)
  holds     : Vector (Option Hold) 24
  places    : Vector (Option Settlement) 64
  header    : Option Header
  classes   : Vector (Option ClassCfg) 4
  prices    : Option PriceCfg
  slots     : Vector (Option (Option SlotCfg)) 24
  terminals : Vector (Option TermMode) 16
  governor  : Option GovCfg
  sense     : Option SenseCfg
  room      : Option RoomCfg
  causes    : Vector (Option Causes) 24
  deriving DecidableEq, Repr

/-- One record's write or erasure. -/
inductive StoreWrite where
  | account (i : Nat) (a : Account)
  | hold (n : Fin 24) (h : Option Hold)
  | place (p : Fin 64) (r : Option Settlement)
  | header (h : Header)
  | cls (c : Fin 4) (k : ClassCfg)
  | prices (p : PriceCfg)
  | slot (n : Fin 24) (c : Option SlotCfg)
  | terminal (t : Fin 16) (m : TermMode)
  | governor (g : GovCfg)
  | sense (c : SenseCfg)
  | room (r : RoomCfg)
  | causes (n : Fin 24) (c : Option Causes)
  deriving DecidableEq, Repr

/-! ### The part as a whole -/

/-- What a port has of a RESTART (R196): none taken; one taken, its reply not ended; or its reply ended, with the start-up waiting for
the other port's reply. -/
inductive RestartStage where
  | none
  | taken
  | ended
  deriving DecidableEq, Repr

/-- The RESTARTs taken, on each port (R196). -/
structure Restarts where
  building : RestartStage
  service  : RestartStage
  deriving DecidableEq, Repr

/-- Where the part stands between two start-ups (R205, R135, R196): waiting for a start-up; reading the strap with the
number of marginal readings so far; running; or with a start-up due at the end of a RESTART. -/
inductive Life where
  | waiting
  | strap (readings : Nat)
  | running
  | restartDue
  deriving DecidableEq, Repr

/-- The settings kept in the record store's configuration groups 4, 5, 8, 9 and 10. -/
structure Settings where
  classes  : Vector ClassCfg 4
  prices   : PriceCfg
  governor : GovCfg
  sense    : SenseCfg
  room     : RoomCfg
  deriving DecidableEq, Repr

structure State where
  life       : Life
  clock      : Clock
  elapsed    : Nat
  unit       : Nat
  strapMarginal : Bool
  settings   : Settings
  room       : Room
  slots      : Vector Slot 24
  terminals  : Vector Terminal 16
  bus        : Bus
  accounts   : List (Nat × Account)
  holds      : Vector (Option Hold) 24
  settlement : SettlementQueue
  gov        : Governor
  scanner    : Scanner
  faults     : Faults
  queues     : Vector (List WaitEntry) 4
  building   : PortUnit
  service    : PortUnit
  turn       : Option Port
  restart    : Restarts
  events     : EventQueue
  store      : Store
  writes     : List (List StoreWrite)
  free       : Nat
  pending    : List Instr
  deriving DecidableEq, Repr

/-- The LC24 raises no fault that stops it: the inductive is empty (log 33; safe, since nothing is left out by it). -/
inductive Fault where
  deriving DecidableEq, Repr

/-- Why a step gives no next state. -/
inductive Refusal where
  /-- raised by `exec` alone, for a command whose meaning is not written yet; safe -/
  | notModelled (mnemonic : String)
  deriving DecidableEq, Repr

/-! ### Reset: every field at its start-up value, with a store in which nothing was ever written (log 5, log 6) -/

def Clock.start : Clock := ⟨0, 0, false⟩
def Causes.empty : Causes := ⟨false, false, false, false⟩
/-- The terminal view at start-up (R1). -/
def View.start : View := ⟨true, .unlocked, .idle, 0, false, .none⟩
def SlotSense.start : SlotSense :=
  ⟨0, 0, ⟨0, false⟩, ⟨0, false⟩, ⟨0, false⟩, ⟨0, false⟩, false, false, false, none⟩
/-- An UNCONFIGURED slot at start-up (R1). -/
def Slot.start : Slot :=
  { cfg := none, state := .unconfigured, causes := .empty, run := 0, phase := .none, heatReq := false,
    heatGrant := false, remaining := 0, topUp := 0, cool := 0, timer := none, resume := none, reservation := none,
    warning := false, outputs := ⟨false, false, false⟩, view := .start, sense := .start }
def Display.blank : Display := ⟨.none, 0⟩
def HalfEntry.start (d : Display) : HalfEntry := ⟨d, d, 0, none, none⟩
/-- A terminal table entry at start-up (R33). -/
def Terminal.start (m : TermMode) (a b : Display) : Terminal :=
  ⟨.absent, m, 0, false, 0, false, .start a, .start b⟩
/-- The bus at start-up (R36, R37). -/
def Bus.start (broadcast : Bool) : Bus := ⟨.between, none, 15, 0, false, 0, broadcast, []⟩
/-- A FREE record (R60). -/
def Account.free : Account := ⟨0, .free, 0, 0, 0, 0, 0⟩
def Account.suspect : Account := ⟨0, .suspect, 0, 0, 0, 0, 0⟩
/-- The default of R194. -/
def ClassCfg.default : ClassCfg := ⟨.washer, 5, 180⟩
/-- The defaults of R80 and R81. -/
def PriceCfg.default : PriceCfg := ⟨Vector.replicate 8 ⟨0, 3600, 10, 0⟩, 5, 120, 0, 0⟩
/-- The defaults of R102. -/
def GovCfg.default : GovCfg := ⟨20000, 300, Vector.replicate 4 ⟨400, 4000, 0⟩⟩
/-- The defaults of R134. -/
def SenseCfg.default : SenseCfg := ⟨Vector.replicate 25 ⟨0, 0⟩, 230⟩
/-- The defaults of R174. -/
def RoomCfg.default : RoomCfg := ⟨0, 0, 30, 15, 120, 10, .schedule⟩
def Settings.default : Settings :=
  ⟨Vector.replicate 4 .default, .default, .default, .default, .default⟩
/-- The governor at start-up, before any motor is counted (R104, R105, R110, R119). -/
def Governor.start (heat : Int) : Governor := ⟨0, 0, heat, [], [], 0, 0, false⟩
/-- The scanner at start-up (R122, R123, R126, R127). -/
def Scanner.start : Scanner := ⟨none, [], false, [], [], 0, 0, 0, false, false, 0⟩
def Restarts.start : Restarts := ⟨.none, .none⟩
def PortUnit.start : PortUnit := ⟨.idle, ⟨0, 0, 0, 0⟩, none⟩
/-- A store in which nothing was ever written. -/
def Store.unwritten : Store :=
  { accounts := [], holds := Vector.replicate 24 none, places := Vector.replicate 64 none, header := none,
    classes := Vector.replicate 4 none, prices := none, slots := Vector.replicate 24 none,
    terminals := Vector.replicate 16 none, governor := none, sense := none, room := none,
    causes := Vector.replicate 24 none }

/-- The machine right after reset. -/
def State.reset : State :=
  { life := .waiting, clock := .start, elapsed := 0, unit := 0, strapMarginal := false, settings := .default,
    room := ⟨.openRoom, false, .idle⟩, slots := Vector.replicate 24 .start,
    terminals := Vector.replicate 16 (.start .single .blank .blank), bus := .start false, accounts := [],
    holds := Vector.replicate 24 none, settlement := ⟨[], 0, 0⟩, gov := .start 20000, scanner := .start,
    faults := ⟨[], [], 0⟩, queues := Vector.replicate 4 [], building := .start, service := .start, turn := none,
    restart := .start, events := ⟨[], 0, 0⟩, store := .unwritten, writes := [], free := 0, pending := [] }

end Sys2Proof.Machine
end

