-- ==== Sys2Proof/Machine/Access.lean ====
section
/-!
DEFINITION. Reading and writing the tables of the state: slots, terminals, halves, holds, accounts, class queues, ports.
Every other file reads and writes them through these.
-/

namespace Sys2Proof.Machine

/-! ### Slots, in ascending order wherever several are taken -/

def allSlots : List (Fin 24) := List.finRange 24
def allTerminals : List (Fin 16) := List.finRange 16
def allClasses : List (Fin 4) := List.finRange 4

def State.slot (s : State) (n : Fin 24) : Slot := s.slots[n.val]
def State.setSlot (s : State) (n : Fin 24) (x : Slot) : State := { s with slots := s.slots.set n.val x }
def State.modSlot (s : State) (n : Fin 24) (f : Slot → Slot) : State := s.setSlot n (f (s.slot n))

/-- The slot of a number, where the number names one. -/
def slotOf (n : Nat) : Option (Fin 24) := if h : n < 24 then some ⟨n, h⟩ else none
def terminalOf (n : Nat) : Option (Fin 16) := if h : n < 16 then some ⟨n, h⟩ else none
def classOf (n : Nat) : Option (Fin 4) := if h : n < 4 then some ⟨n, h⟩ else none

/-- Apply an operation for each slot in ascending order (R6, R106, R133). -/
def overSlots (f : Fin 24 → State → State) (s : State) : State := allSlots.foldl (fun s n => f n s) s

/-! ### Holds (R72) -/

def State.hold (s : State) (n : Fin 24) : Option Hold := s.holds[n.val]
def State.setHold (s : State) (n : Fin 24) (h : Option Hold) : State := { s with holds := s.holds.set n.val h }

/-- The number of full hold entries. -/
def State.holdCount (s : State) : Nat := (allSlots.filter fun n => (s.hold n).isSome).length

/-! ### Accounts (R60): a list of (index, record) pairs, indexes strictly rising, no FREE record listed -/

/-- The record listed at an index. -/
def Accounts.find : List (Nat × Account) → Nat → Option Account
  | [], _ => none
  | (k, a) :: t, i => if k = i then some a else Accounts.find t i

/-- List a record at an index, in place of the one listed there. -/
def Accounts.put : List (Nat × Account) → Nat → Account → List (Nat × Account)
  | [], i, a => [(i, a)]
  | (k, b) :: t, i, a =>
    if i < k then (i, a) :: (k, b) :: t else if i = k then (i, a) :: t else (k, b) :: Accounts.put t i a

/-- List nothing at an index. -/
def Accounts.erase : List (Nat × Account) → Nat → List (Nat × Account)
  | [], _ => []
  | (k, b) :: t, i => if k = i then Accounts.erase t i else (k, b) :: Accounts.erase t i

/-- The record at an index; an unlisted index is FREE with every field 0. -/
def Accounts.read (t : List (Nat × Account)) (i : Nat) : Account := (Accounts.find t i).getD .free

/-- Write a record, keeping the canonical form: a FREE record with every field 0 is not listed. -/
def Accounts.write (t : List (Nat × Account)) (i : Nat) (a : Account) : List (Nat × Account) :=
  if a = .free then Accounts.erase t i else Accounts.put t i a

/-- Every index listed is above `i`, and they rise strictly. -/
def Accounts.above : Option Nat → List (Nat × Account) → Bool
  | _, [] => true
  | low, (k, a) :: t => (match low with | none => true | some i => decide (i < k)) && decide (a ≠ .free)
      && decide (k < 512) && Accounts.above (some k) t

/-- The canonical form: indexes below 512, strictly rising, and no entry equal to what an unlisted index reads as. -/
def Accounts.wf (t : List (Nat × Account)) : Bool := Accounts.above none t

def State.account (s : State) (i : Nat) : Account := Accounts.read s.accounts i
def State.setAccount (s : State) (i : Nat) (a : Account) : State :=
  { s with accounts := Accounts.write s.accounts i a }

/-- The balance less the held amount (R60). -/
def Account.available (a : Account) : Nat := a.balance - a.held

/-- The index of the record that is not FREE and carries the card id (R62); a card id of 0 is on none. -/
def State.findCard (s : State) (card : Nat) : Option Nat :=
  if card = 0 then none
  else (s.accounts.find? fun e => e.2.state ≠ .free ∧ e.2.card = card).map (·.1)

/-! ### Class settings, queues -/

def State.cls (s : State) (c : Fin 4) : ClassCfg := s.settings.classes[c.val]
def State.govClass (s : State) (c : Fin 4) : GovClass := s.settings.governor.classes[c.val]
def State.queue (s : State) (c : Fin 4) : List WaitEntry := s.queues[c.val]
def State.setQueue (s : State) (c : Fin 4) (q : List WaitEntry) : State := { s with queues := s.queues.set c.val q }

/-! ### Terminals and their halves (R33) -/

def State.terminal (s : State) (t : Fin 16) : Terminal := s.terminals[t.val]
def State.setTerminal (s : State) (t : Fin 16) (x : Terminal) : State :=
  { s with terminals := s.terminals.set t.val x }
def State.modTerminal (s : State) (t : Fin 16) (f : Terminal → Terminal) : State := s.setTerminal t (f (s.terminal t))

def Terminal.half (x : Terminal) : Half → HalfEntry
  | .a => x.halfA
  | .b => x.halfB
def Terminal.setHalf (x : Terminal) (h : Half) (e : HalfEntry) : Terminal :=
  match h with
  | .a => { x with halfA := e }
  | .b => { x with halfB := e }
def State.half (s : State) (t : Fin 16) (h : Half) : HalfEntry := (s.terminal t).half h
def State.modHalf (s : State) (t : Fin 16) (h : Half) (f : HalfEntry → HalfEntry) : State :=
  s.modTerminal t fun x => x.setHalf h (f (x.half h))

/-- The slot configured on a half: slot A or slot B of the entry, which mirrors the slot configuration (R33). -/
def State.slotAt (s : State) (t : Fin 16) (h : Half) : Option (Fin 24) :=
  allSlots.find? fun n =>
    match (s.slot n).cfg with
    | some c => c.term = t ∧ c.half = h
    | none => false

/-- The slots configured on a terminal, in ascending order, as the events that reach each of them take them (R6, R162). -/
def State.slotsOn (s : State) (t : Fin 16) : List (Fin 24) :=
  allSlots.filter fun n => (s.slot n).cfg.any fun c => c.term = t

/-! ### Ports -/

def State.port (s : State) : Port → PortUnit
  | .building => s.building
  | .service => s.service
def State.setPort (s : State) (p : Port) (u : PortUnit) : State :=
  match p with
  | .building => { s with building := u }
  | .service => { s with service := u }
def State.setActivity (s : State) (p : Port) (a : Activity) : State :=
  s.setPort p { s.port p with activity := a }
/-- What a port has of a RESTART (R196). -/
def Restarts.of (r : Restarts) : Port → RestartStage
  | .building => r.building
  | .service => r.service
def Restarts.set (r : Restarts) (p : Port) (x : RestartStage) : Restarts :=
  match p with
  | .building => { r with building := x }
  | .service => { r with service := x }
/-- The frame that a port's assembly has open (R57). -/
def State.setFrame (s : State) (p : Port) (f : Option (Byte × List Byte)) : State :=
  s.setPort p { s.port p with frame := f }
def State.modCounts (s : State) (p : Port) (f : PortCounts → PortCounts) : State :=
  s.setPort p { s.port p with counts := f (s.port p).counts }

/-- A port is BUSY while it is not IDLE (R187). -/
def State.portBusy (s : State) (p : Port) : Bool := (s.port p).activity != .idle
def otherPort : Port → Port
  | .building => .service
  | .service => .building

end Sys2Proof.Machine
end

