-- ==== Sys2Proof/Machine/Flags.lean ====
section
/-!
DEFINITION. The conditions and figures the rules test and name: busy, in service, motor-active, the desired outputs and
timers of a state, the band, the mode state, the estimate of a cycle, the charge of a settlement, the scaled current,
the strike conditions, the strap's bands.
-/

namespace Sys2Proof.Machine

/-! ### Slot states (01, section 1.2) -/

/-- A slot is busy while it holds a hold (01, section 1.2). -/
def SlotState.busy : SlotState → Bool
  | .armed | .locking | .running | .awaitPower | .suspended | .recovering => true
  | .unconfigured | .outOfService | .idle | .reserved | .finishing | .faulted | .collect => false

/-- The row number of a state in the table of R3 (R201, R203). -/
def SlotState.code : SlotState → Nat
  | .unconfigured => 0 | .outOfService => 1 | .idle => 2 | .reserved => 3 | .armed => 4 | .locking => 5
  | .running => 6 | .awaitPower => 7 | .suspended => 8 | .recovering => 9 | .finishing => 10 | .faulted => 11
  | .collect => 12

def SlotState.all : List SlotState :=
  [.unconfigured, .outOfService, .idle, .reserved, .armed, .locking, .running, .awaitPower, .suspended, .recovering,
   .finishing, .faulted, .collect]

/-- The desired outputs of R3; in RUNNING heat-permit follows the heat grant flag. -/
def outputsOf (st : SlotState) (grant : Bool) : Outputs :=
  match st with
  | .locking | .suspended => ⟨true, false, false⟩
  | .running => ⟨true, true, grant⟩
  | .awaitPower | .recovering => ⟨true, true, false⟩
  | .unconfigured | .outOfService | .idle | .reserved | .armed | .finishing | .faulted | .collect =>
    ⟨false, false, false⟩

/-- Whether a slot counts as motor-active (R3, R104). -/
def Slot.motorActive (x : Slot) : Bool :=
  match x.state with
  | .locking | .running | .awaitPower | .suspended | .recovering | .finishing | .faulted => true
  | .outOfService => x.causes.lost
  | .unconfigured | .idle | .reserved | .armed | .collect => false

/-- The seconds of a state's timer (R3). -/
def State.stateSeconds (s : State) : SlotState → Option Nat
  | .armed => some 180
  | .locking => some 20
  | .recovering => some 30
  | .finishing | .faulted => some 20
  | .collect => some (s.settings.room.collect * 60)
  | .unconfigured | .outOfService | .idle | .reserved | .running | .awaitPower | .suspended => none

/-- A timer or deadline that has been reached (R1: a deadline in elapsed seconds). -/
def State.reached (s : State) (deadline : Option Nat) : Bool :=
  match deadline with
  | some d => d ≤ s.elapsed
  | none => false

/-- The seconds left to a deadline (R195). -/
def State.secondsLeft (s : State) (deadline : Option Nat) : Option Nat := deadline.map (· - s.elapsed)

def Causes.isEmpty (c : Causes) : Bool := !(c.host || c.service || c.lockout || c.lost)

def Causes.has (c : Causes) : Cause → Bool
  | .host => c.host
  | .service => c.service
  | .lockout => c.lockout
  | .lost => c.lost

def Causes.set (c : Causes) (m : Cause) (v : Bool) : Causes :=
  match m with
  | .host => { c with host := v }
  | .service => { c with service := v }
  | .lockout => { c with lockout := v }
  | .lost => { c with lost := v }

/-- The cause a port takes and returns (R155, R156). -/
def portCause : Port → Cause
  | .building => .host
  | .service => .service

/-- The class of a configured slot. -/
def State.slotCls (s : State) (n : Fin 24) : Option (Fin 4) := (s.slot n).cfg.map (·.cls)

/-- The kind of a slot's class (01, section 1.1). -/
def State.kind (s : State) (n : Fin 24) : Kind :=
  match s.slotCls n with
  | some c => (s.cls c).kind
  | none => .washer

/-- The class motor draw of a slot (R102). -/
def State.motorDraw (s : State) (n : Fin 24) : Nat :=
  match s.slotCls n with
  | some c => (s.govClass c).motor
  | none => 0

/-- Some slot of the class is busy (R194). -/
def State.classBusy (s : State) (c : Fin 4) : Bool :=
  allSlots.any fun n => s.slotCls n == some c && (s.slot n).state.busy

/-- Some slot of the class is busy or motor-active (R102). -/
def State.classActive (s : State) (c : Fin 4) : Bool :=
  allSlots.any fun n => s.slotCls n == some c && ((s.slot n).state.busy || (s.slot n).motorActive)

/-! ### The clock, bands and the mode state (R84, R172, R175) -/

/-- The minute of day (R84, R172). -/
def Clock.minute (c : Clock) : Nat := c.second / 60

/-- A span of minutes that may run across midnight; its first minute belongs to it, its end does not (R84, R175). -/
def inSpan (a b m : Nat) : Bool := if a < b then a ≤ m && m < b else a ≤ m || m < b

/-- The band in force (R84). -/
def State.band (s : State) : Nat :=
  let p := s.settings.prices
  if s.clock.isSet && p.bandStart != p.bandEnd && inSpan p.bandStart p.bandEnd s.clock.minute then 1 else 0

/-- The price entry of a class in a band (R80). -/
def State.priceEntry (s : State) (c : Fin 4) (band : Nat) : PriceEntry :=
  s.settings.prices.entries[2 * c.val + (if band = 0 then 0 else 1)]'(by have := c.isLt; split <;> omega)

/-- The current price of a class (R85). -/
def State.currentPrice (s : State) (c : Fin 4) : Nat := (s.priceEntry c s.band).price

/-- Whether the mode and the clock call the room open (R175). -/
def State.calledOpen (s : State) : Bool :=
  let r := s.settings.room
  match r.mode with
  | .forceOpen => true
  | .forceClosed => false
  | .schedule => !s.clock.isSet || r.openMinute == r.closeMinute || inSpan r.openMinute r.closeMinute s.clock.minute

/-- The mode state (R175). -/
def State.modeState (s : State) : RoomState :=
  if s.calledOpen then .openRoom else if s.holdCount = 0 then .closed else .closing

/-- The room display (R52). -/
def RoomState.display : RoomState → Option Display
  | .openRoom => none
  | .closing | .closed => some ⟨.roomClosed, 0⟩
  | .suspended | .held => some ⟨.suspended, 0⟩

/-! ### The estimate of a cycle (R25) -/

/-- The planned seconds P of a slot's hold. -/
def State.planned (s : State) (n : Fin 24) : Nat := (s.hold n).elim 0 (·.snap.planned)

/-- The seconds left of a running cycle (R25); a washer's may fall below 0. -/
def State.estimate (s : State) (n : Fin 24) : Int :=
  match s.kind n with
  | .washer => (s.planned n : Int) - (s.slot n).run
  | .dryer => ((s.slot n).remaining + 60 * (s.slot n).topUp + (s.slot n).cool : Nat)

/-- The minutes left: the estimate in minutes rounded up, 0 when it is 0 or below (R25). -/
def State.minutesLeft (s : State) (n : Fin 24) : Nat := ((s.estimate n).toNat + 59) / 60

/-- An end that a slot's counters have reached and whose own command is due: a washer past 2 × P (R15), a dryer with no
paid seconds left in DRY or no cool seconds left in COOL (R20). -/
def State.endDue (s : State) (n : Fin 24) : Bool :=
  let x := s.slot n
  match s.kind n with
  | .washer => decide (2 * s.planned n < x.run)
  | .dryer => (x.phase == .dry && x.remaining == 0) || (x.phase == .cool && x.cool == 0)

/-! ### The settlement arithmetic (R86 to R88) -/

/-- The paid seconds Q of a hold, by the kind in its snapshot (R86). -/
def Hold.paidSeconds (h : Hold) : Nat :=
  match h.snap.kind with
  | .washer => h.snap.planned
  | .dryer => h.snap.planned + 60 * h.steps * h.snap.step

/-- The proportional charge with grace (R88). -/
def proportional (held paid granularity grace run : Nat) : Nat :=
  if run < grace then 0 else granularity * (held * min run paid / paid / granularity)

/-- The charge a reason produces (R87). -/
def chargeOf (reason : Reason) (held paid granularity grace run : Nat) : Nat :=
  match reason with
  | .completed | .userStop | .outageComplete => held
  | .notStarted | .storeLoss => 0
  | .fault | .abandoned | .outage => proportional held paid granularity grace run

/-! ### The load governor's figures (R104, R105, R107) -/

/-- The motor allowance the slots make: the sum of the class motor draws of the motor-active slots (R104). -/
def State.motorSum (s : State) : Nat :=
  (allSlots.map fun n => if (s.slot n).motorActive then s.motorDraw n else 0).sum

/-- The effective heat budget that the figures make (R105). -/
def State.heatBudget (s : State) : Int :=
  (s.settings.governor.budget : Int) - s.gov.motor - s.gov.stray

/-- The granted heat: the class heat draws of the slots on the grant list (R105). -/
def State.grantedHeat (s : State) : Nat := (s.gov.grants.map fun r => (s.govClass r.cls).heat).sum

/-- The admission test for a class (R107). -/
def State.admits (s : State) (c : Fin 4) : Bool :=
  decide ((s.gov.motor : Int) + (s.govClass c).motor ≤ (s.settings.governor.budget : Int) - s.gov.stray)

/-- The stray load of a scan (R105): the feed watts beyond the slot watts, rounded up to a multiple of 100. -/
def strayOf (feed slots : Nat) : Nat := (feed - slots + 99) / 100 * 100

/-! ### Sensing (R126, R128, R129, R132, R135, R136) -/

/-- The current in deciamps of a count (R128, R129). -/
def ampsOf (c : Calibration) (limit count : Nat) : Nat :=
  if count ≤ c.zero then 0 else min limit ((count - c.zero) * c.scale / 1024)

/-- The watts of a current (R128). -/
def wattsOf (volts amps : Nat) : Nat := amps * volts / 10

/-- The current limit of an input: 9,999 dA for FEED, 999 dA for a slot input (R128, R129). -/
def ampsLimit (input : Nat) : Nat := if input = 24 then 9999 else 999

/-- The calibration of an input 0..24; other inputs have none (R134). -/
def State.calibration (s : State) (input : Nat) : Calibration :=
  if h : input < 25 then s.settings.sense.inputs[input] else ⟨0, 0⟩

/-- The scaled current and watts of a count of an input (R128, R129). -/
def State.scaled (s : State) (input count : Nat) : Nat × Nat :=
  let i := ampsOf (s.calibration input) (ampsLimit input) count
  (i, wattsOf s.settings.sense.volts i)

/-- The reference check (R126). -/
def referenceValid (count : Nat) : Bool := 1950 ≤ count && count ≤ 2150

/-- The number of consecutive strikes of a test (R132). -/
def SenseTest.strikes : SenseTest → Nat
  | .heaterOpen | .ungrantedDraw | .idleDraw => 3
  | .overcurrent => 2

/-- The fault a test raises (R132). -/
def SenseTest.fault : SenseTest → FaultCode
  | .heaterOpen => .heaterOpen
  | .overcurrent => .overcurrent
  | .ungrantedDraw => .ungrantedDraw
  | .idleDraw => .idleDraw

def SenseTest.all : List SenseTest := [.heaterOpen, .overcurrent, .ungrantedDraw, .idleDraw]

def SlotSense.strike (x : SlotSense) : SenseTest → Strike
  | .heaterOpen => x.heaterOpen
  | .overcurrent => x.overcurrent
  | .ungrantedDraw => x.ungranted
  | .idleDraw => x.idleDraw

def SlotSense.setStrike (x : SlotSense) (t : SenseTest) (k : Strike) : SlotSense :=
  match t with
  | .heaterOpen => { x with heaterOpen := k }
  | .overcurrent => { x with overcurrent := k }
  | .ungrantedDraw => { x with ungranted := k }
  | .idleDraw => { x with idleDraw := k }

/-- The condition of a test on a slot whose scan watts are `w` (R132); an uncalibrated input makes every one false. The draws are
those of the class under which the scan has the slot: a SLOT_SET taken during it takes effect at the next (R123). -/
def State.strikeCondition (s : State) (n : Fin 24) (t : SenseTest) (w : Nat) : Bool :=
  let x := s.slot n
  let m := x.sense.scanned.elim 0 fun c => (s.govClass c).motor
  let d := x.sense.scanned.elim 0 fun c => (s.govClass c).heat
  (s.calibration n.val).scale != 0 &&
  match t with
  | .heaterOpen => x.heatGrant && x.sense.armed && decide (10 * w < 4 * d)
  | .overcurrent =>
    x.state != .unconfigured && decide (2 * w > 3 * (if x.heatGrant then m + d else m))
  | .ungrantedDraw =>
    x.motorActive && !x.heatGrant && !x.causes.lost && decide (2 * w > 2 * m + d)
  | .idleDraw =>
    (x.state == .idle || x.state == .reserved || x.state == .armed || x.state == .collect) && decide (w > 200)

/-- The strap boundary 512 × j, j in 1..7, within 32 of which a count lies (R135). -/
def strapBoundary (count : Nat) : Option Nat :=
  [1, 2, 3, 4, 5, 6, 7].find? fun j => decide (512 * j ≤ count + 32 ∧ count ≤ 512 * j + 32)

/-- A marginal count (R135). -/
def strapIsMarginal (count : Nat) : Bool := (strapBoundary count).isSome

/-- The unit address of a reading: the band the count lies in (R135). It is also the address of R136: below a boundary
the nearest centre is that of the band below it, at or above the boundary that of the band above. -/
def strapAddress (count : Nat) : Nat := count / 512

/-! ### Faults (R137, R140) -/

/-- The base severity of a code (R137). -/
def FaultCode.severity : FaultCode → Severity
  | .lockFail | .unlockFail | .overcurrent | .ungrantedDraw | .restoredLockout => .lockout
  | .doorForced | .heaterOpen | .overrun | .machineError => .stop
  | .idleDraw | .senseReference | .feedOver | .storeIntegrity => .note
  | .terminalLost => .lost

/-- The severity a raise applies when its open entry's occurrence count is `n` (R140). -/
def FaultCode.applied (c : FaultCode) (n : Nat) : Severity :=
  if c.severity = .stop ∧ 3 ≤ n then .lockout else c.severity

/-- The reason a fault hands to the payment unit (R138). -/
def FaultCode.reason : FaultCode → Reason
  | .doorForced => .userStop
  | _ => .fault

/-- Codes whose raise ends their condition (R144). -/
def FaultCode.selfLatching : FaultCode → Bool
  | .overrun | .storeIntegrity => true
  | _ => false

/-- Door OPEN and lock LOCKED (R22). -/
def View.forced (v : View) : Bool := v.doorOpen && v.lock == .locked

end Sys2Proof.Machine
end

