-- ==== Sys2Proof/WellFormed.lean ====
section
/-!
DEFINITION. Which commands are well formed: the operand ranges that the spec gives what a command stands for. Values that
a request's own rule refuses (BAD_VALUE) are well formed: refusing them is the request's effect.
-/

namespace Sys2Proof

/-- The number of records in each group of the store (R204). -/
def recordsInGroup : Nat → Nat
  | 0 => 512 | 1 => 24 | 2 => 64 | 3 => 1 | 4 => 4 | 5 => 1
  | 6 => 24 | 7 => 16 | 8 => 1 | 9 => 1 | 10 => 1 | 11 => 24
  | _ => 0

/-- The kind values of the request catalogue (R192). -/
def catalogueKinds : List Nat :=
  [0x01, 0x02, 0x03, 0x04, 0x08, 0x10, 0x11, 0x12, 0x13, 0x14, 0x15, 0x16, 0x17, 0x20, 0x21, 0x22, 0x23, 0x24, 0x28,
   0x29, 0x30, 0x31, 0x38, 0x39, 0x3A, 0x40, 0x41, 0x48, 0x49, 0x50, 0x51, 0x58, 0x60]

/-- A conversion's count is 0..4,095 (R122). -/
def countOk (n : Nat) : Bool := n < 4096

/-- A failing record is one of the store's (R204). -/
def recordOk (r : RecordId) : Bool := r.number < recordsInGroup r.group

/-- A request's body leaves its length field within 1..200 (R201). -/
def bodyOk (body : List Byte) : Bool := body.length < 200

/-- The first body byte is not the one that names the kind's other form (R188, R202). -/
def formOk (other : Byte) (body : List Byte) : Bool := bodyOk body && body.head? != some other

def startInputOk (i : StartInput) : Bool := countOk i.count && i.failed.all recordOk

/-- The well-formed commands. -/
def Instr.wellFormed : Instr → Bool
  | .startUp i | .strapReread i => startInputOk i
  | .rotationPoll | .probePoll | .outOfTurnPoll | .broadcastDisplay => true
  | .terminalReply chars => chars.length == 21                    -- R59: a reply has 21 characters
  | .malformedReply | .replyTimeout => true
  | .contentionWindow _ _ _ _ _ => true
  | .briefDeadline _ _ => true
  | .armedDeadline _ | .lockingDeadline _ | .unlockDeadline _ | .collectWindowExpiry _ | .recoveryDeadline _ => true
  | .runSecond | .overrun _ | .paidSecondsExhausted _ | .coolDownEnd _ => true
  | .waitlistEntryExpiry _ position => 1 ≤ position && position ≤ 8   -- R158
  | .reservationExpiry _ => true
  | .scanStart => true
  | .conversionResult n | .scanEnd n | .onDemandConversionResult n => countOk n
  | .clockSecond | .minuteChange | .interlockActive | .interlockInactive | .suspensionLimit | .storeWriteDone => true
  | .hostReplyEnd _ => true
  | .hostFrameDiscard _ chars => chars.length != 0
  | .frameGapTimeout _ _ | .hostFrameOverrun _ _ | .frameNotForUnit _ => true
  | .broadcastDropped _ _ body => bodyOk body
  | .broadcastTimeSet _ body | .broadcastBudgetSet _ body => bodyOk body
  | .broadcastBudgetDeferred _ => true
  | .unknownKindRequest _ kind body => bodyOk body && !catalogueKinds.contains kind.toNat
  | .priceSetEntry _ body | .governorSetGeneral _ body | .senseSetInput _ body => formOk 1 body
  | .priceSetGeneral _ body | .governorSetClass _ body | .senseSetGeneral _ body => formOk 0 body
  | .slotServiceTake _ body => bodyOk body && body[1]? != some 1
  | .slotServiceReturn _ body => bodyOk body && body[1]? != some 0
  | .roomStatus _ body | .slotStatus _ body | .terminalStatus _ body | .portStatus _ body | .eventsRead _ body
  | .classSet _ body | .slotSet _ body | .terminalSet _ body | .roomSet _ body | .timeSet _ body
  | .accountPut _ body | .accountCredit _ body | .accountState _ body | .accountRemove _ body | .accountRead _ body
  | .settlementRead _ body | .settlementRelease _ body | .slotStop _ body | .faultsRead _ body | .historyRead _ body
  | .faultClear _ body | .budgetSet _ body | .grantsRead _ body | .waitlistRead _ body | .waitlistRemove _ body
  | .roomMode _ body | .roomResume _ body | .senseRead _ body | .restart _ body => bodyOk body
  | .powerLoss => true

end Sys2Proof
end

