-- ==== Sys2Proof/Machine/Operands.lean ====
section
/-!
DEFINITION. What the bytes of requests, events and records mean: the one-byte codes (R203, R137, R49, R101, R188), the
bodies of the requests (R202), the layouts of an event (R201) and of a settlement record (R101), and the request
catalogue (R188, R190, R192).
-/

namespace Sys2Proof.Machine

/-! ### One-byte codes -/

def flagOf : Nat → Option Bool
  | 0 => some false
  | 1 => some true
  | _ => none

def halfOf : Nat → Option Half
  | 0 => some .a
  | 1 => some .b
  | _ => none

def kindOfCode : Nat → Option Kind
  | 0 => some .washer
  | 1 => some .dryer
  | _ => none

def termModeOf : Nat → Option TermMode
  | 0 => some .single
  | 1 => some .paired
  | _ => none

def modeOf : Nat → Option Mode
  | 0 => some .schedule
  | 1 => some .forceOpen
  | 2 => some .forceClosed
  | _ => none

/-- The account states a request may name: ACTIVE or BLOCKED (R65, R67). -/
def accountStateOf : Nat → Option AccountState
  | 1 => some .active
  | 2 => some .blocked
  | _ => none

/-- A fault source: 0..23, or 0xFF for DEVICE (R203). -/
def sourceOf (n : Nat) : Option (Option (Fin 24)) :=
  if n = 0xFF then some none else (slotOf n).map some

def FaultCode.value : FaultCode → Nat
  | .lockFail => 1 | .unlockFail => 2 | .doorForced => 3 | .heaterOpen => 4 | .overcurrent => 5 | .ungrantedDraw => 6
  | .idleDraw => 7 | .overrun => 8 | .terminalLost => 9 | .machineError => 10 | .restoredLockout => 11
  | .senseReference => 12 | .feedOver => 13 | .storeIntegrity => 14

def FaultCode.all : List FaultCode :=
  [.lockFail, .unlockFail, .doorForced, .heaterOpen, .overcurrent, .ungrantedDraw, .idleDraw, .overrun, .terminalLost,
   .machineError, .restoredLockout, .senseReference, .feedOver, .storeIntegrity]

def faultCodeOf (n : Nat) : Option FaultCode := FaultCode.all.find? fun c => c.value = n

def DisplayCode.value : DisplayCode → Nat
  | .none => 0 | .ready => 1 | .paid => 2 | .closeDoor => 3 | .running => 4 | .waitPower => 5 | .suspended => 6
  | .collect => 7 | .outOfService => 8 | .reservedOther => 9 | .reservedYou => 10 | .unknownCard => 11
  | .cardBlocked => 12 | .lowBalance => 13 | .dailyCap => 14 | .roomClosed => 15 | .queueFull => 16
  | .waitlistPosition => 17 | .waitlistFull => 18 | .freeAt => 19 | .topUpAdded => 20 | .topUpLimit => 21
  | .inUse => 22 | .noPower => 23

def Reason.value : Reason → Nat
  | .completed => 0 | .userStop => 1 | .notStarted => 2 | .fault => 3 | .abandoned => 4 | .outage => 5
  | .outageComplete => 6 | .storeLoss => 7

def Severity.value : Severity → Nat
  | .note => 0 | .stop => 1 | .lockout => 2 | .lost => 3

def RoomState.value : RoomState → Nat
  | .openRoom => 0 | .closing => 1 | .closed => 2 | .suspended => 3 | .held => 4

def Mode.value : Mode → Nat
  | .schedule => 0 | .forceOpen => 1 | .forceClosed => 2

def RoomCause.value : RoomCause → Nat
  | .schedule => 0 | .timeSet => 1 | .settings => 2 | .mode => 3 | .holdsEnded => 4 | .interlockActive => 5
  | .interlockInactive => 6 | .resume => 7 | .startUp => 8

def Presence.value : Presence → Nat
  | .absent => 0 | .present => 1 | .lost => 2

def portValue : Port → Nat
  | .building => 0 | .service => 1

def halfValue : Half → Nat
  | .a => 0 | .b => 1

def Kind.value : Kind → Nat
  | .washer => 0 | .dryer => 1

def TermMode.value : TermMode → Nat
  | .single => 0 | .paired => 1

def AccountState.value : AccountState → Nat
  | .free => 0 | .active => 1 | .blocked => 2 | .suspect => 3

def Status.value : Status → Nat
  | .ok => 0 | .unknownKind => 1 | .badLength => 2 | .badValue => 3 | .wrongState => 4 | .notFound => 5 | .full => 6
  | .limit => 7 | .notPermitted => 8 | .stillActive => 9

def sourceValue (source : Option (Fin 24)) : Nat := source.elim 0xFF (·.val)

/-- A cause set in one byte (R201). -/
def Causes.value (c : Causes) : Nat :=
  (if c.host then 1 else 0) + (if c.service then 2 else 0) + (if c.lockout then 4 else 0) + (if c.lost then 8 else 0)

def bit (b : Bool) : Nat := if b then 1 else 0

/-! ### Layouts -/

/-- The kind value and the field bytes of an event (R201), unused bytes sent as 0. -/
def EventBody.bytes : EventBody → Nat × List Byte
  | .slotState n st c card => (1, beBytes 1 n ++ beBytes 1 st.code ++ beBytes 1 c.value ++ beBytes 4 card)
  | .cycleEnd n number => (2, beBytes 1 n ++ beBytes 4 number ++ beBytes 2 0)
  | .faultRaised src c e occ sev u =>
    (3, beBytes 1 (sourceValue src) ++ beBytes 1 c.value ++ beBytes 1 (e.getD 0) ++ beBytes 1 occ ++
      beBytes 1 sev.value ++ beBytes 1 (bit u) ++ beBytes 1 0)
  | .faultCleared src c p causes =>
    (4, beBytes 1 (sourceValue src) ++ beBytes 1 c.value ++ beBytes 1 (portValue p) ++
      beBytes 1 (causes.elim 0 Causes.value) ++ beBytes 3 0)
  | .waitlistReady card n c minutes => (5, beBytes 4 card ++ beBytes 1 n ++ beBytes 1 c ++ beBytes 1 minutes)
  | .waitlistSoon card n minutes => (6, beBytes 4 card ++ beBytes 1 n ++ beBytes 1 minutes ++ beBytes 1 0)
  | .entryExpired card c position => (7, beBytes 4 card ++ beBytes 1 c ++ beBytes 1 0 ++ beBytes 1 position)
  | .reservationExpired card c n => (7, beBytes 4 card ++ beBytes 1 c ++ beBytes 1 1 ++ beBytes 1 n)
  | .waitlistDropped card c => (8, beBytes 4 card ++ beBytes 1 c ++ beBytes 2 0)
  | .roomState before after mode isSet cause =>
    (9, beBytes 1 before.value ++ beBytes 1 after.value ++ beBytes 1 mode.value ++ beBytes 1 (bit isSet) ++
      beBytes 1 cause.value ++ beBytes 2 0)
  | .terminalPresence t p => (10, beBytes 1 t ++ beBytes 1 p.value ++ beBytes 5 0)
  | .storeSuspect g n => (11, beBytes 1 g ++ beBytes 2 n ++ beBytes 4 0)

/-- The 16 bytes of an event in a reply to EVENTS_READ (R201). -/
def Event.bytes (e : Event) : List Byte :=
  beBytes 2 e.number ++ beBytes 1 e.body.bytes.1 ++ beBytes 2 e.time.day ++ beBytes 3 e.time.second ++
    beBytes 1 (bit e.time.isSet) ++ e.body.bytes.2

/-- The 33 bytes of a settlement record in a reply to SETTLEMENT_READ (R101). -/
def Settlement.bytes (r : Settlement) : List Byte :=
  beBytes 4 r.number ++ beBytes 2 r.account ++ beBytes 4 r.card ++ beBytes 1 r.slot ++ beBytes 1 r.cls ++
    beBytes 1 r.band ++ beBytes 3 r.held ++ beBytes 3 r.charge ++ beBytes 1 r.reason.value ++ beBytes 2 r.run ++
    beBytes 2 r.paid ++
    beBytes 1 (bit r.steps.isSome + 2 * bit r.fault.isSome + 4 * bit r.errorCode.isSome + 8 * bit r.ended.isSet) ++
    beBytes 1 (r.steps.getD 0) ++ beBytes 1 (r.fault.elim 0 FaultCode.value) ++ beBytes 1 (r.errorCode.getD 0) ++
    beBytes 2 r.ended.day ++ beBytes 3 r.ended.second

/-! ### The codes in a reply (R203) -/

def SlotCfg.codes (c : SlotCfg) : List Nat := [halfValue c.half]
def Clock.codes (c : Clock) : List Nat := [bit c.isSet]
def View.codes (v : View) : List Nat := [bit v.heat]
def HalfEntry.codes (e : HalfEntry) : List Nat :=
  [e.lasting.code.value, e.pending.code.value] ++ e.report.elim [] View.codes
def Terminal.codes (t : Terminal) : List Nat :=
  [t.presence.value, t.mode.value, bit t.deferral, bit t.tagValid] ++ t.halfA.codes ++ t.halfB.codes

/-- The codes of a slot context (R1); its sensing is not of it. -/
def Slot.codes (x : Slot) : List Nat :=
  [x.state.code, x.causes.value, bit x.heatReq, bit x.heatGrant, bit x.warning] ++ x.cfg.elim [] SlotCfg.codes ++ x.view.codes

/-- The raised flags of the four strike tests, in the order of R132 (R125, R131). -/
def SlotSense.codes (x : SlotSense) : List Nat :=
  [bit x.heaterOpen.raised, bit x.overcurrent.raised, bit x.ungranted.raised, bit x.idleDraw.raised]

def WaitEntry.codes (e : WaitEntry) : List Nat := e.joined.codes ++ [bit e.notified]
def FaultEntry.codes (e : FaultEntry) : List Nat :=
  [sourceValue e.source, e.code.value] ++ e.first.codes ++ e.last.codes ++ [e.severity.value]
def ClosedFault.codes (e : ClosedFault) : List Nat :=
  e.entry.codes ++ (match e.reason with | .cleared p => [portValue p] | .displaced | .untabled => []) ++ e.closed.codes

/-- The device's enumerated values and flags that a reply's body carries, as the one-byte codes in which it carries them
(R203). The fields' widths and their order in a body are not given (log 20). -/
def ReplyBody.codes : ReplyBody → List Nat
  | .room r => [r.state.value, r.mode.value, bit r.calledOpen] ++ r.clock.codes ++ [bit r.interlock, bit r.strapMarginal]
  | .slot r => r.slot.codes ++ r.hold.elim [] fun h => [h.snap.kind.value]
  | .terminal t _ _ => t.codes
  | .ports r => [bit r.buildingBusy, bit r.serviceBusy] ++ r.turn.elim [] fun p => [portValue p]
  | .cls c => [c.kind.value]
  | .clock c => c.codes
  | .account a _ => [a.state.value]
  | .slotCauses st c => [st.code, c.value]
  | .stopped st _ => [st.code]
  | .faults _ es => es.flatMap FaultEntry.codes
  | .history _ _ _ gap es => bit gap :: es.flatMap ClosedFault.codes
  | .cleared e x => e.elim [] FaultEntry.codes ++ x.elim [] fun y => [y.1.code, y.2.value]
  | .grants r => bit r.feedRaised :: r.waits.map fun q => bit q.request.aged
  | .waits r => r.entries.flatMap WaitEntry.codes ++ r.reservations.flatMap fun x => x.2.joined.codes
  | .roomMode m st => [m.value, st.value]
  | .resumed st _ => [st.value]
  | .sense r => bit r.valid :: r.strap.elim [] (fun x => [bit x.2.1]) ++ r.slot.elim [] SlotSense.codes
  | .empty | .events .. | .price _ | .credit .. | .settlements .. | .released .. | .notReleased .. | .budget ..
  | .removedEntry .. | .removedReservation .. => []

/-! ### The request catalogue -/

/-- The kinds refused as a whole from the service port (R192): EVENTS_READ and SETTLEMENT_RELEASE. -/
def kindRefused (p : Port) (kind : Nat) : Bool := p == .service && (kind == 0x08 || kind == 0x29)

/-- The kinds that write stored records and so take the store turn (R190): CLASS_SET to ROOM_SET but for TIME_SET,
BUDGET_SET, the five account requests, SETTLEMENT_RELEASE, SLOT_SERVICE, SLOT_STOP, FAULT_CLEAR, ROOM_MODE and
ROOM_RESUME. -/
def kindWrites (kind : Nat) : Bool :=
  [0x10, 0x11, 0x12, 0x13, 0x14, 0x15, 0x16, 0x20, 0x21, 0x22, 0x23, 0x24, 0x29, 0x30, 0x31, 0x3A, 0x40, 0x50,
   0x51].contains kind

/-- The classes of a frame by its port and address (R185). -/
inductive FrameClass where
  | request | broadcast | notForUnit | inError
  deriving DecidableEq, Repr

def frameClass (unit : Nat) (p : Port) (address : Nat) : FrameClass :=
  if address = 0x1F then .broadcast
  else match p with
    | .building => if address = unit then .request else .notForUnit
    | .service => if address < 8 then .request else .inError

/-! ### Bodies of requests (R202): the fields, or the status a wrong length or form gives (R188, test 3) -/

def bodyNone : List Byte → Except Status Unit
  | [] => .ok ()
  | _ => .error .badLength

/-- One field of one byte. -/
def body1 : List Byte → Except Status Nat
  | [a] => .ok a.toNat
  | _ => .error .badLength

/-- Two fields of one byte. -/
def body11 : List Byte → Except Status (Nat × Nat)
  | [a, b] => .ok (a.toNat, b.toNat)
  | _ => .error .badLength

/-- Three fields of one byte. -/
def body111 : List Byte → Except Status (Nat × Nat × Nat)
  | [a, b, c] => .ok (a.toNat, b.toNat, c.toNat)
  | _ => .error .badLength

/-- One field of two bytes. -/
def body2 : List Byte → Except Status Nat
  | [a, b] => .ok (beNat [a, b])
  | _ => .error .badLength

/-- One field of three bytes. -/
def body3 : List Byte → Except Status Nat
  | [a, b, c] => .ok (beNat [a, b, c])
  | _ => .error .badLength

/-- One field of four bytes. -/
def body4 : List Byte → Except Status Nat
  | [a, b, c, d] => .ok (beNat [a, b, c, d])
  | _ => .error .badLength

/-- Two bytes, then one. -/
def body21 : List Byte → Except Status (Nat × Nat)
  | [a, b, c] => .ok (beNat [a, b], c.toNat)
  | _ => .error .badLength

/-- Two bytes, then three. -/
def body23 : List Byte → Except Status (Nat × Nat)
  | [a, b, c, d, e] => .ok (beNat [a, b], beNat [c, d, e])
  | _ => .error .badLength

/-- One byte, then four. -/
def body14 : List Byte → Except Status (Nat × Nat)
  | [a, b, c, d, e] => .ok (a.toNat, beNat [b, c, d, e])
  | _ => .error .badLength

/-- Four fields of one byte. -/
def body1111 : List Byte → Except Status (Nat × Nat × Nat × Nat)
  | [a, b, c, d] => .ok (a.toNat, b.toNat, c.toNat, d.toNat)
  | _ => .error .badLength

/-- CLASS_SET: class, kind, warning minutes, cool time. -/
def bodyClassSet : List Byte → Except Status (Nat × Nat × Nat × Nat)
  | [a, b, c, d, e] => .ok (a.toNat, b.toNat, c.toNat, beNat [d, e])
  | _ => .error .badLength

/-- The form a body's first byte names, with the bytes behind it: form 0, form 1, or the status of a body that names
none. -/
def bodyForm : List Byte → Except Status (Bool × List Byte)
  | [] => .error .badLength
  | f :: rest => if f = 0 then .ok (false, rest) else if f = 1 then .ok (true, rest) else .error .badValue

/-- PRICE_SET, entry form, behind its form byte: class, band, B, P, S, T. -/
def bodyPriceEntry : List Byte → Except Status (Nat × Nat × PriceEntry)
  | [c, b, b1, b0, p1, p0, st, t1, t0] =>
    .ok (c.toNat, b.toNat, ⟨beNat [b1, b0], beNat [p1, p0], st.toNat, beNat [t1, t0]⟩)
  | _ => .error .badLength

/-- PRICE_SET, general form, behind its form byte: G, g, band start minute, band end minute. -/
def bodyPriceGeneral : List Byte → Except Status (Nat × Nat × Nat × Nat)
  | [g, h1, h0, a1, a0, b1, b0] => .ok (g.toNat, beNat [h1, h0], beNat [a1, a0], beNat [b1, b0])
  | _ => .error .badLength

/-- GOVERNOR_SET, general form, behind its form byte: feed budget, revoke margin. -/
def bodyGovernorGeneral : List Byte → Except Status (Nat × Nat)
  | [b2, b1, b0, m1, m0] => .ok (beNat [b2, b1, b0], beNat [m1, m0])
  | _ => .error .badLength

/-- GOVERNOR_SET, class form, behind its form byte: class, motor draw, heat draw, priority. -/
def bodyGovernorClass : List Byte → Except Status (Nat × GovClass)
  | [c, m1, m0, h1, h0, p] => .ok (c.toNat, ⟨beNat [m1, m0], beNat [h1, h0], p.toNat⟩)
  | _ => .error .badLength

/-- SENSE_SET, input form, behind its form byte: input, zero, scale. -/
def bodySenseInput : List Byte → Except Status (Nat × Calibration)
  | [i, z1, z0, k1, k0] => .ok (i.toNat, ⟨beNat [z1, z0], beNat [k1, k0]⟩)
  | _ => .error .badLength

/-- ROOM_SET: open minute, close minute, suspension limit, collect window, entry lifetime, reservation window. -/
def bodyRoomSet : List Byte → Except Status (Nat × Nat × Nat × Nat × Nat × Nat)
  | [a1, a0, b1, b0, l, c, e1, e0, w] =>
    .ok (beNat [a1, a0], beNat [b1, b0], l.toNat, c.toNat, beNat [e1, e0], w.toNat)
  | _ => .error .badLength

/-- ACCOUNT_PUT: index, card id, state, balance, daily cap. -/
def bodyAccountPut : List Byte → Except Status (Nat × Nat × Nat × Nat × Nat)
  | [i1, i0, c3, c2, c1, c0, st, b2, b1, b0, d2, d1, d0] =>
    .ok (beNat [i1, i0], beNat [c3, c2, c1, c0], st.toNat, beNat [b2, b1, b0], beNat [d2, d1, d0])
  | _ => .error .badLength

end Sys2Proof.Machine
end

