-- ==== Sys2Proof/Machine/Frames.lean ====
section
/-!
DEFINITION. Characters and frames: the character receiver (R54 to R56), frame assembly and the check value (R57), and the
frames of the terminal bus (R38, R39, R53, R59).
-/

namespace Sys2Proof.Machine

/-! ### The character receiver (R55, R56) -/

/-- The majority of three samples (R43, R55). -/
def majority (b : BitVec 3) : Bool :=
  (b.getLsbD 0 && b.getLsbD 1) || (b.getLsbD 0 && b.getLsbD 2) || (b.getLsbD 1 && b.getLsbD 2)

/-- The value of a character's bit `k`, 0 the start bit and 10 the stop bit. -/
def charBit (c : RxChar) (k : Nat) : Bool := majority ((c.samples >>> (3 * k)).setWidth 3)

/-- What the receiver makes of a character: nothing (no start found, or a false start), a framing error, or a character
with its data and its ninth bit. -/
inductive Received where
  | nothing
  | framingError
  | char (data : Byte) (ninth : Bool)
  deriving DecidableEq, Repr

/-- The eight data bits of a character, least significant first on the line. -/
def charData (c : RxChar) : Byte :=
  BitVec.ofNat 8 (bit (charBit c 1) + 2 * bit (charBit c 2) + 4 * bit (charBit c 3) + 8 * bit (charBit c 4) +
    16 * bit (charBit c 5) + 32 * bit (charBit c 6) + 64 * bit (charBit c 7) + 128 * bit (charBit c 8))

/-- A start needs three high samples before it and a start bit whose majority is low; a low stop bit is a framing
error (R55, R56). -/
def receive (c : RxChar) : Received :=
  if c.quiet < 3 || charBit c 0 then .nothing
  else if charBit c 10 then .char (charData c) (charBit c 9)
  else .framingError

/-- A character on the line with all its samples clean, a gap of so many high samples after the stop bit before it. -/
def cleanChar (gap : Nat) (c : Character) : RxChar :=
  let bits := false :: (List.range 8).map (fun k => c.data.getLsbD k) ++ [c.ninth, true]
  ⟨16 + gap, gap, BitVec.ofNat 33 (bits.foldr (fun b a => 8 * a + 7 * bit b) 0)⟩

/-! ### The check value (R57) -/

/-- One bit of the CRC: shift left, and take the polynomial x^16 + x^12 + x^5 + 1 when the bit shifted out is set. -/
def crcShift (r : BitVec 16) : BitVec 16 := if r.getLsbD 15 then (r <<< 1) ^^^ 0x1021#16 else r <<< 1

def crcByte (r : BitVec 16) (b : Byte) : BitVec 16 :=
  let x := r ^^^ (b.setWidth 16 <<< 8)
  crcShift (crcShift (crcShift (crcShift (crcShift (crcShift (crcShift (crcShift x)))))))

/-- The check value over the length field and every following byte up to the check (R57). -/
def crc16 (bs : List Byte) : BitVec 16 := bs.foldl crcByte 0xFFFF#16

/-- The two check characters, most significant first. -/
def checkBytes (bs : List Byte) : List Byte := beBytes 2 (crc16 bs).toNat

/-- The bytes of a frame after its address, with their check behind them. -/
def sealed (bs : List Byte) : List Byte := bs ++ checkBytes bs

/-- The characters of a frame: its address with the ninth bit set, and every other with it clear (R59, R201). -/
def framed (address : Byte) (bytes : List Byte) : List Character :=
  ⟨address, true⟩ :: bytes.map fun d => ⟨d, false⟩

/-- The received check agrees with the computed one. -/
def checkAgrees (bs : List Byte) : Bool := bs.drop (bs.length - 2) == checkBytes (bs.take (bs.length - 2))

/-! ### Frame assembly (R57) -/

/-- How an open frame ends: complete, with the bytes after its address; or discarded. -/
inductive FrameEnd where
  | complete (address : Byte) (bytes : List Byte)
  | badCharacter (address : Byte)
  | gap (address : Byte)
  | broken (address : Byte)
  deriving DecidableEq, Repr

/-- Three character times in samples (R39, R57): 3 × 11 bits of sixteen samples. -/
def gapSamples : Nat := 3 * 11 * 16

/-- The bytes after the address are a whole frame: the length field, as many bytes as it gives, and two check
characters. -/
def frameWhole (bs : List Byte) : Bool :=
  match bs with
  | [] => false
  | l :: rest => rest.length == l.toNat + 2

/-- Take one character into the open frame, if any: the frame that is open after it and the frames that ended. -/
def assembleChar (now : Option (Byte × List Byte)) (c : RxChar) : Option (Byte × List Byte) × List FrameEnd :=
  let late : Bool := decide (gapSamples < c.gap)
  let (now, ended) : Option (Byte × List Byte) × List FrameEnd :=
    match now with
    | some (a, bs) => if late then (none, [.gap a]) else (some (a, bs), [])
    | none => (none, [])
  match receive c, now with
  | .nothing, now => (now, ended)
  | .framingError, some (a, _) => (none, ended ++ [.badCharacter a])
  | .framingError, none => (none, ended)
  | .char d true, some (a, _) => (some (d, []), ended ++ [.broken a])
  | .char d true, none => (some (d, []), ended)
  | .char d false, some (a, bs) =>
    if frameWhole (bs ++ [d]) then (none, ended ++ [.complete a (bs ++ [d])]) else (some (a, bs ++ [d]), ended)
  | .char _ false, none => (none, ended)

/-- The frames that a run of characters ends, and the frame left open. -/
def assemble (now : Option (Byte × List Byte)) : List RxChar → List FrameEnd × Option (Byte × List Byte)
  | [] => ([], now)
  | c :: cs =>
    let r := assembleChar now c
    let rest := assemble r.1 cs
    (r.2 ++ rest.1, rest.2)

/-- A frame as it stands on a line, its characters following one another with no gap. -/
def lineOf (address : Byte) (bytes : List Byte) : List RxChar :=
  (framed address bytes).map (cleanChar 0)

/-! ### A terminal's reply (R39, R59) -/

/-- One half of a reply: its report fields, its latched events and its card id. -/
structure HalfReply where
  view  : View
  start : Bool
  stop  : Bool
  tap   : Bool
  card  : Nat
  deriving DecidableEq, Repr

structure TerminalReply where
  tag : Nat
  a   : HalfReply
  b   : HalfReply
  deriving DecidableEq, Repr

def phaseOf : Nat → Option Phase
  | 0 => some .none | 1 => some .fill | 2 => some .wash | 3 => some .rinse | 4 => some .spin
  | _ => none

def phaseValue : Phase → Nat
  | .none | .dry | .cool => 0
  | .fill => 1 | .wash => 2 | .rinse => 3 | .spin => 4

def lockOf : Nat → Option LockView
  | 0 => some .unlocked | 1 => some .locked | 2 => some .moving
  | _ => none

def lockValue : LockView → Nat
  | .unlocked => 0 | .locked => 1 | .moving => 2

def statusOf : Nat → MachineStatus
  | 0 => .idle | 1 => .running | 2 => .done
  | _ => .error

def statusValue : MachineStatus → Nat
  | .idle => 0 | .running => 1 | .done => 2 | .error => 3

/-- The fields of one half, where its codes are ones R59 defines and a flagged tap carries a card id (R39). -/
def halfReplyOf (v ph err ev c3 c2 c1 c0 : Byte) : Option HalfReply :=
  match lockOf ((v.toNat / 2) % 4), phaseOf ph.toNat with
  | some lock, some phase =>
    let tap := ev.getLsbD 2
    let card := beNat [c3, c2, c1, c0]
    if tap && card == 0 then none
    else some
      { view := { doorOpen := v.getLsbD 0, lock := lock, status := statusOf ((v.toNat / 8) % 4),
                  errorCode := err.toNat, heat := v.getLsbD 5, phase := phase },
        start := ev.getLsbD 0, stop := ev.getLsbD 1, tap := tap, card := card }
  | _, _ => none

/-- The fields of a reply's bytes after its address, its length field 17 and its check agreeing (R39, R59). -/
def replyFields : List Byte → Option TerminalReply
  | [len, tag, va, pa, ea, la, a3, a2, a1, a0, vb, pb, eb, lb, b3, b2, b1, b0, k1, k0] =>
    if len = 17 && checkAgrees [len, tag, va, pa, ea, la, a3, a2, a1, a0, vb, pb, eb, lb, b3, b2, b1, b0, k1, k0] then
      match halfReplyOf va pa ea la a3 a2 a1 a0, halfReplyOf vb pb eb lb b3 b2 b1 b0 with
      | some a, some b => some ⟨tag.toNat, a, b⟩
      | _, _ => none
    else none
  | _ => none

/-- The address character of a terminal's reply: 0x20 plus its address (R39). -/
def replyAddress (t : Fin 16) : Byte := BitVec.ofNat 8 (0x20 + t.val)

/-- A good reply of the polled terminal (R39): the characters make one frame, complete, with the reply address, and its
fields are good. Anything else is malformed. -/
def goodReply (t : Fin 16) (chars : List RxChar) : Option TerminalReply :=
  match assemble none chars with
  | ([.complete a bytes], none) => if a = replyAddress t then replyFields bytes else none
  | _ => none

/-- The bytes of one half of a reply (R59). -/
def halfReplyBytes (x : HalfReply) : List Byte :=
  beBytes 1 (bit x.view.doorOpen + 2 * lockValue x.view.lock + 8 * statusValue x.view.status + 32 * bit x.view.heat) ++
    beBytes 1 (phaseValue x.view.phase) ++ beBytes 1 x.view.errorCode ++
    beBytes 1 (bit x.start + 2 * bit x.stop + 4 * bit x.tap) ++ beBytes 4 x.card

/-- The bytes of a reply after its address, with the check (R59). -/
def replyBytes (r : TerminalReply) : List Byte :=
  sealed (17 :: beBytes 1 r.tag ++ halfReplyBytes r.a ++ halfReplyBytes r.b)

/-- A reply's fields are ones its bytes can carry: a washer phase, byte-wide codes, a card id exactly with a tap. -/
def HalfReply.ok (x : HalfReply) : Bool :=
  x.view.phase != .dry && x.view.phase != .cool && decide (x.view.errorCode < 256) && decide (x.card < 2 ^ 32) &&
    (!x.tap || x.card != 0)

def TerminalReply.ok (r : TerminalReply) : Bool := decide (r.tag < 256) && r.a.ok && r.b.ok

/-- A reply as its terminal puts it on the line. -/
def replyLine (t : Fin 16) (r : TerminalReply) : List RxChar := lineOf (replyAddress t) (replyBytes r)

/-! ### The frames the LC24 sends on the terminal bus (R38, R53, R59) -/

def pollKindValue : PollKind → Nat
  | .rotation => 0 | .probe => 1 | .outOfTurn => 2

/-- The six bytes of one half of a poll: outputs, display number, display code, parameter. -/
def pollHalf (o : Outputs) (e : HalfEntry) : List Byte :=
  beBytes 1 (bit o.locked + 2 * bit o.run + 4 * bit o.heat) ++ beBytes 1 e.number ++ beBytes 1 e.pending.code.value ++
    beBytes 3 e.pending.param

/-- The desired outputs carried for a half: those of its slot, or RELEASED, off, off with no slot configured (R38). -/
def State.halfOutputs (s : State) (t : Fin 16) (h : Half) : Outputs :=
  match s.slotAt t h with
  | some n => (s.slot n).outputs
  | none => ⟨false, false, false⟩

/-- A poll frame, built at the moment it is sent (R38). -/
def State.pollFrame (s : State) (t : Fin 16) (k : PollKind) : List Character :=
  let x := s.terminal t
  framed (BitVec.ofNat 8 t.val) (sealed (14 ::
    beBytes 1 (pollKindValue k + 4 * bit x.tagValid + 8 * bit (x.mode == .paired)) ++ beBytes 1 x.tag ++
    pollHalf (s.halfOutputs t .a) x.halfA ++ pollHalf (s.halfOutputs t .b) x.halfB))

/-- A broadcast frame of a display (R53, R59). -/
def broadcastFrame (d : Display) : List Character :=
  framed 0x1F (sealed ([5, 3] ++ beBytes 1 d.code.value ++ beBytes 3 d.param))

/-- The accepted reading of a contention window (R43): the address its slots spell, when the start slot reads low. -/
def windowAddress (start a3 a2 a1 a0 : BitVec 3) : Option (Fin 16) :=
  if majority start then none
  else terminalOf (8 * bit (majority a3) + 4 * bit (majority a2) + 2 * bit (majority a1) + bit (majority a0))

/-! ### The frames of the host ports (R185, R201) -/

/-- A request's or a broadcast's frame: address, length, kind, body, check. -/
def requestFrame (address kind : Byte) (body : List Byte) : List Character :=
  framed address (sealed (beBytes 1 (1 + body.length) ++ kind :: body))

/-- The kind and the body in the bytes of a frame after its address: a length, the kind, the body, two check bytes. -/
def requestParts : List Byte → Option (Byte × List Byte)
  | _ :: kind :: rest => some (kind, rest.take (rest.length - 2))
  | _ => none

/-- A reply's frame on a host port, around the bytes of its body (R185, R201): address, length, kind, status, body, check. The
fields of most bodies are given without their widths (log 20); most refusals have no body. -/
def Reply.frame (unit : Nat) (r : Reply) (body : List Byte) : List Character :=
  framed (BitVec.ofNat 8 (0x10 + unit))
    (sealed (beBytes 1 (2 + body.length) ++ beBytes 1 r.kind ++ beBytes 1 r.status.value ++ body))

end Sys2Proof.Machine
end

