-- ==== Sys2Proof/Machine/Ops.lean ====
section
/-!
DEFINITION. The operations every block shares: queueing an event (R198), setting a display (R50, R52), writing the record
store (R204), changing a slot's state (R3, R4), setting its heat grant flag (R18, R131), and the counts of a port (R197).
-/

namespace Sys2Proof.Machine

/-! ### Events (R198) -/

/-- Queue an event: with fewer than 64 in the queue it joins with the next number, otherwise the lost count rises. -/
def State.post (s : State) (b : EventBody) : State :=
  if s.events.queue.length < 64 then
    { s with events := { s.events with queue := s.events.queue ++ [⟨s.events.next, b, s.clock⟩],
                                       next := (s.events.next + 1) % 65536 } }
  else { s with events := { s.events with lost := min 255 (s.events.lost + 1) } }

/-- The NOTICE pin (R200). -/
def State.notice (s : State) : Bool := !s.events.queue.isEmpty

/-! ### The record store (R204) -/

/-- Start the write of one change, which the store takes whole (R91, R204). -/
def State.write (s : State) (ws : List StoreWrite) : State := { s with writes := s.writes ++ [ws] }

/-- What one record's write makes of the store. -/
def Store.apply (d : Store) : StoreWrite → Store
  | .account i a => { d with accounts := Accounts.put d.accounts i a }
  | .hold n h => { d with holds := d.holds.set n.val h }
  | .place p r => { d with places := d.places.set p.val r }
  | .header h => { d with header := some h }
  | .cls c k => { d with classes := d.classes.set c.val (some k) }
  | .prices p => { d with prices := some p }
  | .slot n c => { d with slots := d.slots.set n.val (some c) }
  | .terminal t m => { d with terminals := d.terminals.set t.val (some m) }
  | .governor g => { d with governor := some g }
  | .sense c => { d with sense := some c }
  | .room r => { d with room := some r }
  | .causes n c => { d with causes := d.causes.set n.val c }

/-- What one change makes of the store. -/
def Store.applyAll (d : Store) (ws : List StoreWrite) : Store := ws.foldl Store.apply d

/-! ### Displays (R50, R52) -/

/-- A lasting display: with another code than the current lasting one it replaces both displays and discards the brief
deadline; with the same code it replaces the pending one only while no brief deadline runs (R50). So RESERVED_YOU set again at a
hand-on (R163) while a brief display stands raises the number only at the brief's end (the model's choice, log 44). -/
def HalfEntry.setLasting (e : HalfEntry) (d : Display) : HalfEntry :=
  if e.lasting.code ≠ d.code then
    { e with lasting := d, pending := d, number := (e.number + 1) % 256, brief := none }
  else if e.brief.isNone then { e with lasting := d, pending := d, number := (e.number + 1) % 256 }
  else { e with lasting := d }

/-- A brief display: it replaces the pending one and stands for 6 s (R50). -/
def HalfEntry.setBrief (e : HalfEntry) (d : Display) (now : Nat) : HalfEntry :=
  { e with pending := d, number := (e.number + 1) % 256, brief := some (now + 6) }

/-- The room display on a half (R52). -/
def HalfEntry.setRoom (e : HalfEntry) (d : Display) : HalfEntry :=
  { e with lasting := d, pending := d, number := (e.number + 1) % 256, brief := none }

/-- The brief deadline's end: the pending display becomes the lasting one (R51). -/
def HalfEntry.revert (e : HalfEntry) : HalfEntry :=
  { e with pending := e.lasting, number := (e.number + 1) % 256, brief := none }

/-- A READY set while the room has a room display is stored as the room display (R52). -/
def State.shown (s : State) (d : Display) : Display :=
  if d.code = .ready then (s.room.state.display).getD d else d

def State.setLasting (s : State) (t : Fin 16) (h : Half) (d : Display) : State :=
  s.modHalf t h fun e => e.setLasting (s.shown d)

/-- A lasting display on a slot's half. -/
def State.showLasting (s : State) (n : Fin 24) (d : Display) : State :=
  match (s.slot n).cfg with
  | some c => s.setLasting c.term c.half d
  | none => s

/-- A brief display on a slot's half: the answer to a tap or a press (R50). -/
def State.showBrief (s : State) (n : Fin 24) (code : DisplayCode) (param : Nat := 0) : State :=
  match (s.slot n).cfg with
  | some c => s.modHalf c.term c.half fun e => e.setBrief ⟨code, param⟩ s.elapsed
  | none => s

/-- The display the table of R4 gives for the state a slot is in: RUNNING with its minutes left, PAID with the available
balance of the hold's account (R53). -/
def State.stateDisplay (s : State) (n : Fin 24) : Option Display :=
  match (s.slot n).state with
  | .idle => some ⟨.ready, 0⟩
  | .armed => some ⟨.paid, ((s.hold n).map fun h => (s.account h.account).available).getD 0⟩
  | .running => some ⟨.running, s.minutesLeft n⟩
  | .awaitPower => some ⟨.waitPower, 0⟩
  | .suspended => some ⟨.suspended, 0⟩
  | .collect => some ⟨.collect, 0⟩
  | .outOfService => some ⟨.outOfService, 0⟩
  | .reserved => some ⟨.reservedYou, 0⟩
  | .unconfigured | .locking | .recovering | .finishing | .faulted => none

/-! ### Slots (R3, R4, R131) -/

/-- A slot's strike counters return to 0 and its raised flags keep their values (R131). -/
def SlotSense.resetStrikes (x : SlotSense) : SlotSense :=
  { x with heaterOpen := { x.heaterOpen with count := 0 }, overcurrent := { x.overcurrent with count := 0 },
           ungranted := { x.ungranted with count := 0 }, idleDraw := { x.idleDraw with count := 0 } }

/-- A change of state or of the grant flag: the counters return to 0, and a result whose conversion has begun in the
present scan is stale (R131). -/
def SlotSense.disturb (x : SlotSense) : SlotSense := { x.resetStrikes with stale := x.stale || x.begun }

/-- The reservation's card id that SLOT_STATE carries, 0 if none (R201). -/
def Slot.reservationCard (x : Slot) : Nat := x.reservation.elim 0 (·.card)

/-- Queue a SLOT_STATE event of a slot as it stands (R4, R30). -/
def State.postSlot (s : State) (n : Fin 24) : State :=
  s.post (.slotState n (s.slot n).state (s.slot n).causes (s.slot n).reservationCard)

/-- A change of a slot's state: the desired outputs and the state timer of the new state (R3), SLOT_STATE queued, the
display of the new state set as a lasting one, and the strike counters reset (R4). PAID, CLOSE_DOOR and RESERVED_YOU are
set by the block that R4 names for them. -/
def State.enter (s : State) (n : Fin 24) (st : SlotState) : State :=
  let s := s.modSlot n fun x =>
    { x with state := st, outputs := outputsOf st x.heatGrant, sense := x.sense.disturb,
             timer := (s.stateSeconds st).map (s.elapsed + ·) }
  let s := s.postSlot n
  if st = .armed ∨ st = .reserved then s
  else match s.stateDisplay n with
    | some d => s.showLasting n d
    | none => s

/-- Set or clear a slot's heat grant flag; heat-permit follows it in RUNNING, the counters return to 0 and the heater-open
test is not armed (R3, R18, R131, R132). -/
def State.setGrant (s : State) (n : Fin 24) (g : Bool) : State :=
  s.modSlot n fun x =>
    { x with heatGrant := g, outputs := outputsOf x.state g, sense := { x.sense.disturb with armed := false } }

/-- Set or clear a member of a slot's cause set. -/
def State.setCause (s : State) (n : Fin 24) (m : Cause) (v : Bool) : State :=
  s.modSlot n fun x => { x with causes := x.causes.set m v }

/-- The stored members of a cause set: TERMINAL_LOST is not one (R141, R154). -/
def Causes.stored (c : Causes) : Causes := { c with lost := false }

/-- A change of HOST, SERVICE or FAULT_LOCKOUT writes the stored cause members (R154). -/
def State.writeCauses (s : State) (n : Fin 24) (m : Cause) : State :=
  if m = .lost then s else s.write [.causes n (some (s.slot n).causes.stored)]

/-- The lowest-numbered IDLE slot of a class (R10, R166). -/
def State.idleSlot (s : State) (c : Fin 4) : Option (Fin 24) :=
  allSlots.find? fun n => (s.slot n).state = .idle ∧ s.slotCls n = some c

/-! ### Port counts (R197) -/

/-- A count that stays at 65,535 once it reaches it. -/
def bump (n : Nat) : Nat := min 65535 (n + 1)

def State.countTaken (s : State) (p : Port) : State :=
  s.modCounts p fun c => { c with taken := (c.taken + 1) % 65536 }
def State.countBroadcast (s : State) (p : Port) : State :=
  s.modCounts p fun c => { c with broadcasts := bump c.broadcasts }
def State.countError (s : State) (p : Port) : State := s.modCounts p fun c => { c with errors := bump c.errors }
def State.countOverrun (s : State) (p : Port) : State := s.modCounts p fun c => { c with overruns := bump c.overruns }

/-! ### Free values -/

/-- Move on to the next free value (log 9). -/
def State.useFree (s : State) : State := { s with free := s.free + 1 }

end Sys2Proof.Machine
end

