-- ==== Sys2Proof/Machine/Governor.lean ====
section
/-!
DEFINITION. The load governor (05): requests and the wait queue (R109 to R111), the reckoning with its revocation check
and grant pass (R106, R112 to R115), requests given up and withdrawn (R116), and the stamp counter (R110).
-/

namespace Sys2Proof.Machine

def State.modGov (s : State) (f : Governor → Governor) : State := { s with gov := f s.gov }

/-! ### Lists of requests -/

/-- `r` stands before `q` in the wait queue: class priority first, then stamp (R111). -/
def ahead (priority : Fin 4 → Nat) (r q : HeatRequest) : Bool :=
  priority r.cls < priority q.cls || (priority r.cls == priority q.cls && r.stamp < q.stamp)

/-- Place a request in the wait queue at the position its priority and stamp give it (R111). -/
def placeRequest (priority : Fin 4 → Nat) (r : HeatRequest) : List HeatRequest → List HeatRequest
  | [] => [r]
  | q :: rest => if ahead priority r q then r :: q :: rest else q :: placeRequest priority r rest

/-- The sum of heat draws of a list of requests. -/
def heatOf (heat : Fin 4 → Nat) (rs : List HeatRequest) : Nat := (rs.map fun r => heat r.cls).sum

/-- The revocation check's walk over the grants, newest first: the grants kept (newest first) and those revoked, until the
granted heat is at most `budget` or none is held (R114). -/
def revokeNewest (heat : Fin 4 → Nat) (budget : Int) : List HeatRequest → List HeatRequest × List HeatRequest
  | [] => ([], [])
  | r :: rest =>
    if (heatOf heat (r :: rest) : Int) ≤ budget then (r :: rest, [])
    else ((revokeNewest heat budget rest).1, r :: (revokeNewest heat budget rest).2)

/-- What a grant pass makes of a request (R112). -/
inductive Reach where
  | granted | skipped | passedOver | unreached
  deriving DecidableEq, Repr

/-- The grant pass's walk from the head of the queue, with the room as its running figure (R112). -/
def walk (heat : Fin 4 → Nat) (revoked : List (Fin 24)) : Int → List HeatRequest → List (HeatRequest × Reach)
  | _, [] => []
  | room, r :: rest =>
    if revoked.contains r.slot then (r, .passedOver) :: walk heat revoked room rest
    else if (heat r.cls : Int) ≤ room then (r, .granted) :: walk heat revoked (room - heat r.cls) rest
    else if r.aged then (r, .skipped) :: rest.map fun q => (q, .unreached)
    else (r, .skipped) :: walk heat revoked room rest

/-- A request skipped once more while a later one was granted; at four it is aged (R113). -/
def HeatRequest.passed (r : HeatRequest) : HeatRequest :=
  { r with passes := min 4 (r.passes + 1), aged := r.aged || decide (4 ≤ r.passes + 1) }

/-- The wait queue that a pass leaves: without the granted requests, and with one pass count more on each skipped request
that stood ahead of a granted one (R113). -/
def leftWaiting : List (HeatRequest × Reach) → List HeatRequest
  | [] => []
  | (r, e) :: rest =>
    match e with
    | .granted => leftWaiting rest
    | .skipped => (if rest.any fun q => q.2 == .granted then r.passed else r) :: leftWaiting rest
    | .passedOver | .unreached => r :: leftWaiting rest

/-- A request whose pass count and aged flag are clear (R112). -/
def HeatRequest.cleared (r : HeatRequest) : HeatRequest := { r with passes := 0, aged := false }

/-- The requests a pass grants, in the order of the pass, cleared (R112). -/
def newGrants (w : List (HeatRequest × Reach)) : List HeatRequest :=
  (w.filter fun q => q.2 == .granted).map fun q => q.1.cleared

/-! ### Handing the answers to the slots (R18) -/

/-- A grant: the flag is set, and a slot in AWAIT_POWER enters RUNNING. -/
def State.grantSlot (s : State) (n : Fin 24) : State :=
  let s := s.setGrant n true
  if (s.slot n).state = .awaitPower then s.enter n .running else s

/-- A revocation: the flag is cleared and the slot enters AWAIT_POWER. -/
def State.revokeSlot (s : State) (n : Fin 24) : State := (s.setGrant n false).enter n .awaitPower

/-! ### The reckoning (R106) -/

/-- With both lists empty the stamp counter returns to 0 (R110). -/
def State.tidyStamp (s : State) : State :=
  if s.gov.grants.isEmpty && s.gov.waits.isEmpty then s.modGov fun g => { g with stamp := 0 } else s

/-- The grants to revoke and to keep (R114): the check is made when E has fallen or the margin was lowered, and fires when
the granted heat is above E plus the margin. -/
def State.revocation (s : State) (fell : Bool) : List HeatRequest × List HeatRequest :=
  if fell && decide ((s.grantedHeat : Int) > s.gov.heat + s.settings.governor.margin) then
    let r := revokeNewest (fun c => (s.govClass c).heat) s.gov.heat s.gov.grants.reverse
    (r.1.reverse, r.2)
  else (s.gov.grants, [])

/-- Stage 2: revoke, place the requests back under their stamps, and hand the revocations to the slots (R114). -/
def State.revoke (s : State) (fell : Bool) : State × List (Fin 24) :=
  let r := s.revocation fell
  let s := s.modGov fun g =>
    { g with grants := r.1,
             waits := r.2.foldl (fun q x => placeRequest (fun c => (s.govClass c).priority) x.cleared q) g.waits }
  (r.2.foldl (fun s x => s.revokeSlot x.slot) s, r.2.map (·.slot))

/-- Stage 3: a grant pass, its grants handed to the slots in the order of the pass (R112, R113). -/
def State.grantPass (s : State) (revoked : List (Fin 24)) : State :=
  let w := walk (fun c => (s.govClass c).heat) revoked (s.gov.heat - s.grantedHeat) s.gov.waits
  let s := s.modGov fun g => { g with waits := leftWaiting w, grants := g.grants ++ newGrants w }
  (newGrants w).foldl (fun s x => s.grantSlot x.slot) s

/-- A reckoning (R106), its other inputs already applied: `freed` a grant was given up, `asked` a new request was placed,
`lowered` the revoke margin was lowered. -/
def State.reckon (s : State) (freed asked lowered : Bool) : State :=
  let before := s.gov.heat
  let s := s.modGov fun g => { g with motor := s.motorSum }
  let s := s.modGov fun g => { g with heat := s.heatBudget }
  let after := s.gov.heat
  let r := s.revoke (decide (after < before) || lowered)
  let s := if decide (before < after) || freed || asked then r.1.grantPass r.2 else r.1
  s.tidyStamp

/-! ### Requests (R110, R111, R116) -/

/-- Stamp the live requests afresh, 0 upward: the wait queue in its order, then the grants (R110). -/
def restamped : Nat → List HeatRequest → List HeatRequest
  | _, [] => []
  | k, r :: rest => { r with stamp := k } :: restamped (k + 1) rest

/-- A slot's request stands in one of the lists; it has at most one (R109). -/
def State.hasRequest (s : State) (n : Fin 24) : Bool :=
  s.gov.grants.any (·.slot == n) || s.gov.waits.any (·.slot == n)

/-- Stamp a new request of a configured slot and place it in the wait queue (R110, R111). -/
def State.placeNew (s : State) (n : Fin 24) : State :=
  match s.slotCls n, s.hasRequest n with
  | none, _ => s
  | _, true => s
  | some c, false =>
    let r : HeatRequest := ⟨n, c, s.gov.stamp, 0, false⟩
    let s := s.modGov fun g =>
      { g with waits := placeRequest (fun c => (s.govClass c).priority) r g.waits, stamp := g.stamp + 1 }
    if s.gov.stamp < 2 ^ 32 then s
    else s.modGov fun g =>
      { g with waits := restamped 0 g.waits, grants := restamped g.waits.length g.grants,
               stamp := g.waits.length + g.grants.length }

/-- Slots in RUNNING ask for heat at one event: their requests are stamped in the order given and meet one reckoning;
those not granted go to AWAIT_POWER (R14, R17, R27, R106, R110, R117). -/
def State.askHeat (s : State) (ns : List (Fin 24)) : State :=
  if ns.isEmpty then s
  else
    let s := (ns.foldl (fun s n => s.placeNew n) s).reckon false true false
    ns.foldl (fun s n => if (s.slot n).heatGrant then s else s.enter n .awaitPower) s

/-- Remove a slot's requests from both lists. -/
def State.removeRequest (s : State) (n : Fin 24) : State :=
  s.modGov fun g => { g with grants := g.grants.filter (·.slot != n), waits := g.waits.filter (·.slot != n) }

/-- A slot's grant is taken off the grant list with no test, and its flag is cleared (R116): the input of a reckoning. -/
def State.dropGrant (s : State) (n : Fin 24) : State := (s.removeRequest n).setGrant n false

/-- A slot gives up its grant, and the reckoning runs a pass (R106, R116). -/
def State.giveUpGrant (s : State) (n : Fin 24) : State := (s.dropGrant n).reckon true false false

/-- A slot withdraws its waiting request: no pass is run (R116). -/
def State.withdraw (s : State) (n : Fin 24) : State := (s.removeRequest n).tidyStamp

/-- A slot's request withdrawn or its grant released, and both heat flags cleared (R6, stage 3). A grant released is reckoned
at once where the cycle end is an event of its own (`alone`), and else with the rest of the event (R106). -/
def State.dropHeat (s : State) (n : Fin 24) (alone : Bool := true) : State :=
  let s := s.modSlot n fun x => { x with heatReq := false }
  if (s.slot n).heatGrant then if alone then s.giveUpGrant n else s.dropGrant n else s.withdraw n

/-- At the room's entry to SUSPENDED every request leaves both lists, the stamp counter returns to 0 (R117), and the heat grant
flags are cleared with the grants (R26). -/
def State.clearGovernor (s : State) : State :=
  overSlots (fun n s => if (s.slot n).heatGrant then s.setGrant n false else s)
    (s.modGov fun g => { g with grants := [], waits := [], stamp := 0 })

/-- A change of a slot's state that makes it motor-active or ends its being so, of which the governor is told at the event: it
recomputes the motor allowance and reckons (R3, R104). The other changes of state bring the governor nothing to reckon. -/
def State.enterTold (s : State) (n : Fin 24) (st : SlotState) : State := (s.enter n st).reckon false false false

/-- The reckoning of an event that reached several slots (R106): a pass is due where they gave up a grant. -/
def State.reckonAfter (s : State) (grants : Nat) : State := s.reckon (decide (s.gov.grants.length < grants)) false false

end Sys2Proof.Machine
end

