-- ==== Sys2Proof/Machine/Waitlist.lean ====
section
/-!
DEFINITION. The waitlist unit (08): offering a slot (R5, R162), reserving it, handing it on (R163), giving a cut-short
reservation back (R166), the early notice (R165), joining (R160) and losing places (R70, R167).
-/

namespace Sys2Proof.Machine

/-- Give a slot's reservation to the head entry of its class queue (R162): a slot that is not yet RESERVED enters it; one
that is stays, with a SLOT_STATE event of its own (R163). WAITLIST_READY follows, and RESERVED_YOU is set. -/
def State.reserve (s : State) (n : Fin 24) (c : Fin 4) (e : WaitEntry) (rest : List WaitEntry) : State :=
  let s := s.setQueue c rest
  let s := s.modSlot n fun x =>
    { x with reservation := some ⟨e.card, e.account, e.joined, s.settings.room.window * 60⟩ }
  let s := if (s.slot n).state = .reserved then s.postSlot n else s.enter n .reserved
  (s.post (.waitlistReady e.card n c s.settings.room.window)).showLasting n ⟨.reservedYou, 0⟩

/-- Offer an IDLE slot to its class queue; it stays IDLE when the queue is empty (R5, R162). -/
def State.offer (s : State) (n : Fin 24) : State :=
  match s.slotCls n with
  | none => s
  | some c =>
    match s.queue c with
    | [] => s
    | e :: rest => s.reserve n c e rest

/-- Entry to IDLE, which offers the slot (R5). -/
def State.enterIdle (s : State) (n : Fin 24) : State := (s.enter n .idle).offer n

def State.dropReservation (s : State) (n : Fin 24) : State := s.modSlot n fun x => { x with reservation := none }

/-- A reservation that has ended hands its slot on: to the head of the class queue, or to IDLE (R163). -/
def State.handOn (s : State) (n : Fin 24) : State :=
  let s := s.dropReservation n
  match s.slotCls n with
  | none => s.enterIdle n
  | some c =>
    match s.queue c with
    | [] => s.enterIdle n
    | e :: rest => s.reserve n c e rest

/-- A cut-short reservation is given back: a full queue drops its newest entry, the card joins at the head with its join
time, a fresh lifetime and the notified flag clear, and the lowest-numbered IDLE slot of the class is offered (R166). -/
def State.giveBack (s : State) (c : Fin 4) (r : Reservation) : State :=
  let q := s.queue c
  let s :=
    if 8 ≤ q.length then
      match q.getLast? with
      | some e => (s.setQueue c q.dropLast).post (.waitlistDropped e.card c)
      | none => s
    else s
  let s := s.setQueue c (⟨r.card, r.account, r.joined, s.settings.room.lifetime * 60, false⟩ :: s.queue c)
  match s.idleSlot c with
  | some n => s.offer n
  | none => s

/-- The first entry whose notified flag is clear, told: the queue with its flag set, and its card (R165). -/
def notify : List WaitEntry → List WaitEntry × Option Nat
  | [] => ([], none)
  | e :: rest =>
    if e.notified then (e :: (notify rest).1, (notify rest).2)
    else ({ e with notified := true } :: rest, some e.card)

/-- The early notice of compare point A (R165). -/
def State.earlyNotice (s : State) (c : Fin 4) (n : Fin 24) (minutes : Nat) : State :=
  match (notify (s.queue c)).2 with
  | none => s
  | some card => (s.setQueue c (notify (s.queue c)).1).post (.waitlistSoon card n minutes)

/-- The position of a card in a queue, counted from 1 (R158). -/
def positionOf (card : Nat) (q : List WaitEntry) : Option Nat := (q.findIdx? fun e => e.card == card).map (· + 1)

/-- A queue without a card's entry; the entries behind it move up (R158). -/
def withoutCard (card : Nat) (q : List WaitEntry) : List WaitEntry := q.filter fun e => e.card != card

/-- The slot of a class that is RESERVED for a card (R10, R171). -/
def State.reservedFor (s : State) (c : Fin 4) (card : Nat) : Option (Fin 24) :=
  allSlots.find? fun n =>
    (s.slot n).state = .reserved ∧ s.slotCls n = some c ∧ (s.slot n).reservation.any fun r => r.card == card

/-- A join from the busy-slot path: the tap's display and the queue it leaves (R160). -/
def State.join (s : State) (c : Fin 4) (card : Nat) : State × DisplayCode × Nat :=
  match s.findCard card with
  | none => (s, .unknownCard, 0)
  | some i =>
    let a := s.account i
    if a.state ≠ .active then (s, .cardBlocked, 0)
    else match positionOf card (s.queue c) with
      | some p => (s, .waitlistPosition, p)
      | none =>
        if a.available < s.currentPrice c then (s, .lowBalance, 0)
        else if 8 ≤ (s.queue c).length then (s, .waitlistFull, 0)
        else (s.setQueue c (s.queue c ++ [⟨card, i, s.clock, s.settings.room.lifetime * 60, false⟩]),
              .waitlistPosition, (s.queue c).length + 1)

/-- A card loses its place in every queue and every reservation (R70). -/
def State.losePlaces (s : State) (card : Nat) : State :=
  let s := allClasses.foldl (fun s c => s.setQueue c (withoutCard card (s.queue c))) s
  overSlots (fun n s =>
    if (s.slot n).state = .reserved ∧ (s.slot n).reservation.any (fun r => r.card == card) then s.handOn n else s) s

/-- Every queue entry and every reservation is removed, each RESERVED slot entering IDLE (R167). -/
def State.clearWaitlist (s : State) : State :=
  let s := { s with queues := Vector.replicate 4 [] }
  overSlots (fun n s => if (s.slot n).state = .reserved then (s.dropReservation n).enterIdle n else s) s

/-- The waitlist unit is told of a start (R9, R164): the card's entry in the class queue is removed, and a reservation it
holds on another slot of the class is released. -/
def State.toldOfStart (s : State) (c : Fin 4) (card : Nat) : State :=
  let s := s.setQueue c (withoutCard card (s.queue c))
  match s.reservedFor c card with
  | some n => s.handOn n
  | none => s

/-- A counted second in an OPEN room: every lifetime and every window falls by one (R161, R163). -/
def State.waitSecond (s : State) : State :=
  let s := allClasses.foldl (fun s c =>
    s.setQueue c ((s.queue c).map fun e => { e with lifetime := e.lifetime - 1 })) s
  overSlots (fun n s =>
    s.modSlot n fun x => { x with reservation := x.reservation.map fun r => { r with window := r.window - 1 } }) s

end Sys2Proof.Machine
end

