-- ==== Sys2Proof/Machine/Payment.lean ====
section
/-!
DEFINITION. The payment unit (03, 04): the daily rollover (R63), settling a hold (R86 to R96), placing a hold (R73 to R75, R9)
and top-ups (R76, R77, R19).
-/

namespace Sys2Proof.Machine

/-- The daily rollover (R63): a spend day that differs from the current day is a new day. -/
def Account.rolled (a : Account) (day : Nat) : Account :=
  if a.spendDay ≠ day then { a with spent := 0, spendDay := day } else a

/-- The rollover at a cap check or a read, written to the store when it changes the record (R63). -/
def State.rollAccount (s : State) (i : Nat) : State :=
  let a := s.account i
  let b := a.rolled s.clock.day
  if b = a then s else (s.setAccount i b).write [.account i b]

/-! ### Settlement -/

/-- The account after a settlement with charge `c` of a hold of `held` units (R90, stages 2 to 4); a FREE record, which
only a hold of 0 units can name, stays as it is (log 35). -/
def Account.settled (a : Account) (day c held : Nat) : Account :=
  if a.state = .free then a
  else
  let a := a.rolled day
  { a with balance := a.balance - c, held := a.held - held, spent := min 999999 (a.spent + c) }

/-- The settlement record of a hold (R86, R87, R95). -/
def State.settlementRecord (s : State) (n : Fin 24) (h : Hold) (reason : Reason)
    (fault : Option (FaultCode × Option Nat)) : Settlement :=
  let paid := h.paidSeconds
  { number := s.settlement.next, account := h.account, card := h.card, slot := n.val, cls := h.snap.cls.val,
    band := h.snap.band, held := h.amount,
    charge := chargeOf reason h.amount paid h.snap.granularity h.snap.grace (s.slot n).run,
    reason := reason, run := (s.slot n).run, paid := paid,
    steps := match h.snap.kind with | .washer => none | .dryer => some h.steps,
    fault := if reason = .fault then fault.map (·.1) else none,
    errorCode := if reason = .fault then fault.bind (·.2) else none,
    ended := s.clock }

/-- The place of the store that the next record takes (R204): the places hold the queue as a ring. -/
def SettlementQueue.place (q : SettlementQueue) (k : Nat) : Fin 64 := ⟨(q.oldest + k) % 64, Nat.mod_lt _ (by decide)⟩

def SettlementQueue.header (q : SettlementQueue) : Header := ⟨q.oldest, q.records.length, q.next⟩

/-- Settle a slot's hold (R90): charge the account, append the record, raise the next number, empty the hold entry; the
writes are one change (R91). -/
def State.settle (s : State) (n : Fin 24) (reason : Reason) (fault : Option (FaultCode × Option Nat)) : State :=
  match s.hold n with
  | none => s
  | some h =>
    let r := s.settlementRecord n h reason fault
    let a := (s.account h.account).settled s.clock.day r.charge h.amount
    let place := s.settlement.place s.settlement.records.length
    let q := { s.settlement with records := s.settlement.records ++ [r], next := (s.settlement.next + 1) % 2 ^ 32 }
    let s := (s.setAccount h.account a).setHold n none
    { s with settlement := q }.write [.account h.account a, .hold n none, .place place (some r), .header q.header]

/-! ### Placing a hold -/

/-- The price snapshot of a start (R73, R86): a washer's carries S and T as 0. -/
def State.snapshot (s : State) (c : Fin 4) : Snapshot :=
  let e := s.priceEntry c s.band
  let kind := (s.cls c).kind
  let dryer : Bool := kind == .dryer
  { cls := c, kind := kind, band := s.band, price := e.price, planned := e.planned, step := if dryer then e.step else 0,
    stepPrice := if dryer then e.stepPrice else 0, granularity := s.settings.prices.granularity,
    grace := s.settings.prices.grace }

/-- An accepted start (R75, R9): the hold is filled, the held amount raised, both written as one change; the slot's
counters are cleared, its reservation consumed, and it enters ARMED with PAID; the waitlist unit is told. -/
def State.placeHold (s : State) (n : Fin 24) (c : Fin 4) (i : Nat) (a : Account) (card : Nat) : State :=
  let snap := s.snapshot c
  let h : Hold := ⟨i, card, snap.price, snap, 0, 0, s.clock.day, s.clock.second⟩
  let a := { a with held := a.held + snap.price }
  let s := ((s.setHold n (some h)).setAccount i a).write [.hold n (some h), .account i a]
  let phase : Phase := match s.kind n with | .washer => .none | .dryer => .dry
  let s := s.modSlot n fun x =>
    { x with run := 0, topUp := 0, remaining := 0, cool := 0, warning := false, phase := phase, reservation := none }
  let s := (s.enter n .armed).showLasting n ⟨.paid, a.available⟩
  s.toldOfStart c card

/-- A start tap (R9, R74): the first check that fails gives the tap's display. -/
def State.startTap (s : State) (n : Fin 24) (card : Nat) : State :=
  match s.slotCls n with
  | none => s
  | some c =>
    match s.findCard card with
    | none => s.showBrief n .unknownCard
    | some i =>
      let a := s.account i
      if a.state ≠ .active then s.showBrief n .cardBlocked
      else if 64 ≤ s.settlement.records.length + s.holdCount then s.showBrief n .queueFull
      else if a.available < s.currentPrice c then s.showBrief n .lowBalance
      else
        let rolled := if a.cap = 0 then a else a.rolled s.clock.day
        let refused := if a.cap = 0 then s else s.rollAccount i
        if a.cap ≠ 0 ∧ a.cap < rolled.spent + rolled.held + s.currentPrice c then refused.showBrief n .dailyCap
        else if !s.admits c then refused.showBrief n .noPower
        else s.placeHold n c i rolled card

/-! ### Top-ups -/

/-- A top-up taken (R77, R19): k, the hold's amount, held and the pending minutes rise together; a running slot's minutes
left are brought up to date (R25). -/
def State.takeTopUp (s : State) (n : Fin 24) (h : Hold) (i : Nat) (a : Account) : State :=
  let h := { h with steps := h.steps + 1, amount := h.amount + h.snap.stepPrice }
  let a := { a with held := a.held + h.snap.stepPrice }
  let s := ((s.setHold n (some h)).setAccount i a).write [.hold n (some h), .account i a]
  let s := s.modSlot n fun x => { x with topUp := x.topUp + h.snap.step }
  let s := s.showBrief n .topUpAdded h.snap.step
  if (s.slot n).state = .running then s.showLasting n ⟨.running, s.minutesLeft n⟩ else s

/-- A top-up tap by the hold's card (R76): the first check that fails gives the tap's display. -/
def State.topUpTap (s : State) (n : Fin 24) (card : Nat) : State :=
  match s.hold n with
  | none => s
  | some h =>
    match s.findCard card with
    | none => s.showBrief n .inUse
    | some i =>
      let a := s.account i
      if i ≠ h.account then s.showBrief n .inUse
      else if a.state ≠ .active then s.showBrief n .cardBlocked
      else if 60 < (h.steps + 1) * h.snap.step then s.showBrief n .topUpLimit
      else if a.available < h.snap.stepPrice then s.showBrief n .lowBalance
      else
        let rolled := if a.cap = 0 then a else a.rolled s.clock.day
        let refused := if a.cap = 0 then s else s.rollAccount i
        if a.cap ≠ 0 ∧ a.cap < rolled.spent + rolled.held + h.snap.stepPrice then refused.showBrief n .dailyCap
        else s.takeTopUp n h i rolled

/-! ### The stored run seconds (R78) -/

/-- At a whole minute of run seconds the value is written into the hold entry, and the entry to the store. -/
def State.storeRun (s : State) (n : Fin 24) : State :=
  match s.hold n with
  | none => s
  | some h =>
    if (s.slot n).run % 60 = 0 then
      let h := { h with storedRun := (s.slot n).run }
      (s.setHold n (some h)).write [.hold n (some h)]
    else s

end Sys2Proof.Machine
end

