-- ==== Sys2Proof/Machine/Cycle.lean ====
section
/-!
DEFINITION. The room's changes of state as the blocks act on them (09, R52, R53), the cycle end (R6), the entry to RUNNING
(R14, R25), recovery (R210), the confirmed unlock (R28), and suspension and resumption at the slots (R26, R27, R179, R182).
-/

namespace Sys2Proof.Machine

/-! ### The room state and its displays -/

/-- The room display on every half of every terminal, configured or not (R52). -/
def State.displayAll (s : State) (d : Display) : State :=
  allTerminals.foldl
    (fun s t => s.modTerminal t fun x => { x with halfA := x.halfA.setRoom d, halfB := x.halfB.setRoom d }) s

/-- What a change of room state does to the displays (R52, R53): a room display that differs from the one before is put
on every half and its broadcast becomes pending; into OPEN, a broadcast still pending is dropped. -/
def State.roomDisplay (s : State) (before : RoomState) : State :=
  match s.room.state.display with
  | none => { s with bus := { s.bus with broadcast := false } }
  | some d =>
    if before.display = some d then s
    else let s := s.displayAll d; { s with bus := { s.bus with broadcast := true } }

/-- The room enters a state (R176): ROOM_STATE first, then the displays. -/
def State.changeRoom (s : State) (new : RoomState) (cause : RoomCause) : State :=
  let before := s.room.state
  let s := { s with room := { s.room with state := new } }
  let s := s.post (.roomState before new s.settings.room.mode s.clock.isSet cause)
  s.roomDisplay before

/-- The display of a half in an OPEN room: its slot's, where the slot's state has one, else NONE (R53). -/
def State.openDisplay (s : State) (t : Fin 16) (h : Half) : Display :=
  ((s.slotAt t h).bind s.stateDisplay).getD .blank

/-- The displays given to every half when the room enters OPEN (R53). -/
def State.openDisplays (s : State) : State :=
  allTerminals.foldl
    (fun s t => (s.setLasting t .a (s.openDisplay t .a)).setLasting t .b (s.openDisplay t .b)) s

/-- The room enters OPEN, CLOSING or CLOSED with no slot to resume: the displays into OPEN (R53), the waitlist cleared
into the others (R167). -/
def State.enterRoom (s : State) (new : RoomState) (cause : RoomCause) : State :=
  let s := s.changeRoom new cause
  if new = .openRoom then s.openDisplays else s.clearWaitlist

/-- The room follows its mode state, while it is OPEN, CLOSING or CLOSED (R176). -/
def State.followMode (s : State) (cause : RoomCause) : State :=
  match s.room.state with
  | .suspended | .held => s
  | .openRoom | .closing | .closed => if s.modeState = s.room.state then s else s.enterRoom s.modeState cause

/-- A cycle end in a CLOSING room after which no slot holds a hold (R177). -/
def State.holdsEnded (s : State) : State :=
  if s.room.state = .closing ∧ s.holdCount = 0 then s.enterRoom .closed .holdsEnded else s

/-! ### The cycle end (R6) -/

/-- The entry of stage 4 (R6). Where it makes the slot motor-active or ends its being so, as an ARMED slot's into FAULTED does,
the governor is told and reckons (R3, R104); an end that is part of a larger event leaves that to the event's reckoning (R106). -/
def State.enterEnded (s : State) (n : Fin 24) (st : SlotState) (alone : Bool) : State :=
  let was := (s.slot n).motorActive
  let s := s.enter n st
  if alone && was != (s.slot n).motorActive then s.reckon false false false else s

/-- A cycle end, its stages in order: the hold is settled, CYCLE_END carries the record's number, heat is given up, the
new state is entered, and room control is told (R177). One that is part of a larger event leaves the reckoning to it (R106). -/
def State.cycleEnd (s : State) (n : Fin 24) (reason : Reason) (fault : Option (FaultCode × Option Nat))
    (target : SlotState) (alone : Bool := true) : State :=
  match s.hold n with
  | none => s
  | some _ =>
    let number := s.settlement.next
    let s := (s.settle n reason fault).post (.cycleEnd n number)
    let s := s.dropHeat n alone
    let s := s.modSlot n fun x => { x with warning := false, resume := none }
    let s := if target = .idle then s.enterIdle n else s.enterEnded n target alone
    s.holdsEnded

/-! ### Running -/

/-- Compare point A (R25): the first time in a cycle that the estimate is at or below the warning. -/
def State.pointA (s : State) (n : Fin 24) : State :=
  match s.slotCls n with
  | none => s
  | some c =>
    if (s.slot n).warning || decide (((60 * (s.cls c).warning : Nat) : Int) < s.estimate n) then s
    else (s.modSlot n fun x => { x with warning := true }).earlyNotice c n (s.minutesLeft n)

/-- The cool time of a slot's class (01, section 1.1). -/
def State.coolTime (s : State) (n : Fin 24) : Nat :=
  match s.slotCls n with
  | some c => (s.cls c).cool
  | none => 0

/-- Entry to RUNNING from LOCKING (R14), up to the request for heat: the counters, the state, compare point A. -/
def State.startRunning (s : State) (n : Fin 24) : State :=
  let cool := s.coolTime n
  let planned := s.planned n
  let s :=
    match s.kind n with
    | .washer => s.modSlot n fun x => { x with run := 0, phase := x.view.phase, heatReq := x.view.heat }
    | .dryer => s.modSlot n fun x => { x with remaining := planned, cool := cool, phase := .dry, heatReq := true }
  (s.enter n .running).pointA n

/-- Ask for heat where the slot's flag is set (R14, R17, R210). -/
def State.askIfWanted (s : State) (n : Fin 24) : State := if (s.slot n).heatReq then s.askHeat [n] else s

/-- Entry to RUNNING from LOCKING, whole (R14). -/
def State.enterRunning (s : State) (n : Fin 24) : State := (s.startRunning n).askIfWanted n

/-! ### Recovery (R210) -/

/-- The counters of a resumed slot (R210). -/
def State.recoverCounters (s : State) (n : Fin 24) : State :=
  let cool := s.coolTime n
  let paid := (s.hold n).elim 0 fun h => h.snap.planned + 60 * h.steps * h.snap.step
  match s.kind n with
  | .washer => s.modSlot n fun x => { x with phase := x.view.phase, heatReq := x.view.heat }
  | .dryer => s.modSlot n fun x =>
      { x with remaining := paid - x.run, topUp := 0, cool := cool,
               phase := if x.run < paid then .dry else .cool, heatReq := decide (x.run < paid) }

/-- A cycle found still running (R210): RUNNING with its heat asked for, or SUSPENDED while the room is SUSPENDED or HELD,
ended at once where the suspension limit has been reached (R26, R181). -/
def State.recoverRunning (s : State) (n : Fin 24) : State :=
  let s := s.recoverCounters n
  if s.room.state = .suspended ∨ s.room.state = .held then
    let s := (s.modSlot n fun x => { x with resume := some .running }).enter n .suspended
    if s.room.timer = .reached then s.cycleEnd n .abandoned none .finishing else s
  else (s.enter n .running).askIfWanted n

/-- The decision of a RECOVERING slot by its view (R210). -/
def State.recover (s : State) (n : Fin 24) : State :=
  let x := s.slot n
  match x.view.status, s.kind n with
  | .running, _ => if x.causes.isEmpty then s.recoverRunning n else s.cycleEnd n .outage none .faulted
  | .done, .washer => s.cycleEnd n .outageComplete none .finishing
  | .done, .dryer | .idle, _ | .error, _ => s.cycleEnd n .outage none .faulted

/-! ### The end of COLLECT and the confirmed unlock (R28, R29) -/

/-- A report showing lock UNLOCKED in FINISHING or FAULTED (R28), and the door OPEN at the same report (R29). -/
def State.confirmUnlock (s : State) (n : Fin 24) : State :=
  if (s.slot n).causes.isEmpty then
    let s := s.enterTold n .collect
    if (s.slot n).view.doorOpen then s.enterIdle n else s
  else s.enterTold n .outOfService

/-! ### Suspension (R26, R117, R179, R181) -/

/-- Halt a slot in SUSPENDED: its heat flags are cleared, the governor having dropped its lists (R26). -/
def State.haltSlot (s : State) (n : Fin 24) (r : Resume) : State :=
  ((s.modSlot n fun x => { x with heatReq := false, resume := some r }).setGrant n false).enter n .suspended

/-- What the room's entry to SUSPENDED does at a slot (R26). -/
def State.suspendSlot (s : State) (n : Fin 24) : State :=
  match (s.slot n).state with
  | .running | .awaitPower => s.haltSlot n .running
  | .locking => s.haltSlot n .locking
  | .armed => s.cycleEnd n .notStarted none .idle
  | .unconfigured | .outOfService | .idle | .reserved | .suspended | .recovering | .finishing | .faulted | .collect => s

/-- The room enters SUSPENDED (R179): from OPEN, CLOSING or CLOSED the suspension timer starts (R181); the governor drops
every grant and request (R117), and each slot acts. -/
def State.suspend (s : State) : State :=
  let fresh : Bool := s.room.state != .held
  let s := s.changeRoom .suspended .interlockActive
  let s := if fresh then
      { s with room := { s.room with timer := .running (s.elapsed + s.settings.room.limit * 60) } } else s
  overSlots (fun n s => s.suspendSlot n) s.clearGovernor

/-- The suspension limit at a slot (R27). -/
def State.limitSlot (s : State) (n : Fin 24) : State :=
  if (s.slot n).state = .suspended then s.cycleEnd n .abandoned none .finishing else s

/-- The suspension limit (R181). -/
def State.suspensionLimit (s : State) : State :=
  overSlots (fun n s => s.limitSlot n) { s with room := { s.room with timer := .reached } }

/-! ### Resumption (R27, R182) -/

/-- A SUSPENDED slot's return to RUNNING with resume point RUNNING (R27): a washer's heat flag is what its view shows, a
dryer's is set in DRY. -/
def State.resumeRunning (s : State) (n : Fin 24) : State :=
  let washer : Bool := s.kind n == .washer
  (s.modSlot n fun x => { x with resume := none, heatReq := if washer then x.view.heat else x.phase == .dry }).enter n
    .running

/-- A SUSPENDED slot is resumed by its resume point and view (R27), up to the request for heat. -/
def State.resumeSlot (s : State) (n : Fin 24) : State :=
  let x := s.slot n
  if x.state ≠ .suspended then s
  else match x.resume with
    | some .locking =>
      let s := s.modSlot n fun x => { x with resume := none }
      if x.view.lock = .locked ∧ !x.view.doorOpen then s.startRunning n else s.enter n .locking
    | some .running | none =>
      if s.kind n = .washer ∧ x.view.status = .done then s.cycleEnd n .completed none .finishing
      else s.resumeRunning n

/-- The slots in SUSPENDED. -/
def State.suspendedSlots (s : State) : List (Fin 24) := allSlots.filter fun n => (s.slot n).state = .suspended

/-- The resumption of every SUSPENDED slot (R27), their heat requests in one reckoning (R117). -/
def State.resumeSlots (s : State) : State :=
  let ns := s.suspendedSlots
  let s := ns.foldl (fun s n => s.resumeSlot n) s
  s.askHeat (ns.filter fun n => (s.slot n).state = .running ∧ (s.slot n).heatReq)

/-- ROOM_RESUME taken from HELD (R182). The slots resume before the displays and the waitlist follow, so in a room that enters
CLOSING a compare point A at the resume can tell an entry that is then removed (the model's choice, log 41). -/
def State.resumeRoom (s : State) : State :=
  let s := { s with room := { s.room with timer := .idle } }
  let s := (s.changeRoom s.modeState .resume).resumeSlots
  if s.room.state = .openRoom then s.openDisplays else s.clearWaitlist

end Sys2Proof.Machine
end

