-- ==== Sys2Proof/Machine/Faults.lean ====
section
/-!
DEFINITION. The fault supervisor (07): the cause set (R30, R31, R154), the open-fault table and the history ring (R142,
R143, R145, R151), raising a fault with its severity and action (R137 to R141), the end of a condition (R144) and the
release of a lockout (R148).
-/

namespace Sys2Proof.Machine

/-! ### The cause set (R30, R31, R154) -/

/-- A slot that a cause takes out of use: a RESERVED slot's reservation is given back to the waitlist (R30, R166). -/
def State.takeOut (s : State) (n : Fin 24) : State :=
  match (s.slot n).reservation, s.slotCls n with
  | some r, some c => ((s.dropReservation n).enter n .outOfService).giveBack c r
  | _, _ => s.enter n .outOfService

/-- How a slot that is not busy follows a member that joined its set (R30); a changed set is told by one SLOT_STATE event,
also where the state changes with it (log 13). -/
def State.followJoin (s : State) (n : Fin 24) : State :=
  match (s.slot n).state with
  | .idle | .reserved | .collect => s.takeOut n
  | .outOfService | .finishing | .faulted | .unconfigured | .armed | .locking | .running | .awaitPower | .suspended
  | .recovering => s.postSlot n

/-- HOST, SERVICE or FAULT_LOCKOUT joins a slot's cause set (R30, R154); a member already present changes nothing. -/
def State.joinCause (s : State) (n : Fin 24) (m : Cause) : State :=
  if (s.slot n).causes.has m then s else ((s.setCause n m true).writeCauses n m).followJoin n

/-- TERMINAL_LOST joins a slot's cause set (R31): a busy slot's cycle ends FAULT into OUT_OF_SERVICE; FINISHING and FAULTED
do not wait for the unlock. The slot is motor-active while the member stands (R104), and the event that brings it reckons. -/
def State.joinLost (s : State) (n : Fin 24) : State :=
  if (s.slot n).causes.lost then s
  else
    let s := s.setCause n .lost true
    match (s.slot n).state with
    | .unconfigured => s
    | .outOfService => s.postSlot n
    | .idle | .reserved | .collect | .finishing | .faulted => s.takeOut n
    | .armed | .locking | .running | .awaitPower | .suspended | .recovering =>
      s.cycleEnd n .fault (some (.terminalLost, none)) .outOfService false

/-- A member leaves a slot's cause set (R30, R31, R154): SLOT_STATE tells the new set, and the slot follows, in the order of
R148 (log 13): a slot in OUT_OF_SERVICE whose set is now empty enters IDLE. -/
def State.removeCause (s : State) (n : Fin 24) (m : Cause) : State :=
  if !(s.slot n).causes.has m then s
  else
    let s := ((s.setCause n m false).writeCauses n m).postSlot n
    if (s.slot n).state = .outOfService ∧ (s.slot n).causes.isEmpty then s.enterIdle n else s

/-! ### The open-fault table and the history ring -/

def FaultEntry.hasKey (e : FaultEntry) (source : Option (Fin 24)) (code : FaultCode) : Bool :=
  e.source == source && e.code == code

/-- The open entry of a source and code (R142). -/
def Faults.find (f : Faults) (source : Option (Fin 24)) (code : FaultCode) : Option FaultEntry :=
  f.table.find? fun e => e.hasKey source code

/-- Place a closed entry in the history ring: once it holds 32, the newest overwrites the oldest (R151). -/
def Faults.close (f : Faults) (e : FaultEntry) (reason : Closing) (now : Clock) : Faults :=
  let h := f.history ++ [⟨e, f.next, reason, now⟩]
  { f with history := h.drop (h.length - 32), next := (f.next + 1) % 65536 }

/-- A new entry: one occurrence, ACTIVE, the base severity (R142). -/
def FaultEntry.new (source : Option (Fin 24)) (code : FaultCode) (err : Option Nat) (now : Clock) : FaultEntry :=
  ⟨source, code, err, now, now, 1, .active, code.applied 1⟩

/-- A raise taken into its open entry (R143), with the severity that its new occurrence count gives (R140). -/
def FaultEntry.again (e : FaultEntry) (err : Option Nat) (now : Clock) : FaultEntry :=
  let k := min 255 (e.occurrences + 1)
  { e with occurrences := k, last := now, condition := .active, errorCode := err, severity := e.code.applied k }

/-- A LATCHED entry of NOTE severity, which a full table gives up (R145). -/
def FaultEntry.displaceable (e : FaultEntry) : Bool := e.condition == .latched && e.severity == .note

/-- Stages 1 and 2 of a raise (R137): the table and the ring after it, the entry as it stands (or would have stood), and
whether the fault is untabled (R142, R143, R145). -/
def Faults.enter (f : Faults) (source : Option (Fin 24)) (code : FaultCode) (err : Option Nat) (now : Clock) :
    Faults × FaultEntry × Bool :=
  match f.find source code with
  | some e =>
    ({ f with table := f.table.map fun x => if x.hasKey source code then x.again err now else x }, e.again err now, false)
  | none =>
    let e := FaultEntry.new source code err now
    if f.table.length < 32 then ({ f with table := f.table ++ [e] }, e, false)
    else match f.table.find? FaultEntry.displaceable with
      | some old =>
        let f := f.close old .displaced now
        ({ f with table := f.table.filter (fun x => !x.hasKey old.source old.code) ++ [e] }, e, false)
      | none => (f.close e .untabled now, e, true)

/-- The end of a condition: the open entry becomes LATCHED (R144). -/
def Faults.latch (f : Faults) (source : Option (Fin 24)) (code : FaultCode) : Faults :=
  { f with table := f.table.map fun x => if x.hasKey source code then { x with condition := .latched } else x }

/-- An entry leaves the table (R147). -/
def Faults.remove (f : Faults) (source : Option (Fin 24)) (code : FaultCode) : Faults :=
  { f with table := f.table.filter fun x => !x.hasKey source code }

def State.latch (s : State) (source : Option (Fin 24)) (code : FaultCode) : State :=
  { s with faults := s.faults.latch source code }

/-- Every open entry of a slot becomes LATCHED, its class being removed (R146). -/
def State.latchAll (s : State) (n : Fin 24) : State :=
  let table := s.faults.table.map fun x => if x.source == some n then { x with condition := .latched } else x
  { s with faults := { s.faults with table := table } }

/-! ### The action of a fault on its slot (R138, R139, R141) -/

/-- The cycle end a STOP or LOCKOUT fault makes on a busy slot; on one that is not busy there is none to end (R139). -/
def State.faultEnd (s : State) (n : Fin 24) (code : FaultCode) (err : Option Nat) : State :=
  if (s.slot n).state.busy then s.cycleEnd n code.reason (some (code, err)) .faulted else s

/-- UNLOCK_FAIL (R28): FAULT_LOCKOUT joins and the slot enters OUT_OF_SERVICE at the raise, told by one SLOT_STATE event
(log 13). -/
def State.unlockFailed (s : State) (n : Fin 24) : State :=
  let s := if (s.slot n).causes.lockout then s else (s.setCause n .lockout true).writeCauses n .lockout
  s.enterTold n .outOfService

/-- Stage 4 of a raise (R138, R141). -/
def State.faultAct (s : State) (n : Fin 24) (code : FaultCode) (err : Option Nat) (severity : Severity) : State :=
  match severity with
  | .note => s
  | .stop => s.faultEnd n code err
  | .lockout => if code = .unlockFail then s.unlockFailed n else (s.faultEnd n code err).joinCause n .lockout
  | .lost => s.joinLost n

/-- A raise (R137), its stages in order; a self-latching code's entry is LATCHED at its end (R144). -/
def State.raise (s : State) (source : Option (Fin 24)) (code : FaultCode) (err : Option Nat := none) : State :=
  let r := s.faults.enter source code err s.clock
  let s := { s with faults := r.1 }
  let s := s.post (.faultRaised source code r.2.1.errorCode r.2.1.occurrences r.2.1.severity r.2.2)
  let s := match source with
    | some n => s.faultAct n code err r.2.1.severity
    | none => s
  if code.selfLatching then s.latch source code else s

/-! ### Clearing (R148) -/

/-- An open LOCKOUT entry of the slot (R148, R149). -/
def State.lockoutHeld (s : State) (n : Fin 24) : Bool :=
  s.faults.table.any fun e => e.source == some n && e.severity == .lockout

/-- FAULT_LOCKOUT is in the slot's set with no LOCKOUT entry to hold it (R148, R149). -/
def State.lockoutLoose (s : State) (n : Fin 24) : Bool := (s.slot n).causes.lockout && !s.lockoutHeld n

/-- The test that ends a FAULT_CLEAR of a slot source (R148). -/
def State.releaseLockout (s : State) (n : Fin 24) : State := if s.lockoutLoose n then s.removeCause n .lockout else s

/-! ### A terminal lost and returned (R40, R41, R141) -/

/-- TERMINAL_LOST is raised for each configured slot of a terminal that became LOST, in ascending order (R6, R40, R141); the
loss is one reckoning (R106). -/
def State.loseSlots (s : State) (t : Fin 16) : State :=
  ((s.slotsOn t).foldl (fun s n => s.raise (some n) .terminalLost) s).reckonAfter s.gov.grants.length

/-- TERMINAL_LOST leaves a slot's set and its entry becomes LATCHED (R141); the entry first, as the end of a condition is
reported before it is acted on (R144). -/
def State.regainSlot (s : State) (n : Fin 24) : State := (s.latch (some n) .terminalLost).removeCause n .lost

/-- A LOST terminal is heard again: its slots regain it in ascending order (R141, R162), and the return is one reckoning
(R106). -/
def State.regainSlots (s : State) (t : Fin 16) : State :=
  ((s.slotsOn t).foldl (fun s n => s.regainSlot n) s).reckon false false false

end Sys2Proof.Machine
end

