-- ==== Sys2Proof/Machine/Reports.lean ====
section
/-!
DEFINITION. What a good reply brings to the slots: a half's report (R13, R16, R17, R22, R23, R28, R29, R41, R210) and its
latched events, the stop press (R21, R12), the start press (R11) and the card tap (R8, R10).
-/

namespace Sys2Proof.Machine

/-! ### A report (R41, stage 2) -/

/-- The report's fields taken into the slot: the terminal view; a busy washer's phase (R15); a washer's heat request flag,
recorded in every state (R17). -/
def State.takeView (s : State) (n : Fin 24) (v : View) : State :=
  let washer : Bool := s.kind n == .washer
  s.modSlot n fun x =>
    { x with view := v, phase := if washer && x.state.busy then v.phase else x.phase,
             heatReq := if washer then v.heat else x.heatReq }

/-- The ends of conditions that a report shows (R144). -/
def State.latchReport (s : State) (n : Fin 24) (v : View) : State :=
  let wanted : LockView := if (s.slot n).outputs.locked then .locked else .unlocked
  let s := if v.lock = wanted then s.latch (some n) .lockFail else s
  let s := if v.lock = .unlocked then s.latch (some n) .unlockFail else s
  let s := if v.forced then s else s.latch (some n) .doorForced
  if v.status = .error then s else s.latch (some n) .machineError

/-- The states in which a forced door raises DOOR_FORCED (R22). -/
def SlotState.forcible : SlotState → Bool
  | .locking | .running | .awaitPower | .suspended | .finishing | .faulted => true
  | .unconfigured | .outOfService | .idle | .reserved | .armed | .recovering | .collect => false

/-- The faults that a report raises against the slot's present state: DOOR_FORCED at its onset (R22), then MACHINE_ERROR on
entry into ERROR (R23, R139). `before` is the previous report for the half. -/
def State.reportFaults (s : State) (n : Fin 24) (before v : View) : State :=
  let s := if v.forced ∧ !before.forced ∧ (s.slot n).state.forcible then s.raise (some n) .doorForced else s
  if v.status = .error ∧ before.status ≠ .error then s.raise (some n) .machineError (some v.errorCode) else s

/-- A washer's heat request that rose or fell in RUNNING or AWAIT_POWER (R17); `was` is the flag before the report. -/
def State.heatChange (s : State) (n : Fin 24) (was : Bool) : State :=
  let x := s.slot n
  match x.state, was, x.heatReq with
  | .running, false, true => s.askHeat [n]
  | .running, true, false => if x.heatGrant then s.giveUpGrant n else s
  | .awaitPower, true, false => (s.withdraw n).enter n .running
  | _, _, _ => s

/-- What a report does in LOCKING (R13). -/
def State.lockingReport (s : State) (n : Fin 24) (v : View) : State :=
  match v.lock, v.doorOpen with
  | .locked, false => s.enterRunning n
  | .locked, true => s
  | .unlocked, true | .moving, true => (s.enterTold n .armed).showLasting n ⟨.closeDoor, 0⟩
  | .unlocked, false | .moving, false => s

/-- What a report does to a slot by its state (R13, R16, R17, R28, R29); `was` is the heat request flag before it. -/
def State.reportAct (s : State) (n : Fin 24) (was : Bool) (v : View) : State :=
  match (s.slot n).state with
  | .locking => s.lockingReport n v
  | .running | .awaitPower =>
    if s.kind n = .washer then
      if v.status = .done then s.cycleEnd n .completed none .finishing else s.heatChange n was
    else s
  | .finishing | .faulted => if v.lock = .unlocked then s.confirmUnlock n else s
  | .collect => if v.doorOpen then s.enterIdle n else s
  | .unconfigured | .outOfService | .idle | .reserved | .armed | .suspended | .recovering => s

/-- A report acted on (R41): its faults are raised, and the slot acts where they have left its state as it was (log 15); `was`
is the heat request flag before the report. -/
def State.actOn (s : State) (n : Fin 24) (was : Bool) (before v : View) : State :=
  let state := (s.slot n).state
  let s := s.reportFaults n before v
  if (s.slot n).state = state then s.reportAct n was v else s

/-- A report for a slot's half (R41): its fields are taken and the ends of conditions reported. A RECOVERING slot is decided,
and the report is then acted on as any later one is, with no change of the heat request flag left in it (R210). -/
def State.report (s : State) (n : Fin 24) (before v : View) : State :=
  let was := (s.slot n).heatReq
  let recovering : Bool := (s.slot n).state == .recovering
  let s := (s.takeView n v).latchReport n v
  if recovering then let s := s.recover n; s.actOn n (s.slot n).heatReq before v
  else s.actOn n was before v

/-! ### The latched events (R42) -/

/-- A stop press (R21, R12). -/
def State.stopPress (s : State) (n : Fin 24) : State :=
  match (s.slot n).state with
  | .locking | .running | .awaitPower => s.cycleEnd n .userStop none .faulted
  | .suspended => s.cycleEnd n .abandoned none .faulted
  | .armed => s.cycleEnd n .notStarted none .idle
  | .unconfigured | .outOfService | .idle | .reserved | .recovering | .finishing | .faulted | .collect => s

/-- A start press (R11): on an ARMED slot the room, the door and the motor admission are tested in this order. -/
def State.startPress (s : State) (n : Fin 24) : State :=
  if (s.slot n).state ≠ .armed then s
  else if s.room.state ≠ .openRoom then s.showBrief n .roomClosed
  else if (s.slot n).view.doorOpen then s.showBrief n .closeDoor
  else match s.slotCls n with
    | none => s
    | some c => if s.admits c then s.enterTold n .locking else s.showBrief n .waitPower

/-- The busy-slot path (R10). -/
def State.busyPath (s : State) (n : Fin 24) (card : Nat) : State :=
  match s.slotCls n with
  | none => s
  | some c =>
    match s.reservedFor c card with
    | some m => s.showBrief n .freeAt m.val
    | none =>
      match s.idleSlot c with
      | some m => s.showBrief n .freeAt m.val
      | none =>
        let r := s.join c card
        r.1.showBrief n r.2.1 r.2.2

/-- A tap by the hold's card (R8): a dryer's is a top-up in ARMED, in LOCKING, and in RUNNING or AWAIT_POWER in DRY. -/
def State.ownTap (s : State) (n : Fin 24) (card : Nat) : State :=
  match (s.slot n).state, s.kind n with
  | .armed, .dryer | .locking, .dryer => s.topUpTap n card
  | .running, .dryer | .awaitPower, .dryer =>
    if (s.slot n).phase = .dry then s.topUpTap n card else s.showBrief n .inUse
  | _, _ => s.showBrief n .inUse

/-- A card tap on a configured slot's half (R8). -/
def State.tap (s : State) (n : Fin 24) (card : Nat) : State :=
  if s.room.state ≠ .openRoom then s.showBrief n .roomClosed
  else match (s.slot n).state with
    | .idle => s.startTap n card
    | .reserved =>
      if (s.slot n).reservationCard = card then s.startTap n card else s.showBrief n .reservedOther
    | .armed | .locking | .running | .awaitPower | .suspended | .recovering =>
      if (s.hold n).any (fun h => h.card == card) then s.ownTap n card else s.busyPath n card
    | .finishing | .faulted => s.showBrief n .inUse
    | .collect => s.showBrief n .collect
    | .outOfService => s.showBrief n .outOfService
    | .unconfigured => s

/-- A half's latched events, in the order stop press, start press, card tap (R42). -/
def State.takeEvents (s : State) (n : Fin 24) (r : HalfReply) : State :=
  let s := if r.stop then s.stopPress n else s
  let s := if r.start then s.startPress n else s
  if r.tap then s.tap n r.card else s

/-! ### A good reply (R41) -/

def HalfReply.flagged (r : HalfReply) : Bool := r.start || r.stop || r.tap

/-- Stage 1: the terminal is heard (R41). -/
def State.hearTerminal (s : State) (t : Fin 16) : State :=
  let before := (s.terminal t).presence
  let s := s.modTerminal t fun x => { x with misses := 0, presence := .present }
  if before = .present then s
  else
    let s := s.post (.terminalPresence t .present)
    if before = .lost then s.regainSlots t else s

/-- A half's report handed to the slot configured on it (R41). -/
def State.handReport (s : State) (t : Fin 16) (h : Half) (before : Option View) (v : View) : State :=
  match s.slotAt t h with
  | some n => s.report n (before.getD .start) v
  | none => s

/-- Stage 2: both halves' last reports are replaced, and handed over half A before half B (R41). -/
def State.takeReports (s : State) (t : Fin 16) (r : TerminalReply) : State :=
  let a := (s.half t .a).report
  let b := (s.half t .b).report
  let s := s.modTerminal t fun x =>
    { x with halfA := { x.halfA with report := some r.a.view }, halfB := { x.halfB with report := some r.b.view } }
  (s.handReport t .a a r.a.view).handReport t .b b r.b.view

/-- A half's events handed to the slot configured on it; with none they are discarded (R42). -/
def State.handEvents (s : State) (t : Fin 16) (h : Half) (r : HalfReply) : State :=
  match s.slotAt t h with
  | some n => s.takeEvents n r
  | none => s

/-- Stage 3: the latched events, once under their event tag (R42). -/
def State.takeTagged (s : State) (t : Fin 16) (r : TerminalReply) : State :=
  let x := s.terminal t
  if !(r.a.flagged || r.b.flagged) then s
  else if x.tagValid ∧ x.tag = r.tag then s
  else
    let s := s.modTerminal t fun x => { x with tag := r.tag, tagValid := true }
    (s.handEvents t .a r.a).handEvents t .b r.b

/-- A good reply of a terminal, its stages in order (R41). -/
def State.goodReply (s : State) (t : Fin 16) (r : TerminalReply) : State :=
  ((s.hearTerminal t).takeReports t r).takeTagged t r

end Sys2Proof.Machine
end

