-- ==== Sys2Proof/Machine/Bus.lean ====
section
/-!
DEFINITION. The terminal bus: the choice of turns (R36, R37), polls and broadcasts (R38, R53), misses (R40), good replies
(R41), the contention window (R43, R44) and the brief deadline (R51).
-/

namespace Sys2Proof.Machine

/-- What a command answers: its effect while the part runs; in the midst of a start-up, or waiting for one, nothing acts
(log 5). -/
def State.ifRunning (s t : State) : State := if s.life = .running then t else s

/-! ### The choice of turns (R36, R37) -/

/-- A turn that the controller chooses (R36). -/
inductive Turn where
  | outOfTurn (t : Fin 16)
  | broadcast
  | probe (t : Fin 16)
  | rotation (t : Fin 16)
  deriving DecidableEq, Repr

/-- Every address is PRESENT (R37). -/
def allPresent (presence : Fin 16 → Presence) : Bool := allTerminals.all fun t => presence t = .present

/-- The end of a rotation: the count rises; at 10 a probe becomes due and the count returns to 0. A probe that falls due while
every address is PRESENT is dropped (R37). -/
def Bus.endRotation (b : Bus) (presence : Fin 16 → Presence) : Bus :=
  if b.count + 1 < 10 then { b with position := 15, count := b.count + 1 }
  else { b with position := 15, count := 0, probeDue := !allPresent presence }

/-- The address after an address, with wrap-around (R37). -/
def after (t : Fin 16) : Fin 16 := t + 1

/-- The addresses a pass has still to reach: after address 15 a new pass begins (R37). -/
def passLeft (position : Fin 16) : List (Fin 16) :=
  if position = 15 then allTerminals else allTerminals.filter fun t => position < t

/-- The addresses from the probe pointer on, with wrap-around (R37). -/
def fromPointer (pointer : Fin 16) : List (Fin 16) := allTerminals.map fun k => pointer + k

/-- The next turn with no winner and no broadcast, and the bus state it leaves (R36, R37): a due probe, which lapses when no
address is left to probe (log 18); else the next rotation poll, the position passing the addresses that are not PRESENT. A pass that ends
with no poll left in it ends its rotation, and the choice is made again; ten such passes make a probe due (log 18). -/
def chooseTurn (presence : Fin 16 → Presence) : Nat → Bus → Option (Turn × Bus)
  | 0, _ => none
  | k + 1, b =>
    if b.probeDue then
      match (fromPointer b.pointer).find? fun t => presence t ≠ .present with
      | some t => some (.probe t, { b with probeDue := false, pointer := after t })
      | none => chooseTurn presence k { b with probeDue := false }
    else
      match (passLeft b.position).find? fun t => presence t = .present with
      | some t => some (.rotation t, if t = 15 then b.endRotation presence else { b with position := t })
      | none => chooseTurn presence k (b.endRotation presence)

/-- The next turn and the bus state that choosing it leaves (R36). -/
def State.nextTurn (s : State) : Option (Turn × Bus) :=
  match s.bus.winner with
  | some t => some (.outOfTurn t, { s.bus with winner := none })
  | none =>
    if s.bus.broadcast then some (.broadcast, { s.bus with broadcast := false })
    else chooseTurn (fun t => (s.terminal t).presence) 14 s.bus

/-! ### Polls and exchanges (R38 to R41) -/

/-- A poll to a terminal (R38): its frame is sent, and its deferral flag cleared, or set by an out-of-turn poll. -/
def State.poll (s : State) (b : Bus) (t : Fin 16) (k : PollKind) : State :=
  let frame := s.pollFrame t k
  let s := s.modTerminal t fun x => { x with deferral := k == .outOfTurn }
  { s with bus := { b with turn := .exchange t k, sent := frame } }

/-- A miss of the polled terminal (R40). -/
def State.miss (s : State) (t : Fin 16) : State :=
  if (s.terminal t).presence ≠ .present then s
  else
    let s := s.modTerminal t fun x => { x with misses := x.misses + 1 }
    if (s.terminal t).misses < 3 then s
    else
      let s := s.modTerminal t fun x => { x with presence := .lost }
      (s.post (.terminalPresence t .lost)).loseSlots t

/-- The exchange ends, and its contention window opens (R39, R43). -/
def State.endExchange (s : State) : State := { s with bus := { s.bus with turn := .window } }

/-- An exchange that ends in a miss (R39, R40). -/
def State.missExchange (s : State) : State :=
  match s.bus.turn with
  | .exchange t _ => (s.miss t).endExchange
  | .between | .window => s

/-! ### The commands -/

/-- ROTATION_POLL (R38): the next turn, where it is a rotation poll. -/
def execRotationPoll (s : State) : Host.Outcome State Fault Refusal :=
  .next <| s.ifRunning <|
    match s.bus.turn, s.nextTurn with
    | .between, some (.rotation t, b) => s.poll b t .rotation
    | _, _ => s

/-- PROBE_POLL (R37): the next turn, where it is a probe poll. -/
def execProbePoll (s : State) : Host.Outcome State Fault Refusal :=
  .next <| s.ifRunning <|
    match s.bus.turn, s.nextTurn with
    | .between, some (.probe t, b) => s.poll b t .probe
    | _, _ => s

/-- OUT_OF_TURN_POLL (R44): the next turn, where it is the poll of an accepted winner. -/
def execOutOfTurnPoll (s : State) : Host.Outcome State Fault Refusal :=
  .next <| s.ifRunning <|
    match s.bus.turn, s.nextTurn with
    | .between, some (.outOfTurn t, b) => s.poll b t .outOfTurn
    | _, _ => s

/-- BROADCAST_DISPLAY (R53): the next turn, where it is a pending broadcast; no window follows it. -/
def execBroadcastDisplay (s : State) : Host.Outcome State Fault Refusal :=
  .next <| s.ifRunning <|
    match s.bus.turn, s.nextTurn with
    | .between, some (.broadcast, b) =>
      { s with bus := { b with sent := broadcastFrame (s.room.state.display.getD .blank) } }
    | _, _ => s

/-- TERMINAL_REPLY (R41): the characters of a reply; one that is not good is malformed, and a miss (R39). -/
def execTerminalReply (chars : List RxChar) (s : State) : Host.Outcome State Fault Refusal :=
  .next <| s.ifRunning <|
    match s.bus.turn with
    | .exchange t _ =>
      match goodReply t chars with
      | some r => (s.goodReply t r).endExchange
      | none => s.missExchange
    | .between | .window => s

/-- MALFORMED_REPLY (R39). -/
def execMalformedReply (s : State) : Host.Outcome State Fault Refusal := .next (s.ifRunning s.missExchange)

/-- REPLY_TIMEOUT (R39). -/
def execReplyTimeout (s : State) : Host.Outcome State Fault Refusal := .next (s.ifRunning s.missExchange)

/-- A window's winner is accepted when it is PRESENT with its deferral flag clear (R44). -/
def State.accepts (s : State) (t : Fin 16) : Bool := (s.terminal t).presence == .present && !(s.terminal t).deferral

/-- CONTENTION_WINDOW (R43): the samples 7, 8 and 9 of the five bit slots are read. -/
def execContentionWindow (start a3 a2 a1 a0 : BitVec 3) (s : State) : Host.Outcome State Fault Refusal :=
  .next <| s.ifRunning <|
    match s.bus.turn with
    | .window =>
      { s with bus := { s.bus with turn := .between, winner := (windowAddress start a3 a2 a1 a0).filter s.accepts } }
    | .between | .exchange _ _ => s

/-- BRIEF_DEADLINE (R51). -/
def execBriefDeadline (t : Fin 16) (h : Half) (s : State) : Host.Outcome State Fault Refusal :=
  .next <| s.ifRunning <| if s.reached (s.half t h).brief then s.modHalf t h HalfEntry.revert else s

end Sys2Proof.Machine
end

