-- ==== Sys2Proof/Machine/Timers.lean ====
section
/-!
DEFINITION. Time at the slots: the deadlines of the state timers (R12, R13, R28, R29, R210), the counted seconds (R15, R20,
R25, R78) with the ends they bring, and the expiries of the waitlist (R161, R163).
-/

namespace Sys2Proof.Machine

/-! ### The deadlines of the state timers (R3) -/

/-- ARMED_DEADLINE (R12). -/
def execArmedDeadline (n : Fin 24) (s : State) : Host.Outcome State Fault Refusal :=
  .next <| s.ifRunning <|
    if (s.slot n).state = .armed ∧ s.reached (s.slot n).timer then s.cycleEnd n .notStarted none .idle else s

/-- LOCKING_DEADLINE (R13). -/
def execLockingDeadline (n : Fin 24) (s : State) : Host.Outcome State Fault Refusal :=
  .next <| s.ifRunning <|
    if (s.slot n).state = .locking ∧ s.reached (s.slot n).timer then s.raise (some n) .lockFail else s

/-- UNLOCK_DEADLINE (R28). -/
def execUnlockDeadline (n : Fin 24) (s : State) : Host.Outcome State Fault Refusal :=
  .next <| s.ifRunning <|
    if ((s.slot n).state = .finishing ∨ (s.slot n).state = .faulted) ∧ s.reached (s.slot n).timer then
      s.raise (some n) .unlockFail
    else s

/-- COLLECT_WINDOW_EXPIRY (R29). -/
def execCollectWindowExpiry (n : Fin 24) (s : State) : Host.Outcome State Fault Refusal :=
  .next <| s.ifRunning <|
    if (s.slot n).state = .collect ∧ s.reached (s.slot n).timer then s.enterIdle n else s

/-- RECOVERY_DEADLINE (R210). -/
def execRecoveryDeadline (n : Fin 24) (s : State) : Host.Outcome State Fault Refusal :=
  .next <| s.ifRunning <|
    if (s.slot n).state = .recovering ∧ s.reached (s.slot n).timer then s.cycleEnd n .outage none .faulted else s

/-! ### The counted seconds (R15, R20) -/

/-- A second counted on a RUNNING slot (R15, R20): a washer's run seconds; a dryer's remaining paid seconds and run
seconds in DRY, its cool seconds in COOL. -/
def Slot.counted (k : Kind) (x : Slot) : Slot :=
  match k, x.phase with
  | .washer, _ => { x with run := x.run + 1 }
  | .dryer, .cool => { x with cool := x.cool - 1 }
  | .dryer, .dry => { x with remaining := x.remaining - 1, run := x.run + 1 }
  | .dryer, _ => x

/-- A second at a slot: counted in RUNNING, but not where an end already reached awaits its own command (log 4); run
seconds are stored at each whole minute (R78), compare point A is tested (R25), and a changed minute count shown (R25). -/
def State.slotSecond (s : State) (n : Fin 24) : State :=
  if (s.slot n).state ≠ .running ∨ s.endDue n then s
  else
    let minutes := s.minutesLeft n
    let run := (s.slot n).run
    let s := s.modSlot n (Slot.counted (s.kind n))
    let s := if (s.slot n).run = run then s else s.storeRun n
    let s := s.pointA n
    if s.minutesLeft n = minutes then s else s.showLasting n ⟨.running, s.minutesLeft n⟩

/-- RUN_SECOND: an elapsed second (R15): the slots count in ascending order (the model's choice, log 45), then the waitlist
while the room is OPEN (R161, R163). -/
def execRunSecond (s : State) : Host.Outcome State Fault Refusal :=
  .next <| s.ifRunning <|
    let s := overSlots (fun n s => s.slotSecond n) { s with elapsed := s.elapsed + 1 }
    if s.room.state = .openRoom then s.waitSecond else s

/-- OVERRUN (R15): a busy washer whose run seconds have passed 2 × P. -/
def execOverrun (n : Fin 24) (s : State) : Host.Outcome State Fault Refusal :=
  .next <| s.ifRunning <|
    if (s.slot n).state.busy ∧ s.kind n = .washer ∧ 2 * s.planned n < (s.slot n).run then s.raise (some n) .overrun
    else s

/-- The reload of a dryer's pending top-up minutes (R20). -/
def State.reload (s : State) (n : Fin 24) : State :=
  s.modSlot n fun x => { x with remaining := x.topUp * 60, topUp := 0 }

/-- A dryer's change to COOL (R20): the heat request flag is cleared and the grant released. -/
def State.coolDown (s : State) (n : Fin 24) : State :=
  let cool := s.coolTime n
  (s.modSlot n fun x => { x with phase := .cool, cool := cool }).dropHeat n

/-- PAID_SECONDS_EXHAUSTED (R20): the remaining paid seconds of a dryer in DRY have reached 0. -/
def execPaidSecondsExhausted (n : Fin 24) (s : State) : Host.Outcome State Fault Refusal :=
  .next <| s.ifRunning <|
    let x := s.slot n
    if x.state = .running ∧ s.kind n = .dryer ∧ x.phase = .dry ∧ x.remaining = 0 then
      if 0 < x.topUp then s.reload n else s.coolDown n
    else s

/-- COOL_DOWN_END (R20): compare point P of a dryer. -/
def execCoolDownEnd (n : Fin 24) (s : State) : Host.Outcome State Fault Refusal :=
  .next <| s.ifRunning <|
    let x := s.slot n
    if x.state = .running ∧ s.kind n = .dryer ∧ x.phase = .cool ∧ x.cool = 0 then
      s.cycleEnd n .completed none .finishing
    else s

/-! ### The expiries of the waitlist (R161, R163) -/

/-- WAITLIST_ENTRY_EXPIRY (R161): the entry at a position, its lifetime run out, leaves its queue. -/
def execWaitlistEntryExpiry (c : Fin 4) (position : Nat) (s : State) : Host.Outcome State Fault Refusal :=
  .next <| s.ifRunning <|
    match (s.queue c)[position - 1]? with
    | some e =>
      if e.lifetime = 0 ∧ 0 < position then
        (s.setQueue c ((s.queue c).eraseIdx (position - 1))).post (.entryExpired e.card c position)
      else s
    | none => s

/-- RESERVATION_EXPIRY (R163): a reservation whose window has run out ends, and its slot is handed on. -/
def execReservationExpiry (n : Fin 24) (s : State) : Host.Outcome State Fault Refusal :=
  .next <| s.ifRunning <|
    match (s.slot n).state, (s.slot n).reservation, s.slotCls n with
    | .reserved, some r, some c =>
      if r.window = 0 then (s.post (.reservationExpired r.card c n)).handOn n else s
    | _, _, _ => s

end Sys2Proof.Machine
end

