-- ==== Sys2Proof/Machine/Sense.lean ====
section
/-!
DEFINITION. The sense scanner (06): the converter and its scan (R122 to R124), the reference check (R126, R127), applying a
valid scan (R130, R105, R119, R120), the strike tests (R131 to R133), and on-demand readings (R125).
-/

namespace Sys2Proof.Machine

def State.modScanner (s : State) (f : Scanner → Scanner) : State := { s with scanner := f s.scanner }
def State.modSense (s : State) (n : Fin 24) (f : SlotSense → SlotSense) : State :=
  s.modSlot n fun x => { x with sense := f x.sense }

/-! ### The converter (R122, R124) -/

/-- An idle converter starts its next conversion: an on-demand one that waits, else the next of the scan (R124). -/
def State.startNext (s : State) : State :=
  match s.scanner.converter, s.scanner.waiting, s.scanner.toConvert with
  | some _, _, _ => s
  | none, (p, i) :: rest, _ => s.modScanner fun c => { c with converter := some (.onDemand p i), waiting := rest }
  | none, [], i :: rest =>
    let s := s.modScanner fun c => { c with converter := some (.scan i), toConvert := rest }
    match slotOf i with
    | some n => s.modSense n fun x => { x with begun := true }
    | none => s
  | none, [], [] => s

/-- The scan list (R123): the configured slots in ascending order, FEED, REFERENCE. -/
def State.scanList (s : State) : List Nat :=
  ((allSlots.filter fun n => (s.slot n).cfg.isSome).map fun n => n.val) ++ [24, 26]

/-- A slot's marks in a scan that has it under class `c`, or does not have it: no conversion of it has begun. -/
def SlotSense.inScan (c : Option (Fin 4)) (x : SlotSense) : SlotSense := { x with begun := false, stale := false, scanned := c }

/-- Every slot's marks as a scan starts: the scan has the configured slots under their classes of that moment (R123). -/
def State.markScan (s : State) : State := overSlots (fun n s => s.modSense n (.inScan (s.slotCls n))) s

/-- Every slot's marks of the scan that ended are cleared. -/
def State.clearMarks (s : State) : State := overSlots (fun n s => s.modSense n (.inScan none)) s

/-- A scan's start (R123). -/
def State.beginScan (s : State) : State :=
  let list := s.scanList
  (s.markScan.modScanner fun c =>
    { c with active := true, toConvert := list, results := [], feed := 0, number := (c.number + 1) % 65536 }).startNext

/-- SCAN_START (R123): dropped while the previous scan's REFERENCE result has not arrived. -/
def execScanStart (s : State) : Host.Outcome State Fault Refusal :=
  .next <| s.ifRunning <| if s.scanner.active then s else s.beginScan

/-- A result of a slot input, scaled as it arrives and held until the scan's end (R123, R128). -/
def State.holdResult (s : State) (n : Fin 24) (count : Nat) : State :=
  let r := s.scaled n.val count
  s.modScanner fun c => { c with converter := none, results := c.results ++ [⟨n, r.1, r.2⟩] }

/-- The FEED result (R129). -/
def State.holdFeed (s : State) (count : Nat) : State :=
  let r := s.scaled 24 count
  s.modScanner fun c => { c with converter := none, feed := r.2 }

/-- CONVERSION_RESULT (R128): the result of a scan's conversion of a slot input or of FEED. -/
def execConversionResult (count : Nat) (s : State) : Host.Outcome State Fault Refusal :=
  .next <| s.ifRunning <|
    match s.scanner.converter with
    | some (.scan i) =>
      if i = 24 then (s.holdFeed count).startNext
      else match slotOf i with
        | some n => (s.holdResult n count).startNext
        | none => s
    | some (.onDemand _ _) | none => s

/-! ### The strike tests (R131 to R133) -/

/-- A condition that ended, as a valid scan finds it: the raised flag is cleared and the entry becomes LATCHED (R133). -/
def State.endCondition (s : State) (n : Fin 24) (t : SenseTest) : State :=
  if ((s.slot n).sense.strike t).raised then
    (s.modSense n fun x => x.setStrike t { x.strike t with raised := false }).latch (some n) t.fault
  else s

/-- A strike of a test: the counter rises up to the strike number; there the fault is raised, once per onset (R133). -/
def State.strikeTrue (s : State) (n : Fin 24) (t : SenseTest) : State :=
  let k := (s.slot n).sense.strike t
  let count := min t.strikes (k.count + 1)
  if count = t.strikes ∧ !k.raised then
    (s.modSense n fun x => x.setStrike t ⟨count, true⟩).raise (some n) t.fault
  else s.modSense n fun x => x.setStrike t { k with count := count }

/-- One test of a slot on the watts of a scan (R133). -/
def State.strikeTest (s : State) (n : Fin 24) (w : Nat) (t : SenseTest) : State :=
  if s.strikeCondition n t w then s.strikeTrue n t
  else (s.modSense n fun x => x.setStrike t { x.strike t with count := 0 }).endCondition n t

/-- The tests of a slot whose result is not stale, in the order of R132; a granted slot's heater-open test is armed from the
next such scan on (R132). -/
def State.strikeTests (s : State) (r : ScanResult) : State :=
  if (s.slot r.slot).sense.stale then s
  else
    let s := SenseTest.all.foldl (fun s t => s.strikeTest r.slot r.watts t) s
    s.modSlot r.slot fun x => { x with sense := { x.sense with armed := x.sense.armed || x.heatGrant } }

/-- The ends of conditions that a scan finds, reported before its raises are made (R144). A condition found false there is ended
also where an earlier raise of the same scan then makes it true, or its result stale (the model's choice, log 19). -/
def State.endedTests (s : State) (r : ScanResult) : State :=
  if (s.slot r.slot).sense.stale then s
  else SenseTest.all.foldl
    (fun s t => if s.strikeCondition r.slot t r.watts then s else s.endCondition r.slot t) s

/-! ### The end of a scan (R126, R127, R130) -/

/-- The scan's results of slots still configured at its end, whose class did not become none during it (R123, R130). -/
def State.keptResults (s : State) : List ScanResult :=
  s.scanner.results.filter fun r => (s.slot r.slot).cfg.isSome && (s.slot r.slot).sense.scanned.isSome

/-- Stage 1 of R130: the measured draws. -/
def State.takeDraws (s : State) (rs : List ScanResult) : State :=
  rs.foldl (fun s r => s.modSense r.slot fun x => { x with amps := r.amps, watts := r.watts }) s

/-- The feed-over count and flag (R119, R120), with the grant list as the scan's reckoning has left it. -/
def State.feedOver (s : State) (feed : Nat) : State :=
  if s.settings.governor.budget < feed then
    if s.gov.grants.isEmpty then
      let k := min 10 (s.gov.feedOver + 1)
      if k = 10 ∧ !s.gov.feedRaised then
        (s.modGov fun g => { g with feedOver := k, feedRaised := true }).raise none .feedOver
      else s.modGov fun g => { g with feedOver := k }
    else s.modGov fun g => { g with feedOver := 0 }
  else if s.gov.feedRaised then
    (s.modGov fun g => { g with feedOver := 0, feedRaised := false }).latch none .feedOver
  else s.modGov fun g => { g with feedOver := 0 }

/-- Stage 2 of R130: the governor takes the stray load (R105), reckons, and keeps its feed-over count. -/
def State.takeFigures (s : State) (rs : List ScanResult) : State :=
  let feed := s.scanner.feed
  let stray := strayOf feed (rs.map fun r => r.watts).sum
  ((s.modGov fun g => { g with stray := stray }).reckon false false false).feedOver feed

/-- A valid scan (R127, R130). FEED_OVER is raised or ended at stage 2, before the ends of the slots' strike conditions are
reported and their raises made (R144; the model's choice, log 19). -/
def State.validScan (s : State) : State :=
  let s :=
    if s.scanner.refFault then (s.modScanner fun c => { c with refFault := false }).latch none .senseReference else s
  let rs := s.keptResults
  let s := s.modScanner fun c => { c with valid := true, feedWatts := c.feed }
  let s := (s.takeDraws rs).takeFigures rs
  rs.foldl State.strikeTests (rs.foldl State.endedTests s)

/-- An invalid scan: its results are discarded, and the first raises SENSE_REFERENCE (R126, R127). -/
def State.invalidScan (s : State) : State :=
  let s := s.modScanner fun c => { c with valid := false }
  if s.scanner.refFault then s else (s.modScanner fun c => { c with refFault := true }).raise none .senseReference

/-- The REFERENCE result (R123, R126). -/
def State.endScan (s : State) (count : Nat) : State :=
  let s := s.modScanner fun c => { c with converter := none, active := false, ended := c.number }
  let s := if referenceValid count then s.validScan else s.invalidScan
  (s.clearMarks.modScanner fun c => { c with results := [] }).startNext

/-- SCAN_END (R130): the REFERENCE result. -/
def execScanEnd (count : Nat) (s : State) : Host.Outcome State Fault Refusal :=
  .next <| s.ifRunning <| if s.scanner.converter = some (.scan 26) then s.endScan count else s

/-! ### On-demand readings (R124, R125) -/

/-- The reply to a SENSE_READ with its fresh count (R125). -/
def State.senseReport (s : State) (input count : Nat) : SenseReport :=
  let r := s.scaled input count
  let calibrated : Bool := input < 25
  { input := input, count := count,
    amps := if calibrated then some r.1 else none,
    watts := if calibrated then some r.2 else none,
    calibration := if calibrated then some (s.calibration input) else none,
    strap := if input = 25 then some (count / 512, strapIsMarginal count, s.unit) else none,
    scan := s.scanner.ended, valid := s.scanner.valid, volts := s.settings.sense.volts,
    slot := (slotOf input).map fun n => (s.slot n).sense,
    feedWatts := if input = 24 then some s.scanner.feedWatts else none }

/-- An on-demand result: the reply of the port that asked is built (R125, R189). -/
def State.answerSense (s : State) (p : Port) (input count : Nat) : State :=
  let reply : Reply := ⟨0x58, .ok, .sense (s.senseReport input count)⟩
  (s.modScanner fun c => { c with converter := none }).setActivity p (.built reply)

/-- ON_DEMAND_CONVERSION_RESULT (R124). -/
def execOnDemandConversionResult (count : Nat) (s : State) : Host.Outcome State Fault Refusal :=
  .next <| s.ifRunning <|
    match s.scanner.converter with
    | some (.onDemand p i) => (s.answerSense p i count).startNext
    | some (.scan _) | none => s

end Sys2Proof.Machine
end

