-- ==== Sys2Proof/Machine/RoomControl.lean ====
section
/-!
DEFINITION. Room control's commands: the clock (R172, R173), the schedule (R176), the interlock (R179, R180) and the
suspension limit (R181).
-/

namespace Sys2Proof.Machine

/-- A second of the room clock (R172). -/
def Clock.tick (c : Clock) : Clock :=
  if c.second + 1 < 86400 then { c with second := c.second + 1 }
  else { c with second := 0, day := (c.day + 1) % 65536 }

/-- CLOCK_SECOND (R172): the clock runs at all times in which the part has power (log 2). -/
def execClockSecond (s : State) : Host.Outcome State Fault Refusal :=
  .next <| match s.life with
    | .waiting => s
    | .strap _ | .running | .restartDue => { s with clock := s.clock.tick }

/-- MINUTE_CHANGE (R176): the schedule is evaluated. -/
def execMinuteChange (s : State) : Host.Outcome State Fault Refusal :=
  .next <| s.ifRunning <| s.followMode .schedule

/-- The interlock's active level taken (R179). -/
def State.interlockOn (s : State) : State :=
  let s := { s with room := { s.room with interlock := true } }
  if s.room.state = .suspended then s else s.suspend

/-- The interlock's inactive level taken (R180). -/
def State.interlockOff (s : State) : State :=
  let s := { s with room := { s.room with interlock := false } }
  if s.room.state = .suspended then s.changeRoom .held .interlockInactive else s

/-- INTERLOCK_ACTIVE (R179): a change to the active level has held for 50 ms. -/
def execInterlockActive (s : State) : Host.Outcome State Fault Refusal :=
  .next <| s.ifRunning <| if s.room.interlock then s else s.interlockOn

/-- INTERLOCK_INACTIVE (R180): a change to the inactive level has held for 50 ms. -/
def execInterlockInactive (s : State) : Host.Outcome State Fault Refusal :=
  .next <| s.ifRunning <| if s.room.interlock then s.interlockOff else s

/-- The suspension timer's deadline is reached (R181). -/
def State.limitReached (s : State) : Bool :=
  match s.room.timer with
  | .running d => d ≤ s.elapsed
  | .idle | .reached => false

/-- SUSPENSION_LIMIT (R181). -/
def execSuspensionLimit (s : State) : Host.Outcome State Fault Refusal :=
  .next <| s.ifRunning <| if s.limitReached then s.suspensionLimit else s

/-- TIME_SET's values are in range (R173). -/
def clockOk (day second : Nat) : Bool := day < 65536 && second < 86400

/-- The clock takes a day and a second (R173); the schedule is evaluated afresh when CLOCK_SET becomes true or the minute
of day moves. -/
def State.setClock (s : State) (day second : Nat) : State :=
  let before := s.clock
  let s := { s with clock := ⟨second, day, true⟩ }
  if !before.isSet || before.minute != s.clock.minute then s.followMode .timeSet else s

end Sys2Proof.Machine
end

