-- ==== Sys2Proof/Machine/Ports.lean ====
section
/-!
DEFINITION. The port unit (10): what stands on a port's line (R57, R185 to R187, R196), taking, testing and answering a request (R187 to
R190), the record store's completions (R189, R204), broadcasts (R190, R191) and RESTART's end (R196).
-/

namespace Sys2Proof.Machine

/-! ### The line of a port (R57, R185, R187, R189, R196) -/

/-- The port sends a reply: its receiver disregards the line (R185). A reply that is built and has not begun leaves the port BUSY
and its receiver hearing (R187, R189). -/
def Activity.isSending : Activity → Bool
  | .sending _ => true
  | .idle | .storing _ _ | .sensing _ | .deferred _ | .built _ => false

/-- A built reply begins (R189). -/
def Activity.begun : Activity → Activity
  | .built r => .sending r
  | .idle => .idle
  | .storing r k => .storing r k
  | .sensing i => .sensing i
  | .deferred w => .deferred w
  | .sending r => .sending r

/-- The replies that are built begin, of themselves, once no command is left at the moment: what a step does on an empty queue
(the model's choice, log 40). -/
def State.beginReplies (s : State) : State :=
  s.ifRunning ((s.setActivity .building s.building.activity.begun).setActivity .service s.service.activity.begun)

/-- A port's receiver takes characters while the part runs and the port does not send (R185, R196). -/
def State.listens (s : State) (p : Port) : Bool := s.life == .running && !(s.port p).activity.isSending

/-- A RESTART was taken on the other port: frames that open on this one are disregarded (R196). The RESTART's own port goes on
hearing, also while the start-up waits for the other port's reply (the model's choice, log 25). -/
def State.deaf (s : State) (p : Port) : Bool :=
  s.restart.of (otherPort p) != .none

/-- A frame that opens on the port is heard. -/
def State.hears (s : State) (p : Port) : Bool := s.listens p && !s.deaf p

/-! ### Frames discarded and broken off (R57, R185 to R187, R197) -/

/-- A frame of a host port that ended without being complete and good, by the class its address gives it (R185, R186): while
the port is BUSY a frame for this unit or a broadcast counts as an overrun when it opens; otherwise its discard, and that
of a frame in error, counts as an error. -/
def State.discardFrame (s : State) (p : Port) (address : Byte) : State :=
  match frameClass s.unit p address.toNat with
  | .notForUnit => s
  | .inError => s.countError p
  | .request | .broadcast => if s.portBusy p then s.countOverrun p else s.countError p

/-- The frame that the port has open, if any, is discarded: another one opens, or a gap ends it (R57). -/
def State.breakOff (s : State) (p : Port) : State :=
  match (s.port p).frame with
  | none => s
  | some f => (s.setFrame p none).discardFrame p f.1

/-- The frame that the port has open is of class `k`. -/
def State.frameIs (s : State) (p : Port) (k : FrameClass) : Bool :=
  (s.port p).frame.any fun f => frameClass s.unit p f.1.toNat == k

/-- A command that gives a frame of class `k`, complete and good, at its port. On an IDLE port it is the frame of that class that
the port has open, if any, whenever that opened; else it opened now and broke off the one open (log 36). Then it is disregarded
after a RESTART on the other port (R196), and an overrun while the port is BUSY (R187). -/
def State.frameArrives (s : State) (p : Port) (k : FrameClass) (act : State → State) : State :=
  if !s.listens p then s
  else if !s.portBusy p && s.frameIs p k then act (s.setFrame p none)
  else
    let s := s.breakOff p
    if s.deaf p then s else if s.portBusy p then s.countOverrun p else act s

/-! ### Answering a request -/

/-- A reply whose effect is complete (R189). -/
def State.answer (s : State) (p : Port) (kind : Nat) (status : Status) (body : ReplyBody := .empty) : State :=
  s.setActivity p (.built ⟨kind, status, body⟩)

/-- What a request's own rule makes of it: the state after it, and its reply's status and body. -/
structure Answer where
  state  : State
  status : Status
  body   : ReplyBody

/-- A refusal: nothing changes (R188). -/
def State.refuse (s : State) (status : Status) : Answer := ⟨s, status, .empty⟩
def State.ok (s : State) (body : ReplyBody := .empty) : Answer := ⟨s, .ok, body⟩

/-- The end of a request's event: its reply is built now, or, where the request has writes in progress, when they are done,
the store turn being held until then (R189, R190). -/
def Answer.finish (a : Answer) (p : Port) (kind : Nat) (writesBefore : Nat) : State :=
  if a.state.writes.length = writesBefore then a.state.answer p kind a.status a.body
  else { a.state.setActivity p (.storing ⟨kind, a.status, a.body⟩ a.state.writes.length) with turn := some p }

/-- A request to this unit (R187, R188): one taken is counted, tested for its kind's port, its length and the store turn, and then
handed to its own rule. -/
def State.take {α : Type} (s : State) (p : Port) (kind : Nat) (parsed : Except Status α) (go : α → State → State) :
    State :=
  s.frameArrives p .request fun s =>
    let s := s.countTaken p
    if kindRefused p kind then s.answer p kind .notPermitted
    else match parsed with
      | .error status => s.answer p kind status
      | .ok a => if kindWrites kind && s.turn == some (otherPort p) then s.answer p kind .full else go a s

/-- A request whose own rule answers it at its event. -/
def State.request {α : Type} (s : State) (p : Port) (kind : Nat) (parsed : Except Status α) (act : α → State → Answer) :
    State :=
  s.take p kind parsed fun a s => (act a s).finish p kind s.writes.length

/-- UNKNOWN_KIND_REQUEST (R188): test 1 fails. With a kind of the catalogue it has no occasion (log 1). -/
def execUnknownKindRequest (p : Port) (kind : Byte) (_body : List Byte) (s : State) :
    Host.Outcome State Fault Refusal :=
  .next <|
    if catalogueKinds.contains kind.toNat then s
    else s.frameArrives p .request fun s => (s.countTaken p).answer p kind.toNat .unknownKind

/-! ### The record store's completions (R189, R190, R204) -/

/-- One change fewer to wait for; a reply that waits for none is built (R189). -/
def Activity.stored : Activity → Activity
  | .storing r k => if k ≤ 1 then .built r else .storing r (k - 1)
  | a => a

def Activity.isStoring : Activity → Bool
  | .storing _ _ => true
  | _ => false

/-- A port's share in a completed change: its reply built when its changes are done, and the store turn freed with it. -/
def State.portStored (s : State) (p : Port) : State :=
  let was := (s.port p).activity
  let s := s.setActivity p was.stored
  if was.isStoring && !was.stored.isStoring && s.turn == some p then { s with turn := none } else s

/-- STORE_WRITE_DONE (R204): the oldest change is done, whole. -/
def State.writeDone (s : State) : State :=
  match s.writes with
  | [] => s
  | ws :: rest =>
    let s := { s with store := s.store.applyAll ws, writes := rest }
    (s.portStored .building).portStored .service

def execStoreWriteDone (s : State) : Host.Outcome State Fault Refusal :=
  .next <| match s.life with
    | .running | .restartDue => s.writeDone
    | .waiting | .strap _ => s

/-! ### The end of a reply, and RESTART (R187, R196) -/

/-- A port whose request is still unanswered. -/
def Activity.unanswered : Activity → Bool
  | .storing _ _ | .sensing _ | .built _ | .sending _ => true
  | .idle | .deferred _ => false

/-- A RESTART is taken on a port: one that was taken there before and waits for the other port's reply goes on waiting (the model's
choice, log 25). -/
def Restarts.take (r : Restarts) (p : Port) : Restarts := if r.of p = .none then r.set p .taken else r

/-- What the end of a reply on a port means for the RESTARTs taken (R196), each by itself: the end of its own reply makes the
start-up due, or, with the other port's request still unanswered, the end of that one's reply does; meanwhile its own port hears
frames (the model's choice, log 25). -/
def State.replyEnded (s : State) (p : Port) : State :=
  if s.restart.of (otherPort p) = .ended then { s with life := .restartDue }
  else if s.restart.of p = .none then s
  else if (s.port (otherPort p)).activity.unanswered then { s with restart := s.restart.set p .ended }
  else { s with life := .restartDue }

/-- HOST_REPLY_END (R187): the last stop bit of a reply, which had begun by then (log 40). -/
def execHostReplyEnd (p : Port) (s : State) : Host.Outcome State Fault Refusal :=
  .next <| s.ifRunning <|
    match (s.port p).activity with
    | .built _ | .sending _ => (s.setActivity p .idle).replyEnded p
    | .idle | .storing _ _ | .sensing _ | .deferred _ => s

/-! ### Frames broken off, overrun and not for this unit (R57, R185 to R187) -/

/-- FRAME_GAP_TIMEOUT (R57): a gap inside an open frame, the one the port has open or, with none, one that opened since; on the
terminal bus the reply that breaks off is a miss (R39). -/
def execFrameGapTimeout (l : Line) (address : Byte) (s : State) : Host.Outcome State Fault Refusal :=
  .next <| match l with
    | .bus => s.ifRunning s.missExchange
    | .host p =>
      if !s.listens p then s
      else if (s.port p).frame.isSome then s.breakOff p
      else if s.deaf p then s
      else s.discardFrame p address

/-- HOST_FRAME_OVERRUN (R187): a frame for this unit or a broadcast opens while the port is BUSY. It breaks off a frame that the port
has open (R57), also where it is itself disregarded after a RESTART on the other port (R196). -/
def execHostFrameOverrun (p : Port) (address : Byte) (s : State) : Host.Outcome State Fault Refusal :=
  .next <|
    match s.listens p && s.portBusy p, frameClass s.unit p address.toNat with
    | true, .request | true, .broadcast => if s.deaf p then s.breakOff p else (s.breakOff p).countOverrun p
    | _, _ => s

/-- FRAME_NOT_FOR_UNIT (R185): dropped without a check and without a count; its opening broke off a frame that the building port
had open (R57). -/
def execFrameNotForUnit (_address : Byte) (s : State) : Host.Outcome State Fault Refusal :=
  .next (if s.listens .building then s.breakOff .building else s)

/-! ### Broadcasts (R190, R191) -/

/-- BROADCAST_DROPPED (R191): another kind, a wrong length or a value out of range. -/
def execBroadcastDropped (p : Port) (_kind : Byte) (_body : List Byte) (s : State) : Host.Outcome State Fault Refusal :=
  .next <| s.frameArrives p .broadcast fun s => s

/-- BROADCAST_TIME_SET (R191, R173). -/
def execBroadcastTimeSet (p : Port) (body : List Byte) (s : State) : Host.Outcome State Fault Refusal :=
  .next <| s.frameArrives p .broadcast fun s =>
    match body23 body with
    | .ok (day, second) => if clockOk day second then (s.setClock day second).countBroadcast p else s
    | .error _ => s

/-- A feed budget is in range (R102, R103). -/
def budgetOk (w : Nat) : Bool := 1000 ≤ w && w ≤ 200000

/-- The feed budget takes a new value: a reckoning, and the governor configuration written (R103). -/
def State.setBudget (s : State) (w : Nat) : State :=
  let g := { s.settings.governor with budget := w }
  let s := { s with settings := { s.settings with governor := g } }
  (s.write [.governor g]).reckon false false false

/-- BROADCAST_BUDGET_SET (R191, R103): with the store turn held for the other port it waits, its port BUSY (R190). Applied, it
does not go on holding the turn (the model's choice, log 39). -/
def execBroadcastBudgetSet (p : Port) (body : List Byte) (s : State) : Host.Outcome State Fault Refusal :=
  .next <| s.frameArrives p .broadcast fun s =>
    match body3 body with
    | .ok w =>
      if !budgetOk w then s
      else if s.turn = some (otherPort p) then s.setActivity p (.deferred w)
      else (s.setBudget w).countBroadcast p
    | .error _ => s

/-- BROADCAST_BUDGET_DEFERRED (R190): the store turn is free, and the waiting broadcast is applied, taking the turn and giving
it back at once (the model's choice, log 39). -/
def execBroadcastBudgetDeferred (p : Port) (s : State) : Host.Outcome State Fault Refusal :=
  .next <| s.ifRunning <|
    match (s.port p).activity, s.turn with
    | .deferred w, none => ((s.setBudget w).countBroadcast p).setActivity p .idle
    | _, _ => s

end Sys2Proof.Machine
end

