-- ==== Sys2Proof/Machine/Status.lean ====
section
/-!
DEFINITION. The requests that read the part: its room, slots, terminals, ports (R184, R195, R58, R197), its events (R199),
settlement records (R98), faults (R152, R153), governor (R121), waitlist (R170) and inputs (R125).
-/

namespace Sys2Proof.Machine

/-! ### Status -/

/-- The number of slots in a state (R184). -/
def State.countIn (s : State) (st : SlotState) : Nat := (allSlots.filter fun n => (s.slot n).state = st).length

/-- The seconds left of a RUNNING suspension timer (R181). -/
def State.suspensionLeft (s : State) : Option Nat :=
  match s.room.timer with
  | .running d => some (d - s.elapsed)
  | .idle | .reached => none

/-- The reply to ROOM_STATUS (R184). -/
def State.roomReport (s : State) : RoomReport :=
  { state := s.room.state, mode := s.settings.room.mode, calledOpen := s.calledOpen, clock := s.clock,
    openMinute := s.settings.room.openMinute, closeMinute := s.settings.room.closeMinute, band := s.band,
    interlock := s.room.interlock, timer := s.room.timer, secondsLeft := s.suspensionLeft, holds := s.holdCount,
    states := SlotState.all.map s.countIn, unit := s.unit, strapMarginal := s.strapMarginal }

/-- ROOM_STATUS (R184). -/
def execRoomStatus (p : Port) (body : List Byte) (s : State) : Host.Outcome State Fault Refusal :=
  .next <| s.request p 0x01 (bodyNone body) fun _ s => s.ok (.room s.roomReport)

/-- The reply to SLOT_STATUS (R195); H and Q as R86 works them out. -/
def State.slotReport (s : State) (n : Fin 24) : SlotReport :=
  let h := s.hold n
  { slot := s.slot n, secondsLeft := s.secondsLeft (s.slot n).timer, hold := h,
    heldAmount := h.elim 0 fun h => h.amount, paidSeconds := h.elim 0 Hold.paidSeconds }

/-- SLOT_STATUS (R195). -/
def execSlotStatus (p : Port) (body : List Byte) (s : State) : Host.Outcome State Fault Refusal :=
  .next <| s.request p 0x02 (body1 body) fun k s =>
    match slotOf k with
    | some n => s.ok (.slot (s.slotReport n))
    | none => s.refuse .badValue

/-- TERMINAL_STATUS (R58). -/
def execTerminalStatus (p : Port) (body : List Byte) (s : State) : Host.Outcome State Fault Refusal :=
  .next <| s.request p 0x03 (body1 body) fun k s =>
    match terminalOf k with
    | some t => s.ok (.terminal (s.terminal t) (s.slotAt t .a) (s.slotAt t .b))
    | none => s.refuse .badValue

/-- The reply to PORT_STATUS (R197); the sending port is BUSY with the request (R187). -/
def State.portReport (s : State) (p : Port) : PortReport :=
  { building := s.building.counts, service := s.service.counts, buildingBusy := p == .building || s.portBusy .building,
    serviceBusy := p == .service || s.portBusy .service, unit := s.unit, turn := s.turn,
    events := s.events.queue.length, lost := s.events.lost, next := s.events.next }

/-- PORT_STATUS (R197): the clear flag clears the sending port's counts after the reply is built. -/
def execPortStatus (p : Port) (body : List Byte) (s : State) : Host.Outcome State Fault Refusal :=
  .next <| s.request p 0x04 (body1 body) fun k s =>
    match flagOf k with
    | some clear =>
      let r := s.portReport p
      (if clear then s.modCounts p fun _ => ⟨0, 0, 0, 0⟩ else s).ok (.ports r)
    | none => s.refuse .badValue

/-! ### Events and settlement records -/

/-- EVENTS_READ (R199): the oldest events and the lost count are taken. -/
def State.readEvents (s : State) (count : Nat) : Answer :=
  let q := s.events
  let left := q.queue.drop count
  { s with events := { q with queue := left, lost := 0 } }.ok
    (.events q.lost ((q.queue.take count).map Event.bytes) left.length q.next)

def execEventsRead (p : Port) (body : List Byte) (s : State) : Host.Outcome State Fault Refusal :=
  .next <| s.request p 0x08 (body1 body) fun k s =>
    if 1 ≤ k ∧ k ≤ 8 then s.readEvents k else s.refuse .badValue

/-- SETTLEMENT_READ (R98). -/
def execSettlementRead (p : Port) (body : List Byte) (s : State) : Host.Outcome State Fault Refusal :=
  .next <| s.request p 0x28 (body1 body) fun k s =>
    if 1 ≤ k ∧ k ≤ 4 then
      s.ok (.settlements s.settlement.records.length s.holdCount s.settlement.next
        ((s.settlement.records.take k).map Settlement.bytes))
    else s.refuse .badValue

/-! ### Faults -/

/-- FAULTS_READ (R153). -/
def execFaultsRead (p : Port) (body : List Byte) (s : State) : Host.Outcome State Fault Refusal :=
  .next <| s.request p 0x38 (body11 body) fun f s =>
    if f.1 ≤ 31 ∧ 1 ≤ f.2 ∧ f.2 ≤ 8 then
      s.ok (.faults s.faults.table.length ((s.faults.table.drop f.1).take f.2))
    else s.refuse .badValue

/-- The entries of the ring from a history number on, up to a count, and the gap flag (R152). -/
def Faults.fromNumber (f : Faults) (h count : Nat) : List ClosedFault × Bool :=
  match f.history with
  | [] => ([], h != f.next)
  | oldest :: _ =>
    let d := (h + 65536 - oldest.number) % 65536
    if d < f.history.length then ((f.history.drop d).take count, false)
    else if d = f.history.length then ([], false)
    else (f.history.take count, true)

/-- HISTORY_READ (R152). -/
def execHistoryRead (p : Port) (body : List Byte) (s : State) : Host.Outcome State Fault Refusal :=
  .next <| s.request p 0x39 (body21 body) fun f s =>
    if 1 ≤ f.2 ∧ f.2 ≤ 6 then
      let r := s.faults.fromNumber f.1 f.2
      s.ok (.history s.faults.history.length (s.faults.history.head?.map fun e => e.number) s.faults.next r.2 r.1)
    else s.refuse .badValue

/-! ### The governor and the waitlist -/

/-- A request as GRANTS_READ reports it (R121). -/
def State.requestReport (s : State) (r : HeatRequest) : RequestReport :=
  ⟨r, (s.govClass r.cls).priority, (s.govClass r.cls).heat⟩

/-- The reply to GRANTS_READ (R121). -/
def State.govReport (s : State) : GovReport :=
  { budget := s.settings.governor.budget, margin := s.settings.governor.margin, motor := s.gov.motor,
    stray := s.gov.stray, heat := s.gov.heat, granted := s.grantedHeat,
    motorActive := (allSlots.filter fun n => (s.slot n).motorActive).length, feedOver := s.gov.feedOver,
    feedRaised := s.gov.feedRaised, stamp := s.gov.stamp, grants := s.gov.grants.map s.requestReport,
    waits := s.gov.waits.map s.requestReport }

/-- GRANTS_READ (R121). -/
def execGrantsRead (p : Port) (body : List Byte) (s : State) : Host.Outcome State Fault Refusal :=
  .next <| s.request p 0x41 (bodyNone body) fun _ s => s.ok (.grants s.govReport)

/-- The reservations of a class, by slot (R170). -/
def State.reservations (s : State) (c : Fin 4) : List (Fin 24 × Reservation) :=
  allSlots.filterMap fun n =>
    if (s.slot n).state = .reserved ∧ s.slotCls n = some c then (s.slot n).reservation.map fun r => (n, r) else none

/-- The reply to WAITLIST_READ (R170). -/
def State.waitReport (s : State) (c : Fin 4) (first : Nat) : WaitReport :=
  { lifetime := s.settings.room.lifetime, window := s.settings.room.window, entries := s.queue c,
    reserved := (s.reservations c).length,
    reservations := ((s.reservations c).filter fun r => first ≤ r.1.val).take 6 }

/-- WAITLIST_READ (R170). -/
def execWaitlistRead (p : Port) (body : List Byte) (s : State) : Host.Outcome State Fault Refusal :=
  .next <| s.request p 0x48 (body11 body) fun f s =>
    match classOf f.1 with
    | some c => if f.2 < 24 then s.ok (.waits (s.waitReport c f.2)) else s.refuse .badValue
    | none => s.refuse .badValue

/-! ### Inputs (R124, R125) -/

/-- An on-demand conversion is asked for; the port waits for its result (R124). -/
def State.askConversion (s : State) (p : Port) (input : Nat) : State :=
  ((s.setActivity p (.sensing input)).modScanner fun c => { c with waiting := c.waiting ++ [(p, input)] }).startNext

/-- SENSE_READ (R125): inputs 27..31 read as 0 without the converter (R122). -/
def execSenseRead (p : Port) (body : List Byte) (s : State) : Host.Outcome State Fault Refusal :=
  .next <| s.take p 0x58 (body1 body) fun k s =>
    if 31 < k then s.answer p 0x58 .badValue
    else if 26 < k then s.answer p 0x58 .ok (.sense (s.senseReport k 0))
    else s.askConversion p k

end Sys2Proof.Machine
end

