-- ==== Sys2Proof/Machine/Configure.lean ====
section
/-!
DEFINITION. The configuration requests (10): classes (R194), prices (R82, R83), slots (R2, R35, R146), terminals (R34), the
governor (R102, R103), sensing (R134), the room (R174, R178, R182) and the clock (R173).
-/

namespace Sys2Proof.Machine

def State.modSettings (s : State) (f : Settings → Settings) : State := { s with settings := f s.settings }

/-! ### Classes and prices -/

/-- The phase a slot of a kind starts with (R1). -/
def Kind.startPhase : Kind → Phase
  | .washer => .none
  | .dryer => .dry

/-- The phase of a slot whose kind is now `k` and was `old`: a slot that changed its kind has the start phase of its new one,
as its old phase is none of the new kind's (R1; log 38). -/
def phaseFor (k : Kind) (old : Option Kind) (phase : Phase) : Phase := if old = some k then phase else k.startPhase

/-- A class changes its kind, and its slots' phases with it (R1). -/
def State.rephase (s : State) (c : Fin 4) (k : Kind) : State :=
  let old := (s.cls c).kind
  overSlots (fun n s =>
    if s.slotCls n = some c then s.modSlot n fun x => { x with phase := phaseFor k (some old) x.phase } else s) s

/-- CLASS_SET (R194). -/
def State.classSet (s : State) (f : Nat × Nat × Nat × Nat) : Answer :=
  match classOf f.1, kindOfCode f.2.1 with
  | some c, some k =>
    if !(1 ≤ f.2.2.1 && f.2.2.1 ≤ 15 && 60 ≤ f.2.2.2 && f.2.2.2 ≤ 600) then s.refuse .badValue
    else if s.classBusy c then s.refuse .wrongState
    else
      let x : ClassCfg := ⟨k, f.2.2.1, f.2.2.2⟩
      (((s.rephase c k).modSettings fun g => { g with classes := g.classes.set c.val x }).write [.cls c x]).ok (.cls x)
  | _, _ => s.refuse .badValue

def execClassSet (p : Port) (body : List Byte) (s : State) : Host.Outcome State Fault Refusal :=
  .next <| s.request p 0x10 (bodyClassSet body) fun f s => s.classSet f

/-- The ranges of a price entry (R80). -/
def PriceEntry.ok (e : PriceEntry) : Bool :=
  e.price ≤ 9999 && 60 ≤ e.planned && e.planned ≤ 10800 && 1 ≤ e.step && e.step ≤ 30 && e.stepPrice ≤ 9999

/-- PRICE_SET, entry form (R82). -/
def State.priceEntrySet (s : State) (c b : Nat) (e : PriceEntry) : Answer :=
  if h : c < 4 ∧ b < 2 then
    if !e.ok then s.refuse .badValue
    else
      let q := { s.settings.prices with entries := s.settings.prices.entries.set (2 * c + b) e (by omega) }
      ((s.modSettings fun g => { g with prices := q }).write [.prices q]).ok (.price e)
  else s.refuse .badValue

/-- PRICE_SET, general form (R83). -/
def State.priceGeneralSet (s : State) (f : Nat × Nat × Nat × Nat) : Answer :=
  if !([1, 5, 10, 25, 50, 100].contains f.1 && f.2.1 ≤ 600 && f.2.2.1 ≤ 1439 && f.2.2.2 ≤ 1439) then s.refuse .badValue
  else
    let q := { s.settings.prices with granularity := f.1, grace := f.2.1, bandStart := f.2.2.1, bandEnd := f.2.2.2 }
    ((s.modSettings fun g => { g with prices := q }).write [.prices q]).ok

/-- The body of a kind with two forms (R188): the fields of the form its first byte names. -/
def twoForms {α β : Type} (zero : List Byte → Except Status α) (one : List Byte → Except Status β) (body : List Byte) :
    Except Status (α ⊕ β) :=
  match bodyForm body with
  | .error status => .error status
  | .ok (false, rest) => (zero rest).map .inl
  | .ok (true, rest) => (one rest).map .inr

/-- PRICE_SET of either form (log 22). -/
def State.priceSet (s : State) (p : Port) (body : List Byte) : State :=
  s.request p 0x11 (twoForms bodyPriceEntry bodyPriceGeneral body) fun f s =>
    match f with
    | .inl e => s.priceEntrySet e.1 e.2.1 e.2.2
    | .inr g => s.priceGeneralSet g

/-- PRICE_SET_ENTRY (R82). -/
def execPriceSetEntry (p : Port) (body : List Byte) (s : State) : Host.Outcome State Fault Refusal :=
  .next (s.priceSet p body)

/-- PRICE_SET_GENERAL (R83). -/
def execPriceSetGeneral (p : Port) (body : List Byte) (s : State) : Host.Outcome State Fault Refusal :=
  .next (s.priceSet p body)

/-! ### Slots and terminals -/

/-- The states in which a slot's configuration may change (R2, R34). -/
def SlotState.settable : SlotState → Bool
  | .unconfigured | .idle | .outOfService => true
  | .reserved | .armed | .locking | .running | .awaitPower | .suspended | .recovering | .finishing | .faulted | .collect =>
    false

/-- A half that is left, or whose slot's class is removed, gets the display NONE (R35). -/
def State.blankHalf (s : State) (t : Fin 16) (h : Half) : State := s.modHalf t h fun e => e.setRoom .blank

/-- The display of the half that a configuration names goes to NONE, unless the new one names it too (R35). -/
def State.leaveHalf (s : State) (old : Option SlotCfg) (new : Option (Fin 16 × Half)) : State :=
  match old with
  | some c => if new = some (c.term, c.half) then s else s.blankHalf c.term c.half
  | none => s

/-- A slot's class is removed (R2, R35, R146): one SLOT_STATE tells both the emptied cause set and UNCONFIGURED (R154; the
model's choice, log 13). Its draw, strike counters and raised flags return to 0 (R130, R131), and the scan in progress, if any, has
the slot no longer: its result is discarded at the scan's end (R123). -/
def State.removeClass (s : State) (n : Fin 24) : State :=
  let old := (s.slot n).cfg
  let s := ((s.latchAll n).modSlot n fun x => { x with cfg := none, causes := .empty, run := 0, phase := .none }).write
    [.slot n none, .causes n none]
  let s := if old.isSome then s.enterTold n .unconfigured else s
  let s := s.modSlot n fun x => { x with sense := .start }
  s.leaveHalf old none

/-- A slot moved onto a half of a LOST terminal gains TERMINAL_LOST; one moved to a terminal that is not LOST loses it
(R35, R141). -/
def State.followTerminal (s : State) (n : Fin 24) (t : Fin 16) : State :=
  if (s.terminal t).presence = .lost then s.raise (some n) .terminalLost
  else if (s.slot n).causes.lost then s.regainSlot n
  else s

/-- A slot on a new half shows there what its state requires (R35). -/
def State.showMoved (s : State) (n : Fin 24) : State := s.showLasting n ((s.stateDisplay n).getD .blank)

/-- A class and a half given to a slot (R2, R35), in one reckoning (R104, R106). A slot that enters IDLE, or is IDLE and changes its
class, is offered first; TERMINAL_LOST of a LOST terminal's half is raised after that (the model's choice, log 23). A move to another class keeps the slot's
strike counters (the model's choice, log 37), and takes effect for the sense scanner at the next scan (R123). -/
def State.assignClass (s : State) (n : Fin 24) (c : SlotCfg) : State :=
  let old := (s.slot n).cfg
  let kind := (s.cls c.cls).kind
  let was := old.map fun o => (s.cls o.cls).kind
  let s := s.modSlot n fun x => { x with cfg := some c, phase := phaseFor kind was x.phase }
  let s := (s.leaveHalf old (some (c.term, c.half))).write [.slot n (some c)]
  let s : State :=
    match old with
    | none => (s.enterIdle n).followTerminal n c.term
    | some o =>
      let moved : Bool := !(o.term == c.term && o.half == c.half)
      let s := if moved then s.showMoved n else s
      let s := if o.cls ≠ c.cls ∧ (s.slot n).state = .idle then s.offer n else s
      if moved then s.followTerminal n c.term else s
  s.reckon false false false

/-- The tests of a half for a slot (R35). -/
def State.halfRefused (s : State) (n : Fin 24) (t : Fin 16) (h : Half) : Option Status :=
  if h = .b ∧ (s.terminal t).mode = .single then some .wrongState
  else match s.slotAt t h with
    | some m => if m = n then none else some .badValue
    | none => none

/-- SLOT_SET (R2, R35): slot and class, then the slot's state, then the half (log 23). -/
def State.slotSet (s : State) (f : Nat × Nat × Nat × Nat) : Answer :=
  match slotOf f.1 with
  | none => s.refuse .badValue
  | some n =>
    if f.2.1 = 0xFF then
      if (s.slot n).state.settable then (s.removeClass n).ok else s.refuse .wrongState
    else match classOf f.2.1 with
      | none => s.refuse .badValue
      | some c =>
        if !(s.slot n).state.settable then s.refuse .wrongState
        else match terminalOf f.2.2.1, halfOf f.2.2.2 with
          | some t, some h =>
            match s.halfRefused n t h with
            | some status => s.refuse status
            | none => (s.assignClass n ⟨c, t, h⟩).ok
          | _, _ => s.refuse .badValue

def execSlotSet (p : Port) (body : List Byte) (s : State) : Host.Outcome State Fault Refusal :=
  .next <| s.request p 0x12 (body1111 body) fun f s => s.slotSet f

/-- TERMINAL_SET (R34). -/
def State.terminalSet (s : State) (t : Fin 16) (m : TermMode) : Answer :=
  if (s.terminal t).mode = m then s.ok
  else if (s.slotsOn t).any fun n => !(s.slot n).state.settable then s.refuse .wrongState
  else if m = .single ∧ (s.slotAt t .b).isSome then s.refuse .wrongState
  else ((s.modTerminal t fun x => { x with mode := m }).write [.terminal t m]).ok

def execTerminalSet (p : Port) (body : List Byte) (s : State) : Host.Outcome State Fault Refusal :=
  .next <| s.request p 0x13 (body11 body) fun f s =>
    match terminalOf f.1, termModeOf f.2 with
    | some t, some m => s.terminalSet t m
    | _, _ => s.refuse .badValue

/-! ### The governor -/

/-- GOVERNOR_SET, general form (R102). -/
def State.governorGeneralSet (s : State) (f : Nat × Nat) : Answer :=
  if !(budgetOk f.1 && f.2 ≤ 2000) then s.refuse .badValue
  else
    let lowered : Bool := f.2 < s.settings.governor.margin
    let g := { s.settings.governor with budget := f.1, margin := f.2 }
    (((s.modSettings fun x => { x with governor := g }).write [.governor g]).reckon false false lowered).ok

/-- The ranges of a class's governor settings (R102). -/
def GovClass.ok (g : GovClass) : Bool := 50 ≤ g.motor && g.motor ≤ 3000 && g.heat ≤ 12000 && g.priority ≤ 3

/-- The strike counters of a slot return to 0 (R131). -/
def State.restrike (s : State) (n : Fin 24) : State := s.modSense n SlotSense.resetStrikes

/-- The draws of a class differ (R102): its priority is none. -/
def GovClass.drawsDiffer (a b : GovClass) : Bool := a.motor != b.motor || a.heat != b.heat

/-- GOVERNOR_SET, class form (R102); a change of the class draws returns its slots' strike counters to 0 (R131). -/
def State.governorClassSet (s : State) (f : Nat × GovClass) : Answer :=
  match classOf f.1 with
  | none => s.refuse .badValue
  | some c =>
    if !f.2.ok then s.refuse .badValue
    else if s.classActive c then s.refuse .wrongState
    else
      let changed := (s.govClass c).drawsDiffer f.2
      let g := { s.settings.governor with classes := s.settings.governor.classes.set c.val f.2 }
      let s := (s.modSettings fun x => { x with governor := g }).write [.governor g]
      (if changed then overSlots (fun n s => if s.slotCls n = some c then s.restrike n else s) s else s).ok

/-- GOVERNOR_SET of either form (log 22). -/
def State.governorSet (s : State) (p : Port) (body : List Byte) : State :=
  s.request p 0x14 (twoForms bodyGovernorGeneral bodyGovernorClass body) fun f s =>
    match f with
    | .inl g => s.governorGeneralSet g
    | .inr c => s.governorClassSet c

/-- GOVERNOR_SET_GENERAL (R102). -/
def execGovernorSetGeneral (p : Port) (body : List Byte) (s : State) : Host.Outcome State Fault Refusal :=
  .next (s.governorSet p body)

/-- GOVERNOR_SET_CLASS (R102). -/
def execGovernorSetClass (p : Port) (body : List Byte) (s : State) : Host.Outcome State Fault Refusal :=
  .next (s.governorSet p body)

/-- BUDGET_SET (R103). -/
def execBudgetSet (p : Port) (body : List Byte) (s : State) : Host.Outcome State Fault Refusal :=
  .next <| s.request p 0x40 (body3 body) fun w s =>
    if budgetOk w then
      let s := s.setBudget w
      s.ok (.budget w s.gov.heat)
    else s.refuse .badValue

/-! ### Sensing (R134) -/

/-- SENSE_SET, input form. -/
def State.senseInputSet (s : State) (f : Nat × Calibration) : Answer :=
  if h : f.1 < 25 then
    if 4095 < f.2.zero then s.refuse .badValue
    else if (slotOf f.1).any fun n => (s.slot n).state.busy then s.refuse .wrongState
    else
      let c := { s.settings.sense with inputs := s.settings.sense.inputs.set f.1 f.2 }
      let s := (s.modSettings fun x => { x with sense := c }).write [.sense c]
      (match slotOf f.1 with
        | some n => s.restrike n
        | none => s).ok
  else s.refuse .badValue

/-- SENSE_SET, general form. -/
def State.senseGeneralSet (s : State) (v : Nat) : Answer :=
  if !(100 ≤ v && v ≤ 260) then s.refuse .badValue
  else if allSlots.any fun n => (s.slot n).state.busy then s.refuse .wrongState
  else
    let c := { s.settings.sense with volts := v }
    (overSlots (fun n s => s.restrike n) ((s.modSettings fun x => { x with sense := c }).write [.sense c])).ok

/-- SENSE_SET of either form (log 22). -/
def State.senseSet (s : State) (p : Port) (body : List Byte) : State :=
  s.request p 0x15 (twoForms bodySenseInput body2 body) fun f s =>
    match f with
    | .inl i => s.senseInputSet i
    | .inr v => s.senseGeneralSet v

/-- SENSE_SET_INPUT (R134). -/
def execSenseSetInput (p : Port) (body : List Byte) (s : State) : Host.Outcome State Fault Refusal :=
  .next (s.senseSet p body)

/-- SENSE_SET_GENERAL (R134). -/
def execSenseSetGeneral (p : Port) (body : List Byte) (s : State) : Host.Outcome State Fault Refusal :=
  .next (s.senseSet p body)

/-! ### The room and its clock -/

/-- ROOM_SET (R174): the six settings, the schedule evaluated at the event. -/
def State.roomSet (s : State) (f : Nat × Nat × Nat × Nat × Nat × Nat) : Answer :=
  let (o, c, limit, collect, lifetime, window) := f
  if !(o ≤ 1439 && c ≤ 1439 && 5 ≤ limit && limit ≤ 120 && 1 ≤ collect && collect ≤ 60 && 10 ≤ lifetime &&
      lifetime ≤ 480 && 1 ≤ window && window ≤ 30) then s.refuse .badValue
  else
    let r : RoomCfg := ⟨o, c, limit, collect, lifetime, window, s.settings.room.mode⟩
    (((s.modSettings fun x => { x with room := r }).write [.room r]).followMode .settings).ok

def execRoomSet (p : Port) (body : List Byte) (s : State) : Host.Outcome State Fault Refusal :=
  .next <| s.request p 0x16 (bodyRoomSet body) fun f s => s.roomSet f

/-- TIME_SET (R173). -/
def execTimeSet (p : Port) (body : List Byte) (s : State) : Host.Outcome State Fault Refusal :=
  .next <| s.request p 0x17 (body23 body) fun f s =>
    if clockOk f.1 f.2 then
      let s := s.setClock f.1 f.2
      s.ok (.clock s.clock)
    else s.refuse .badValue

/-- ROOM_MODE (R178). The OK to the mode already in force carries the mode and the room state too (the model's choice, log 43). -/
def State.roomMode (s : State) (m : Mode) : Answer :=
  if s.settings.room.mode = m then s.ok (.roomMode m s.room.state)
  else
    let r := { s.settings.room with mode := m }
    let s := ((s.modSettings fun x => { x with room := r }).write [.room r]).followMode .mode
    s.ok (.roomMode m s.room.state)

def execRoomMode (p : Port) (body : List Byte) (s : State) : Host.Outcome State Fault Refusal :=
  .next <| s.request p 0x50 (body1 body) fun k s =>
    match modeOf k with
    | some m => s.roomMode m
    | none => s.refuse .badValue

/-- ROOM_RESUME (R182): the reply carries the room state entered and the number of slots resumed. The state is the mode state,
also where a cycle end at the same event takes the room from CLOSING to CLOSED, and the number is that of the slots SUSPENDED at
the request, a washer that is DONE and ends among them (both the model's choice, log 41). -/
def execRoomResume (p : Port) (body : List Byte) (s : State) : Host.Outcome State Fault Refusal :=
  .next <| s.request p 0x51 (bodyNone body) fun _ s =>
    if s.room.state = .held then s.resumeRoom.ok (.resumed s.modeState s.suspendedSlots.length)
    else s.refuse .wrongState

/-- RESTART (R196): answered OK; the start-up follows at the end of the reply. -/
def execRestart (p : Port) (body : List Byte) (s : State) : Host.Outcome State Fault Refusal :=
  .next <| s.request p 0x60 (bodyNone body) fun _ s => { s with restart := s.restart.take p }.ok

end Sys2Proof.Machine
end

