-- ==== Sys2Proof/Machine/Service.lean ====
section
/-!
DEFINITION. The requests that act on accounts (R65 to R70), the settlement queue (R99), slots (R24, R155, R156, R193), faults
(R147 to R149) and the waitlist (R171).
-/

namespace Sys2Proof.Machine

/-! ### Accounts -/

def indexOk (i : Nat) : Bool := i < 512

/-- An account record written, and its write to the store begun (R71, R204). -/
def State.putAccount (s : State) (i : Nat) (a : Account) : State := (s.setAccount i a).write [.account i a]

/-- A card id held by a record at another index that is not FREE (R65). -/
def State.cardElsewhere (s : State) (card i : Nat) : Bool :=
  match s.findCard card with
  | some j => j != i
  | none => false

/-- The effects of R70 on a card id; a record without one has none. -/
def State.cardLost (s : State) (card : Nat) : State := if card = 0 then s else s.losePlaces card

/-- A record's reply: the record and its available balance. -/
def State.accountReply (s : State) (i : Nat) : Answer := s.ok (.account (s.account i) (s.account i).available)

/-- What ACCOUNT_PUT makes of a record (R65). -/
def Account.replaced (a : Account) (day card : Nat) (st : AccountState) (balance cap : Nat) : Account :=
  match a.state with
  | .free | .suspect => ⟨card, st, balance, 0, cap, 0, day⟩
  | .active | .blocked => { a with card := card, state := st, balance := balance, cap := cap }

/-- The card id of a record that ACCOUNT_PUT takes from it or blocks (R65, R70), 0 for none. -/
def Account.cardTaken (a : Account) (card : Nat) (st : AccountState) : Nat :=
  match a.state with
  | .free | .suspect => 0
  | .active => if a.card ≠ card ∨ st = .blocked then a.card else 0
  | .blocked => if a.card ≠ card then a.card else 0

/-- ACCOUNT_PUT (R65). -/
def State.accountPut (s : State) (f : Nat × Nat × Nat × Nat × Nat) : Answer :=
  let (i, card, code, balance, cap) := f
  match indexOk i, accountStateOf code with
  | true, some st =>
    if card = 0 || 999999 < balance || 99999 < cap then s.refuse .badValue
    else if s.cardElsewhere card i then s.refuse .badValue
    else if balance < (s.account i).held then s.refuse .limit
    else
      let a := s.account i
      ((s.putAccount i (a.replaced s.clock.day card st balance cap)).cardLost (a.cardTaken card st)).accountReply i
  | _, _ => s.refuse .badValue

def execAccountPut (p : Port) (body : List Byte) (s : State) : Host.Outcome State Fault Refusal :=
  .next <| s.request p 0x20 (bodyAccountPut body) fun f s => s.accountPut f

/-- The record at an index that ACCOUNT_CREDIT and ACCOUNT_STATE may act on: FREE is NOT_FOUND, SUSPECT WRONG_STATE (R66,
R67). -/
def State.usable (s : State) (i : Nat) : Except Status Account :=
  match (s.account i).state with
  | .free => .error .notFound
  | .suspect => .error .wrongState
  | .active | .blocked => .ok (s.account i)

/-- ACCOUNT_CREDIT (R66). -/
def State.accountCredit (s : State) (i amount : Nat) : Answer :=
  if !(indexOk i && 1 ≤ amount && amount ≤ 999999) then s.refuse .badValue
  else match s.usable i with
    | .error status => s.refuse status
    | .ok a =>
      if 999999 < a.balance + amount then s.refuse .limit
      else
        let a := { a with balance := a.balance + amount }
        (s.putAccount i a).ok (.credit a.balance a.available)

def execAccountCredit (p : Port) (body : List Byte) (s : State) : Host.Outcome State Fault Refusal :=
  .next <| s.request p 0x21 (body23 body) fun f s => s.accountCredit f.1 f.2

/-- ACCOUNT_STATE (R67). -/
def State.accountState (s : State) (i code : Nat) : Answer :=
  match indexOk i, accountStateOf code with
  | true, some st =>
    match s.usable i with
    | .error status => s.refuse status
    | .ok a =>
      if a.state = st then s.ok
      else
        let t := s.putAccount i { a with state := st }
        (if st = .blocked then t.cardLost a.card else t).ok
  | _, _ => s.refuse .badValue

def execAccountState (p : Port) (body : List Byte) (s : State) : Host.Outcome State Fault Refusal :=
  .next <| s.request p 0x22 (body21 body) fun f s => s.accountState f.1 f.2

/-- ACCOUNT_REMOVE (R68). -/
def State.accountRemove (s : State) (i : Nat) : Answer :=
  let a := s.account i
  if !indexOk i then s.refuse .badValue
  else if a.state = .free then s.refuse .notFound
  else if 0 < a.held then s.refuse .wrongState
  else ((s.putAccount i .free).cardLost a.card).ok

def execAccountRemove (p : Port) (body : List Byte) (s : State) : Host.Outcome State Fault Refusal :=
  .next <| s.request p 0x23 (body2 body) fun i s => s.accountRemove i

/-- ACCOUNT_READ (R69): the daily rollover first, for a record that is not FREE. -/
def State.accountRead (s : State) (i : Nat) : Answer :=
  if !indexOk i then s.refuse .badValue
  else (if (s.account i).state = .free then s else s.rollAccount i).accountReply i

def execAccountRead (p : Port) (body : List Byte) (s : State) : Host.Outcome State Fault Refusal :=
  .next <| s.request p 0x24 (body2 body) fun i s => s.accountRead i

/-! ### The settlement queue -/

/-- The queue without its `k` oldest records (R99, R204). -/
def SettlementQueue.released (q : SettlementQueue) (k : Nat) : SettlementQueue :=
  { q with records := q.records.drop k, oldest := (q.oldest + k) % 64 }

/-- SETTLEMENT_RELEASE (R99): the erased places and the new header are one change. -/
def State.settlementRelease (s : State) (number : Nat) : Answer :=
  let q := s.settlement
  match q.records.findIdx? fun r => r.number == number with
  | none => ⟨s, .notFound, .notReleased q.records.length (q.records.head?.map fun r => r.number)⟩
  | some k =>
    let left := q.released (k + 1)
    let erased : List StoreWrite := (List.range (k + 1)).map fun j => StoreWrite.place (q.place j) none
    let s := { s with settlement := left }.write (erased ++ [StoreWrite.header left.header])
    s.ok
      (.released (k + 1) left.records.length (left.records.head?.map fun r => r.number))

def execSettlementRelease (p : Port) (body : List Byte) (s : State) : Host.Outcome State Fault Refusal :=
  .next <| s.request p 0x29 (body4 body) fun number s => s.settlementRelease number

/-! ### Slots -/

/-- The reply of SLOT_SERVICE: the slot's state and cause set (R155, R156). -/
def State.causesReply (s : State) (n : Fin 24) : Answer := s.ok (.slotCauses (s.slot n).state (s.slot n).causes)

/-- SLOT_SERVICE with take (R155). -/
def State.serviceTake (s : State) (p : Port) (n : Fin 24) (force : Bool) : Answer :=
  let x := s.slot n
  if x.state = .unconfigured then s.refuse .wrongState
  else if x.state.busy && !force then s.refuse .wrongState
  else if x.causes.has (portCause p) then s.causesReply n
  else
    let s := if x.state.busy then s.cycleEnd n .abandoned none .faulted else s
    (s.joinCause n (portCause p)).causesReply n

/-- SLOT_SERVICE with return (R156). -/
def State.serviceReturn (s : State) (p : Port) (n : Fin 24) : Answer :=
  if (s.slot n).state = .unconfigured then s.refuse .wrongState
  else (s.removeCause n (portCause p)).causesReply n

/-- SLOT_SERVICE of either action (log 22). -/
def State.slotService (s : State) (p : Port) (body : List Byte) : State :=
  s.request p 0x30 (body111 body) fun f s =>
    match slotOf f.1, flagOf f.2.1, flagOf f.2.2 with
    | some n, some false, some force => s.serviceTake p n force
    | some n, some true, some _ => s.serviceReturn p n
    | _, _, _ => s.refuse .badValue

/-- SLOT_SERVICE_TAKE (R155). -/
def execSlotServiceTake (p : Port) (body : List Byte) (s : State) : Host.Outcome State Fault Refusal :=
  .next (s.slotService p body)

/-- SLOT_SERVICE_RETURN (R156). -/
def execSlotServiceReturn (p : Port) (body : List Byte) (s : State) : Host.Outcome State Fault Refusal :=
  .next (s.slotService p body)

/-- SLOT_STOP (R24, R193): the reply carries the new state and the settlement record's number. -/
def State.slotStop (s : State) (n : Fin 24) : Answer :=
  if (s.slot n).state.busy then
    let number := s.settlement.next
    let s := s.cycleEnd n .abandoned none .faulted
    s.ok (.stopped (s.slot n).state number)
  else s.refuse .wrongState

def execSlotStop (p : Port) (body : List Byte) (s : State) : Host.Outcome State Fault Refusal :=
  .next <| s.request p 0x31 (body1 body) fun k s =>
    match slotOf k with
    | some n => s.slotStop n
    | none => s.refuse .badValue

/-! ### Faults -/

/-- The cause set as it stands after R148's test. -/
def State.causesAfter (s : State) (n : Fin 24) : Causes :=
  if s.lockoutLoose n then (s.slot n).causes.set .lockout false else (s.slot n).causes

/-- The end of a taken FAULT_CLEAR (R147, R148): FAULT_CLEARED, the test of the slot's cause set, and the reply. -/
def State.clearTaken (s : State) (p : Port) (source : Option (Fin 24)) (code : FaultCode) (e : Option FaultEntry) :
    Answer :=
  let s := s.post (.faultCleared source code p (source.map s.causesAfter))
  match source with
  | some n =>
    let s := s.releaseLockout n
    s.ok (.cleared e (some ((s.slot n).state, (s.slot n).causes)))
  | none => s.ok (.cleared e none)

/-- FAULT_CLEAR (R147 to R149). -/
def State.faultClear (s : State) (p : Port) (source : Option (Fin 24)) (code : FaultCode) : Answer :=
  match s.faults.find source code with
  | none =>
    if p = .service ∧ source.any s.lockoutLoose then s.clearTaken p source code none else s.refuse .notFound
  | some e =>
    if e.condition = .active then s.refuse .stillActive
    else if e.severity = .lockout ∧ p = .building then s.refuse .notPermitted
    else
      let f := (s.faults.remove source code).close e (.cleared p) s.clock
      { s with faults := f }.clearTaken p source code (some e)

def execFaultClear (p : Port) (body : List Byte) (s : State) : Host.Outcome State Fault Refusal :=
  .next <| s.request p 0x3A (body11 body) fun f s =>
    match sourceOf f.1, faultCodeOf f.2 with
    | some source, some code => s.faultClear p source code
    | _, _ => s.refuse .badValue

/-! ### The waitlist -/

/-- WAITLIST_REMOVE (R171). -/
def State.waitlistRemove (s : State) (c : Fin 4) (card : Nat) : Answer :=
  match positionOf card (s.queue c) with
  | some k =>
    let s := s.setQueue c (withoutCard card (s.queue c))
    s.ok (.removedEntry k (s.queue c).length)
  | none =>
    match s.reservedFor c card with
    | some n =>
      let s := s.handOn n
      s.ok (.removedReservation n (s.queue c).length)
    | none => s.refuse .notFound

def execWaitlistRemove (p : Port) (body : List Byte) (s : State) : Host.Outcome State Fault Refusal :=
  .next <| s.request p 0x49 (body14 body) fun f s =>
    match classOf f.1 with
    | some c => if f.2 = 0 then s.refuse .badValue else s.waitlistRemove c f.2
    | none => s.refuse .badValue

end Sys2Proof.Machine
end

