-- ==== Sys2Proof/Machine/StartUp.lean ====
section
/-!
DEFINITION. Start-up (11): the strap reading (R135, R136), the store check and its repairs (R205, R206), the settlement queue
rebuilt (R207), the holds judged (R208), the start states (R157, R209), the room (R183) and the displays (R52, R53); and the
power loss (R204).
-/

namespace Sys2Proof.Machine

/-! ### The store check (R205) -/

/-- A record that was written; an unwritten one cannot fail its check (R204; an erased hold, settlement place or stored-cause
record reads as unwritten, the model's choice, log 11). -/
def Store.written (d : Store) (r : RecordId) : Bool :=
  match r.group with
  | 0 => (Accounts.find d.accounts r.number).isSome
  | 1 => (slotOf r.number).any fun n => d.holds[n.val].isSome
  | 2 => if h : r.number < 64 then d.places[r.number].isSome else false
  | 3 => d.header.isSome
  | 4 => (classOf r.number).any fun c => d.classes[c.val].isSome
  | 5 => d.prices.isSome
  | 6 => (slotOf r.number).any fun n => d.slots[n.val].isSome
  | 7 => (terminalOf r.number).any fun t => d.terminals[t.val].isSome
  | 8 => d.governor.isSome
  | 9 => d.sense.isSome
  | 10 => d.room.isSome
  | 11 => (slotOf r.number).any fun n => d.causes[n.val].isSome
  | _ => false

/-- The groups in the order of the check (R205). -/
def checkGroups : List Nat := [4, 5, 6, 7, 8, 9, 10, 11, 0, 1, 2, 3]

/-- The failed records of one group in ascending number. -/
def failedIn (failed : List RecordId) (g : Nat) : List RecordId :=
  let f := failed.filter fun r => r.group == g
  if f.isEmpty then []
  else ((List.range (recordsInGroup g)).filter fun k => f.any fun r => r.number == k).map fun k => ⟨g, k⟩

/-- The records that fail their check, in the order of the check (R205). -/
def Store.failures (d : Store) (failed : List RecordId) : List RecordId :=
  checkGroups.flatMap fun g => (failedIn failed g).filter d.written

/-- The numbers of the failed records of one group. -/
def failedNumbers (bad : List RecordId) (g : Nat) : List Nat :=
  (bad.filter fun r => r.group == g).map fun r => r.number

/-- A failed record is raised as STORE_INTEGRITY, with no FAULT_RAISED event, and told by STORE_SUSPECT (R157, R205). -/
def State.suspectRecord (s : State) (r : RecordId) : State :=
  let f := (s.faults.enter none .storeIntegrity none s.clock).1.latch none .storeIntegrity
  { s with faults := f }.post (.storeSuspect r.group r.number)

/-! ### The repairs (R206) -/

/-- Set the places of a vector whose numbers are listed. -/
def repairAt {α : Type} {k : Nat} (v : Vector α k) (numbers : List Nat) (f : Nat → α) : Vector α k :=
  Vector.ofFn fun i => if numbers.contains i.val then f i.val else v[i]

/-- A slot configuration that passed its check names a terminal's half B (R206). -/
def Store.namesHalfB (d : Store) (badSlots : List Nat) (t : Nat) : Bool :=
  allSlots.any fun n => !badSlots.contains n.val && (match d.slots[n.val] with
    | some (some c) => c.term.val == t && c.half == .b
    | _ => false)

/-- The repairs of every failed record outside groups 2 and 3 (R206). -/
def Store.repaired (d : Store) (bad : List RecordId) : Store :=
  let badSlots := failedNumbers bad 6
  let failed := fun g => !(failedNumbers bad g).isEmpty
  { d with
    accounts := (failedNumbers bad 0).foldl (fun t i => Accounts.put t i .suspect) d.accounts,
    holds := repairAt d.holds (failedNumbers bad 1) fun _ => none,
    classes := repairAt d.classes (failedNumbers bad 4) fun _ => some .default,
    prices := if failed 5 then some .default else d.prices,
    slots := repairAt d.slots badSlots fun _ => some none,
    terminals := repairAt d.terminals (failedNumbers bad 7) fun t =>
      some (if d.namesHalfB badSlots t then .paired else .single),
    governor := if failed 8 then some .default else d.governor,
    sense := if failed 9 then some .default else d.sense,
    room := if failed 10 then some .default else d.room,
    causes := repairAt d.causes (failedNumbers bad 11) fun _ => some { Causes.empty with lockout := true } }

/-! ### The settlement queue rebuilt (R207) -/

/-- A STORE_LOSS record (R97). -/
def Settlement.lost (number : Nat) : Settlement :=
  { number := number % 2 ^ 32, account := 0, card := 0, slot := 0, cls := 0, band := 0, held := 0, charge := 0,
    reason := .storeLoss, run := 0, paid := 0, steps := none, fault := none, errorCode := none, ended := .start }

/-- The distance from one number up to another, modulo 2^32. -/
def upTo (a b : Nat) : Nat := (b + 2 ^ 32 - a % 2 ^ 32) % 2 ^ 32

/-- A run of places, each lost one filled with a STORE_LOSS record numbered one above the record before it; `number` is
what a lost place takes (R207). -/
def fillRun : Nat → List (Option Settlement) → List Settlement
  | _, [] => []
  | _, some r :: rest => r :: fillRun (r.number + 1) rest
  | number, none :: rest => .lost number :: fillRun (number + 1) rest

/-- The number of the run's oldest place: counted back from the first record that stands, or, with none, from the next
settlement number (R207). -/
def runStart (next : Nat) (run : List (Option Settlement)) : Nat :=
  match run.findIdx? Option.isSome with
  | some j => upTo j ((run[j]?.bind id).elim 0 fun r => r.number)
  | none => upTo run.length next

/-- The places of the store as the check leaves them: a failed one holds no record. -/
def Store.goodPlace (d : Store) (badPlaces : List Nat) (k : Nat) : Option Settlement :=
  if badPlaces.contains (k % 64) then none else d.places[k % 64]'(Nat.mod_lt _ (by decide))

/-- The queue that a good header names (R207). -/
def Store.headedQueue (d : Store) (badPlaces : List Nat) (h : Header) : SettlementQueue :=
  let run := (List.range h.count).map fun j => d.goodPlace badPlaces (h.oldest + j)
  ⟨fillRun (runStart h.next run) run, h.oldest, h.next⟩

/-- Insert by number. -/
def insertRecord (x : Nat × Settlement) : List (Nat × Settlement) → List (Nat × Settlement)
  | [] => [x]
  | y :: rest => if x.2.number ≤ y.2.number then x :: y :: rest else y :: insertRecord x rest

/-- The records of the good places with their places, in ascending number. -/
def Store.goodRecords (d : Store) (badPlaces : List Nat) : List (Nat × Settlement) :=
  ((List.range 64).filterMap fun k => (d.goodPlace badPlaces k).map fun r => (k, r)).foldr insertRecord []

/-- Of records in ascending number, with the number before the first, the widest gap and the place in the list it ends at;
the first of several that are widest (log 28). -/
def widestGap : Nat → List (Nat × Settlement) → Nat × Nat
  | _, [] => (0, 0)
  | before, x :: rest =>
    let gap := if rest.isEmpty && before == x.2.number then 2 ^ 32 else upTo before x.2.number
    let r := widestGap x.2.number rest
    if r.1 ≤ gap then (gap, 0) else (r.1, r.2 + 1)

/-- Records in order with STORE_LOSS records for the numbers missing between them (R207). -/
def fillGaps : List (Nat × Settlement) → List Settlement
  | [] => []
  | [x] => [x.2]
  | x :: y :: rest =>
    x.2 :: ((List.range (upTo (x.2.number + 1) y.2.number)).map fun j => .lost (x.2.number + 1 + j)) ++
      fillGaps (y :: rest)

/-- The queue rebuilt without a header: the numbers in order from after the widest gap (R207). With no place that passes the
oldest place is 0 (the model's choice, log 42). -/
def Store.unheadedQueue (d : Store) (badPlaces : List Nat) : SettlementQueue :=
  let rs := d.goodRecords badPlaces
  let k := (widestGap ((rs.getLast?.elim 0 fun x => x.2.number)) rs).2
  let ordered := rs.drop k ++ rs.take k
  ⟨fillGaps ordered, ordered.head?.elim 0 fun x => x.1, ordered.getLast?.elim 0 fun x => (x.2.number + 1) % 2 ^ 32⟩

/-- The rebuilt queue: by the header where it passes its check, else without it. A header never written names an empty
queue (R94, R204). -/
def Store.rebuiltQueue (d : Store) (bad : List RecordId) : SettlementQueue :=
  let badPlaces := failedNumbers bad 2
  match d.header with
  | none => ⟨[], 0, 0⟩
  | some h => if (failedNumbers bad 3).isEmpty then d.headedQueue badPlaces h else d.unheadedQueue badPlaces

/-- The places and header of the store as the rebuilt queue has them: places outside the run are erased, and the header is
written afresh (R207); one that was never written stays unwritten (the model's choice, log 42). -/
def Store.withQueue (d : Store) (q : SettlementQueue) : Store :=
  { d with places := Vector.ofFn fun k : Fin 64 => q.records[(k.val + 64 - q.oldest % 64) % 64]?,
           header := if d.header.isSome then some q.header else none }

/-! ### The holds judged (R208) -/

/-- A hold that names a FREE or SUSPECT account, or stands on an UNCONFIGURED slot, is dropped (R208). -/
def Store.dropsHold (d : Store) (n : Fin 24) (h : Hold) : Bool :=
  let st := (Accounts.read d.accounts h.account).state
  st == .free || st == .suspect || (d.slots[n.val].getD none).isNone

/-- The slots whose holds are dropped. -/
def Store.droppedHolds (d : Store) : List (Fin 24) := allSlots.filter fun n => d.holds[n.val].any (d.dropsHold n)

/-- The sum of the amounts of the holds that name an account (R64). -/
def Store.heldFor (d : Store) (i : Nat) : Nat :=
  (allSlots.map fun n => d.holds[n.val].elim 0 fun h => if h.account = i then h.amount else 0).sum

/-- The dropped holds erased, and each account's held amount recomputed (R208). -/
def Store.judged (d : Store) : Store :=
  let dropped := d.droppedHolds.map fun n => n.val
  let d := { d with holds := repairAt d.holds dropped fun _ => none }
  { d with accounts := d.accounts.map fun e => (e.1, { e.2 with held := d.heldFor e.1 }) }

/-! ### Stages 2 to 4 -/

/-- The configuration that the store holds, defaults where it is unwritten (R204). -/
def Store.settings (d : Store) : Settings :=
  { classes := d.classes.map fun c => c.getD .default, prices := d.prices.getD .default,
    governor := d.governor.getD .default, sense := d.sense.getD .default, room := d.room.getD .default }

/-- The stored cause members of a slot, erased where its class is none (R209). -/
def Store.startCauses (d : Store) (n : Fin 24) : Option Causes :=
  if (d.slots[n.val].getD none).isSome then d.causes[n.val] else none

/-- A slot's start state (R209). -/
def startState (cfg : Option SlotCfg) (hold : Option Hold) (causes : Causes) : SlotState :=
  if cfg.isNone then .unconfigured
  else if hold.isSome then .recovering
  else if causes.isEmpty then .idle
  else .outOfService

/-- The phase a slot starts with: its kind's (R1); NONE with no class. -/
def Settings.startPhase (g : Settings) (cfg : Option SlotCfg) : Phase :=
  match cfg with
  | some c => (g.classes[c.cls.val]).kind.startPhase
  | none => .none

/-- A slot at the end of stage 4 (R1, R209). -/
def State.startSlot (s : State) (n : Fin 24) : Slot :=
  let cfg := s.store.slots[n.val].getD none
  let hold := s.store.holds[n.val]
  let causes := (s.store.causes[n.val]).getD .empty
  let st := startState cfg hold causes
  { Slot.start with
    cfg := cfg, state := st, causes := causes, run := hold.elim 0 fun h => h.storedRun,
    phase := s.settings.startPhase cfg, timer := (s.stateSeconds st).map (s.elapsed + ·), outputs := outputsOf st false }

/-- The RESTORED_LOCKOUT entry of a slot (R157). -/
def State.restoredLockout (s : State) (n : Fin 24) : FaultEntry :=
  ⟨some n, .restoredLockout, none, s.clock, s.clock, 1, .latched, .lockout⟩

/-- Stage 2: the store is checked, repaired and judged, and read back. -/
def State.checkStore (s : State) (failed : List RecordId) : State :=
  let bad := s.store.failures failed
  let s := bad.foldl State.suspectRecord s
  let q := s.store.rebuiltQueue bad
  let d := (s.store.repaired bad).withQueue q
  let dropped := d.droppedHolds
  let d := d.judged
  let s := dropped.foldl (fun s n => s.post (.storeSuspect 1 n.val)) s
  { s with store := d, settings := d.settings, settlement := q, holds := d.holds,
           accounts := d.accounts.filter fun e => decide (e.2 ≠ .free) }

/-- Stage 3: the cause members of unconfigured slots are erased, and the RESTORED_LOCKOUT entries made (R157, R209). -/
def State.eraseCauses (s : State) : State :=
  let d := { s.store with causes := Vector.ofFn fun n => s.store.startCauses n }
  let locked := allSlots.filter fun n => (d.causes[n.val]).any fun c => c.lockout
  { s with store := d, faults := { s.faults with table := s.faults.table ++ locked.map s.restoredLockout } }

/-- Stage 4: every slot takes its start state, and the motor allowance counts the RECOVERING ones (R104, R209). -/
def State.startSlots (s : State) : State :=
  let s := { s with slots := Vector.ofFn fun n => s.startSlot n }
  let s := { s with gov := { Governor.start 0 with motor := s.motorSum } }
  s.modGov fun g => { g with heat := s.heatBudget }

/-- The lasting display of a half at start-up (R52). -/
def State.startDisplay (s : State) (t : Fin 16) (h : Half) : Display :=
  match s.room.state.display with
  | some d => d
  | none => s.openDisplay t h

/-- The room takes its start state (R183), and the terminals and the bus theirs (R33, R36, R52, R53). -/
def State.startRoom (s : State) (interlock : Bool) : State :=
  let st := s.modeState
  let s := { s with room := ⟨st, false, .idle⟩ }
  let s := { s with
    terminals := Vector.ofFn fun t =>
      .start ((s.store.terminals[t]).getD .single) (s.startDisplay t .a) (s.startDisplay t .b),
    bus := .start st.display.isSome }
  let s := s.post (.roomState st st s.settings.room.mode false .startUp)
  if interlock then { s with room := { s.room with interlock := true } }.suspend else s

/-- The stages that follow the strap reading (R205 to R209). -/
def State.startStages (s : State) (i : StartInput) : State :=
  let s := (s.checkStore i.failed).eraseCauses.startSlots
  { s.startRoom i.interlock with life := .running }

/-! ### The strap (R135, R136) -/

/-- The `k`th reading of the strap: a marginal one is read again, up to four readings in all. -/
def State.readStrap (s : State) (k : Nat) (i : StartInput) : State :=
  if strapIsMarginal i.count && decide (k < 4) then { s with life := .strap k }
  else { s with unit := strapAddress i.count, strapMarginal := strapIsMarginal i.count }.startStages i

/-- Start-up begins: everything that is not stored takes its start value (R205, R209). -/
def State.beginStart (s : State) (i : StartInput) : State :=
  { State.reset with
    unit := s.unit, strapMarginal := s.strapMarginal, store := s.store, free := s.free,
    pending := s.pending }.readStrap 1 i

/-- The first `k` of the writes in progress are done, and the others are lost. -/
def State.settleWrites (s : State) (k : Nat) : State :=
  { s with store := (s.writes.take k).foldl Store.applyAll s.store, writes := [] }

/-! ### The commands -/

/-- START_UP (R205): at power-on; at the RESET pin, with as many of the writes in progress done as a free value says
(log 9); at the end of a RESTART, with every one done (R196). -/
def execStartUp (i : StartInput) (s : State) : Host.Outcome State Fault Refusal :=
  .next <| match s.life with
    | .waiting | .strap _ => (s.settleWrites 0).beginStart i
    | .running => (s.settleWrites (Config.writesDoneAtReset s.free)).useFree.beginStart i
    | .restartDue => (s.settleWrites s.writes.length).beginStart i

/-- STRAP_REREAD (R135): the next reading of a marginal strap. -/
def execStrapReread (i : StartInput) (s : State) : Host.Outcome State Fault Refusal :=
  .next <| match s.life with
    | .strap k => s.readStrap (k + 1) i
    | .waiting | .running | .restartDue => s

/-- POWER_LOSS (R204): every write not yet done is abandoned; nothing acts until the next start-up (log 8). -/
def execPowerLoss (s : State) : Host.Outcome State Fault Refusal :=
  .next { s with life := .waiting, writes := [] }

end Sys2Proof.Machine
end

