-- ==== Sys2Proof/Machine/HostFrames.lean ====
section
/-!
DEFINITION. The frames of a host port from their characters on: a frame that is complete and good is the request or the
broadcast its kind names (R185, R192, R201, R202); any other is discarded (R57, R186).
-/

namespace Sys2Proof.Machine

/-- A request taken out of its frame, by its kind (R192); a kind that the catalogue does not list is unknown (R188). -/
def State.takeRequest (s : State) (p : Port) (kind : Byte) (body : List Byte) : Host.Outcome State Fault Refusal :=
  match kind.toNat with
  | 0x01 => execRoomStatus p body s
  | 0x02 => execSlotStatus p body s
  | 0x03 => execTerminalStatus p body s
  | 0x04 => execPortStatus p body s
  | 0x08 => execEventsRead p body s
  | 0x10 => execClassSet p body s
  | 0x11 => execPriceSetEntry p body s
  | 0x12 => execSlotSet p body s
  | 0x13 => execTerminalSet p body s
  | 0x14 => execGovernorSetGeneral p body s
  | 0x15 => execSenseSetInput p body s
  | 0x16 => execRoomSet p body s
  | 0x17 => execTimeSet p body s
  | 0x20 => execAccountPut p body s
  | 0x21 => execAccountCredit p body s
  | 0x22 => execAccountState p body s
  | 0x23 => execAccountRemove p body s
  | 0x24 => execAccountRead p body s
  | 0x28 => execSettlementRead p body s
  | 0x29 => execSettlementRelease p body s
  | 0x30 => execSlotServiceTake p body s
  | 0x31 => execSlotStop p body s
  | 0x38 => execFaultsRead p body s
  | 0x39 => execHistoryRead p body s
  | 0x3A => execFaultClear p body s
  | 0x40 => execBudgetSet p body s
  | 0x41 => execGrantsRead p body s
  | 0x48 => execWaitlistRead p body s
  | 0x49 => execWaitlistRemove p body s
  | 0x50 => execRoomMode p body s
  | 0x51 => execRoomResume p body s
  | 0x58 => execSenseRead p body s
  | 0x60 => execRestart p body s
  | _ => execUnknownKindRequest p kind body s

/-- A broadcast taken out of its frame, by its kind (R191). -/
def State.takeBroadcast (s : State) (p : Port) (kind : Byte) (body : List Byte) : Host.Outcome State Fault Refusal :=
  match kind.toNat with
  | 0x17 => execBroadcastTimeSet p body s
  | 0x40 => execBroadcastBudgetSet p body s
  | _ => execBroadcastDropped p kind body s

/-- The state that an outcome leaves: the next one. No request or broadcast answers otherwise (log 33). -/
def State.after (s : State) : Host.Outcome State Fault Refusal → State
  | .next t => t
  | .fault _ | .refused _ => s

/-- A completed frame is good: its check agrees and its length field is 1..200 (R186); a bad service address is not. -/
def State.frameGood (s : State) (p : Port) (address : Byte) (bytes : List Byte) : Bool :=
  checkAgrees bytes && bytes.head?.any (fun l => 1 ≤ l.toNat && l.toNat ≤ 200) &&
    frameClass s.unit p address.toNat != .inError

/-- A good frame by its class (R185): its kind and body are taken out of it (R201). -/
def State.takeFrame (s : State) (p : Port) (address : Byte) (bytes : List Byte) : State :=
  match frameClass s.unit p address.toNat, requestParts bytes with
  | .request, some (kind, body) => s.after (s.takeRequest p kind body)
  | .broadcast, some (kind, body) => s.after (s.takeBroadcast p kind body)
  | _, _ => s

/-- What one ended frame does at its port: one that the port has had open, whenever that opened, or one that opened since, which
a RESTART on the other port has disregarded (R196). -/
def State.frameEnded (s : State) (p : Port) (e : FrameEnd) : State :=
  if !s.listens p || s.deaf p && (s.port p).frame.isNone then s
  else match e with
    | .complete a bytes => if s.frameGood p a bytes then s.takeFrame p a bytes else (s.setFrame p none).discardFrame p a
    | .badCharacter a | .gap a | .broken a => (s.setFrame p none).discardFrame p a

/-- The frame that is open after a run of characters: the one open before them goes on; one that opened among them is held where
it is heard and for this unit, a broadcast or in error, and on a BUSY port is an overrun as it opens (R185 to R187, R196). -/
def State.leaveOpen (s : State) (p : Port) (goesOn : Bool) : Option (Byte × List Byte) → State
  | none => s
  | some f =>
    if goesOn then s.setFrame p (some f)
    else if s.deaf p then s
    else match frameClass s.unit p f.1.toNat with
      | .notForUnit => s
      | .inError => s.setFrame p (some f)
      | .request | .broadcast => if s.portBusy p then s.countOverrun p else s.setFrame p (some f)

/-- The characters of a frame, or of a part of one, as they stood on the line, taken into the frame that the port has open (R57). -/
def State.hearChars (s : State) (p : Port) (chars : List RxChar) : State :=
  let r := assemble (s.port p).frame chars
  (r.1.foldl (fun s e => s.frameEnded p e) s).leaveOpen p ((s.port p).frame.isSome && r.1.isEmpty) r.2

/-- HOST_FRAME_DISCARD (R186): the characters of a frame as they stood on the line. The part judges them: characters that make
a good frame after all are the request or the broadcast it carries, and ones that end no frame leave it open (log 36). -/
def execHostFrameDiscard (p : Port) (chars : List RxChar) (s : State) : Host.Outcome State Fault Refusal :=
  .next (if s.listens p then s.hearChars p chars else s)

end Sys2Proof.Machine
end

