-- ==== Sys2Proof/Machine/Dispatch.lean ====
section
/-!
DEFINITION. The dispatch: each command to its meaning.
-/

namespace Sys2Proof.Machine

def exec (i : Instr) (s : State) : Host.Outcome State Fault Refusal :=
  match i with
  | .startUp input => Sys2Proof.Machine.execStartUp input s
  | .strapReread input => Sys2Proof.Machine.execStrapReread input s
  | .rotationPoll => Sys2Proof.Machine.execRotationPoll s
  | .probePoll => Sys2Proof.Machine.execProbePoll s
  | .outOfTurnPoll => Sys2Proof.Machine.execOutOfTurnPoll s
  | .broadcastDisplay => Sys2Proof.Machine.execBroadcastDisplay s
  | .terminalReply chars => Sys2Proof.Machine.execTerminalReply chars s
  | .malformedReply => Sys2Proof.Machine.execMalformedReply s
  | .replyTimeout => Sys2Proof.Machine.execReplyTimeout s
  | .contentionWindow start a3 a2 a1 a0 => Sys2Proof.Machine.execContentionWindow start a3 a2 a1 a0 s
  | .briefDeadline t h => Sys2Proof.Machine.execBriefDeadline t h s
  | .armedDeadline n => Sys2Proof.Machine.execArmedDeadline n s
  | .lockingDeadline n => Sys2Proof.Machine.execLockingDeadline n s
  | .unlockDeadline n => Sys2Proof.Machine.execUnlockDeadline n s
  | .collectWindowExpiry n => Sys2Proof.Machine.execCollectWindowExpiry n s
  | .recoveryDeadline n => Sys2Proof.Machine.execRecoveryDeadline n s
  | .runSecond => Sys2Proof.Machine.execRunSecond s
  | .overrun n => Sys2Proof.Machine.execOverrun n s
  | .paidSecondsExhausted n => Sys2Proof.Machine.execPaidSecondsExhausted n s
  | .coolDownEnd n => Sys2Proof.Machine.execCoolDownEnd n s
  | .waitlistEntryExpiry c position => Sys2Proof.Machine.execWaitlistEntryExpiry c position s
  | .reservationExpiry n => Sys2Proof.Machine.execReservationExpiry n s
  | .scanStart => Sys2Proof.Machine.execScanStart s
  | .conversionResult count => Sys2Proof.Machine.execConversionResult count s
  | .scanEnd count => Sys2Proof.Machine.execScanEnd count s
  | .onDemandConversionResult count => Sys2Proof.Machine.execOnDemandConversionResult count s
  | .clockSecond => Sys2Proof.Machine.execClockSecond s
  | .minuteChange => Sys2Proof.Machine.execMinuteChange s
  | .interlockActive => Sys2Proof.Machine.execInterlockActive s
  | .interlockInactive => Sys2Proof.Machine.execInterlockInactive s
  | .suspensionLimit => Sys2Proof.Machine.execSuspensionLimit s
  | .storeWriteDone => Sys2Proof.Machine.execStoreWriteDone s
  | .hostReplyEnd p => Sys2Proof.Machine.execHostReplyEnd p s
  | .hostFrameDiscard p chars => Sys2Proof.Machine.execHostFrameDiscard p chars s
  | .frameGapTimeout l address => Sys2Proof.Machine.execFrameGapTimeout l address s
  | .hostFrameOverrun p address => Sys2Proof.Machine.execHostFrameOverrun p address s
  | .frameNotForUnit address => Sys2Proof.Machine.execFrameNotForUnit address s
  | .broadcastDropped p kind body => Sys2Proof.Machine.execBroadcastDropped p kind body s
  | .broadcastTimeSet p body => Sys2Proof.Machine.execBroadcastTimeSet p body s
  | .broadcastBudgetSet p body => Sys2Proof.Machine.execBroadcastBudgetSet p body s
  | .broadcastBudgetDeferred p => Sys2Proof.Machine.execBroadcastBudgetDeferred p s
  | .unknownKindRequest p kind body => Sys2Proof.Machine.execUnknownKindRequest p kind body s
  | .roomStatus p body => Sys2Proof.Machine.execRoomStatus p body s
  | .slotStatus p body => Sys2Proof.Machine.execSlotStatus p body s
  | .terminalStatus p body => Sys2Proof.Machine.execTerminalStatus p body s
  | .portStatus p body => Sys2Proof.Machine.execPortStatus p body s
  | .eventsRead p body => Sys2Proof.Machine.execEventsRead p body s
  | .classSet p body => Sys2Proof.Machine.execClassSet p body s
  | .priceSetEntry p body => Sys2Proof.Machine.execPriceSetEntry p body s
  | .priceSetGeneral p body => Sys2Proof.Machine.execPriceSetGeneral p body s
  | .slotSet p body => Sys2Proof.Machine.execSlotSet p body s
  | .terminalSet p body => Sys2Proof.Machine.execTerminalSet p body s
  | .governorSetGeneral p body => Sys2Proof.Machine.execGovernorSetGeneral p body s
  | .governorSetClass p body => Sys2Proof.Machine.execGovernorSetClass p body s
  | .senseSetInput p body => Sys2Proof.Machine.execSenseSetInput p body s
  | .senseSetGeneral p body => Sys2Proof.Machine.execSenseSetGeneral p body s
  | .roomSet p body => Sys2Proof.Machine.execRoomSet p body s
  | .timeSet p body => Sys2Proof.Machine.execTimeSet p body s
  | .accountPut p body => Sys2Proof.Machine.execAccountPut p body s
  | .accountCredit p body => Sys2Proof.Machine.execAccountCredit p body s
  | .accountState p body => Sys2Proof.Machine.execAccountState p body s
  | .accountRemove p body => Sys2Proof.Machine.execAccountRemove p body s
  | .accountRead p body => Sys2Proof.Machine.execAccountRead p body s
  | .settlementRead p body => Sys2Proof.Machine.execSettlementRead p body s
  | .settlementRelease p body => Sys2Proof.Machine.execSettlementRelease p body s
  | .slotServiceTake p body => Sys2Proof.Machine.execSlotServiceTake p body s
  | .slotServiceReturn p body => Sys2Proof.Machine.execSlotServiceReturn p body s
  | .slotStop p body => Sys2Proof.Machine.execSlotStop p body s
  | .faultsRead p body => Sys2Proof.Machine.execFaultsRead p body s
  | .historyRead p body => Sys2Proof.Machine.execHistoryRead p body s
  | .faultClear p body => Sys2Proof.Machine.execFaultClear p body s
  | .budgetSet p body => Sys2Proof.Machine.execBudgetSet p body s
  | .grantsRead p body => Sys2Proof.Machine.execGrantsRead p body s
  | .waitlistRead p body => Sys2Proof.Machine.execWaitlistRead p body s
  | .waitlistRemove p body => Sys2Proof.Machine.execWaitlistRemove p body s
  | .roomMode p body => Sys2Proof.Machine.execRoomMode p body s
  | .roomResume p body => Sys2Proof.Machine.execRoomResume p body s
  | .senseRead p body => Sys2Proof.Machine.execSenseRead p body s
  | .restart p body => Sys2Proof.Machine.execRestart p body s
  | .powerLoss => Sys2Proof.Machine.execPowerLoss s

end Sys2Proof.Machine
end

