-- ==== Sys2Proof/Machine/Step.lean ====
section
/-!
DEFINITION. One step: the command at the front of the queue is taken and run on the machine with the queue's rest; on an
empty queue the replies that are built begin, and else the block idles (log 29, log 40).
-/

namespace Sys2Proof.Machine

def State.withPending (s : State) (q : List Instr) : State := { s with pending := q }

/-- One step. On an empty queue it is the beginning of the built replies (R189), the one effect that no command brings. -/
def step (s : State) : Host.Outcome State Fault Refusal :=
  match s.pending with
  | [] => .next s.beginReplies
  | c :: rest => exec c (s.withPending rest)

/-- The state with the command a word spells put at the front of its queue; no word spells one (log 30). -/
def State.withFetchWord (s : State) (nbits w : Nat) : State :=
  match Sys2Proof.decodeTableWord nbits w with
  | some c => s.withPending (c :: s.pending)
  | none => s

end Sys2Proof.Machine
end

