-- ==== Sys2Proof/Safety.lean ====
section
/-!
DEFINITION. What claims speak of: slots whose outputs are those of their state (R3), event queues (R198) and fault tables
(R142, R151) as their rules keep them, accounts that carry their holds (R64), ports ready for a request and what a request
leaves (R187 to R190).
-/

namespace Sys2Proof.Machine

/-! ### Invariants -/

/-- A slot's desired outputs are those that R3 gives for its state, heat-permit in RUNNING following the heat grant. -/
def Slot.agrees (x : Slot) : Prop := x.outputs = outputsOf x.state x.heatGrant

def State.outputsAgree (s : State) : Prop := ∀ n, (s.slot n).agrees

/-- An event queue of at most 64 events whose numbers run on by one up to the next event number, modulo 65,536 (R198). -/
def EventQueue.ok (q : EventQueue) : Prop :=
  q.queue.length ≤ 64 ∧ q.lost ≤ 255 ∧ q.next < 65536 ∧
    ∀ i (h : i < q.queue.length), (q.queue[i]).number < 65536 ∧
      ((q.queue[i]).number + (q.queue.length - i)) % 65536 = q.next

/-- An open-fault table of at most 32 entries, no two with the same source and code, of 1 to 255 occurrences each (R142), and
a history ring of at most 32 closed entries (R151). -/
def Faults.ok (f : Faults) : Prop :=
  f.table.length ≤ 32 ∧ (f.table.map fun e => (e.source, e.code)).Nodup ∧
    (∀ e ∈ f.table, 1 ≤ e.occurrences ∧ e.occurrences ≤ 255) ∧ f.history.length ≤ 32 ∧ f.next < 65536

/-- The ranges of the room clock: a second of day, and a day number of 16 bits (R172). -/
def Clock.ok (c : Clock) : Prop := c.second < 86400 ∧ c.day < 65536

/-- Every account's held amount is the sum of the amounts of the holds that name it, and does not exceed its balance
(R64). -/
def State.heldLaw (s : State) : Prop :=
  ∀ i, (s.account i).held =
      (allSlots.map fun n => (s.hold n).elim 0 fun h => if h.account = i then h.amount else 0).sum ∧
    (s.account i).held ≤ (s.account i).balance

/-- What the payment unit's records obey: the account table is in its canonical form; R64; a FREE record has every field 0
(R60) and a SUSPECT one no held amount (R61); a card id is on at most one record that is not FREE (R62); the settlement
queue has a place for the record of every hold (R74, R94). -/
structure State.purse (s : State) : Prop where
  canon : Accounts.wf s.accounts = true
  held : s.heldLaw
  free : ∀ i, (s.account i).state = .free → s.account i = .free
  suspect : ∀ i, (s.account i).state = .suspect → (s.account i).held = 0
  cards : ∀ i j, (s.account i).state ≠ .free → (s.account j).state ≠ .free → (s.account i).card ≠ 0 →
    (s.account i).card = (s.account j).card → i = j
  room : s.settlement.records.length + s.holdCount ≤ 64

/-- The store once every change in progress is done (R204). -/
def State.storeToBe (s : State) : Store := s.writes.foldl Store.applyAll s.store

/-- Every record that is kept in the store is there, or on its way (R204): the accounts and holds (R75, R79), the settlement
places and header (R91, R94), the settings, the slot and terminal configurations (R2, R34), and the cause members but
TERMINAL_LOST (R154). -/
structure State.mirrored (s : State) : Prop where
  accounts : ∀ i, Accounts.read s.storeToBe.accounts i = s.account i
  holds : s.storeToBe.holds = s.holds
  places : ∀ p : Fin 64, s.storeToBe.places[p.val] = s.settlement.records[(p.val + 64 - s.settlement.oldest % 64) % 64]?
  header : s.storeToBe.header.getD ⟨0, 0, 0⟩ = s.settlement.header
  settings : s.storeToBe.settings = s.settings
  slots : ∀ n : Fin 24, s.storeToBe.slots[n.val].getD none = (s.slot n).cfg
  causes : ∀ n : Fin 24, (s.storeToBe.causes[n.val]).getD .empty = (s.slot n).causes.stored
  terminals : ∀ t : Fin 16, (s.storeToBe.terminals[t.val]).getD .single = (s.terminal t).mode

/-- The account records of the store stand in rising order of their index, each once. -/
def Store.inOrder (d : Store) : Prop := (d.accounts.map fun e => e.1).Pairwise (· < ·)

/-! ### A start-up -/

/-- Record `k` of group `g` fails its check at a start-up. -/
def recordFails (i : StartInput) (g k : Nat) : Bool := i.failed.contains ⟨g, k⟩

/-- What the store check leaves of a record: one that was written and fails is repaired (R204 to R206). -/
def checked {α : Type} (i : StartInput) (g k : Nat) (repair x : Option α) : Option α :=
  if recordFails i g k && x.isSome then repair else x

/-- What the strap's last reading makes of state `u`, in which the strap was read, with the store `d` as the start-up found it. -/
structure State.startedFrom (u : State) (d : Store) (i : StartInput) (t : State) : Prop where
  strap : t.life = .running ∧ t.unit = i.count / 512 ∧ t.strapMarginal = strapIsMarginal i.count
  -- the configuration (R206)
  classes : ∀ c : Fin 4, t.store.classes[c.val] = checked i 4 c (some .default) d.classes[c.val]
  prices : t.store.prices = checked i 5 0 (some .default) d.prices
  governor : t.store.governor = checked i 8 0 (some .default) d.governor
  sense : t.store.sense = checked i 9 0 (some .default) d.sense
  roomCfg : t.store.room = checked i 10 0 (some .default) d.room
  settings : t.settings = t.store.settings
  slots : ∀ n : Fin 24, t.store.slots[n.val] = checked i 6 n (some none) d.slots[n.val] ∧
    (t.slot n).cfg = t.store.slots[n.val].getD none
  terminals : ∀ x : Fin 16, (t.terminal x).presence = .absent ∧
    (t.terminal x).mode = t.store.terminals[x.val].getD .single ∧
    t.store.terminals[x.val] = checked i 7 x
      (some (if ∃ n c, (t.slot n).cfg = some c ∧ c.term = x ∧ c.half = .b then .paired else .single)) d.terminals[x.val]
  causes : ∀ n : Fin 24, (t.slot n).causes = t.store.causes[n.val].getD .empty ∧
    t.store.causes[n.val] = if (t.slot n).cfg = none then none
      else checked i 11 n (some { Causes.empty with lockout := true }) d.causes[n.val]
  -- the accounts and the holds (R206, R208)
  accounts : ∀ k < 512, Accounts.read t.store.accounts k = t.account k ∧
    t.account k = { ((checked i 0 k (some .suspect) (Accounts.find d.accounts k)).getD .free) with
      held := (allSlots.map fun n => (t.hold n).elim 0 fun h => if h.account = k then h.amount else 0).sum }
  holds : t.store.holds = t.holds ∧ ∀ n : Fin 24, t.hold n = d.holds[n.val].filter fun h =>
    !recordFails i 1 n && (t.slot n).cfg.isSome && decide ((t.account h.account).state ≠ .free) &&
      decide ((t.account h.account).state ≠ .suspect)
  dropped : i.failed = [] → u.events = ⟨[], 0, 0⟩ →
    ((allSlots.filter fun n => d.holds[n.val].isSome && (t.hold n).isNone).map fun n => EventBody.storeSuspect 1 n) <+:
      t.events.queue.map fun e => e.body
  -- the settlement queue of a header that passes (R207)
  queue : ∀ h, d.header = some h → recordFails i 3 0 = false →
    t.settlement.oldest = h.oldest ∧ t.settlement.next = h.next ∧ t.settlement.records.length = h.count ∧
    ∀ j < h.count, ∀ k, k = (h.oldest + j) % 64 → ∀ r, d.places[k]? = some r →
      (∀ x, r = some x → recordFails i 2 k = false → t.settlement.records[j]? = some x) ∧
      (r = none ∨ recordFails i 2 k = true → ∀ y, 0 < j → t.settlement.records[j - 1]? = some y →
        t.settlement.records[j]? = some (.lost (y.number + 1)))
  storedQueue : t.store.header.getD ⟨0, 0, 0⟩ = t.settlement.header ∧ ∀ p : Fin 64,
    t.store.places[p.val] = t.settlement.records[(p.val + 64 - t.settlement.oldest % 64) % 64]?
  -- the start values (R104, R157, R183, R209)
  start : ∀ n, (t.slot n).state = (if (t.slot n).cfg = none then .unconfigured
      else if (t.hold n).isSome then .recovering
      else if (t.slot n).causes.isEmpty then .idle else .outOfService) ∧
    (t.slot n).run = ((t.hold n).elim 0 fun h => h.storedRun) ∧
    (t.slot n).timer = (if (t.slot n).state = .recovering then some (t.elapsed + 30) else none) ∧
    (t.slot n).reservation = none ∧ (t.slot n).heatGrant = false
  gov : t.gov = { Governor.start 0 with motor := t.motorSum, heat := t.heatBudget }
  room : t.room.interlock = i.interlock ∧ t.room.state = if i.interlock then .suspended else t.modeState
  faults : i.failed = [] → t.faults = { u.faults with
    table := u.faults.table ++ (allSlots.filter fun n => (t.slot n).causes.lockout).map fun n =>
      ⟨some n, .restoredLockout, none, u.clock, u.clock, 1, .latched, .lockout⟩ }
  rest : { t with
    life := u.life, unit := u.unit, strapMarginal := u.strapMarginal, store := u.store, settings := u.settings,
    settlement := u.settlement, holds := u.holds, accounts := u.accounts, slots := u.slots, faults := u.faults, gov := u.gov,
    room := u.room, terminals := u.terminals, bus := u.bus, events := u.events } = u

/-- The slots on the grant list, and those in the wait queue. -/
def State.granted (s : State) : List (Fin 24) := s.gov.grants.map fun r => r.slot
def State.waiting (s : State) : List (Fin 24) := s.gov.waits.map fun r => r.slot

/-- The slot has a heat request, granted or waiting. -/
def State.asked (s : State) (n : Fin 24) : Prop := n ∈ s.granted ∨ n ∈ s.waiting

/-- A slot has at most one heat request (R109). -/
def State.oneRequest (s : State) : Prop := (s.granted ++ s.waiting).Nodup

/-- What the lists say of a slot: its heat grant flag is set exactly while it is on the grant list (R18), it is RUNNING
there, and RUNNING or in AWAIT_POWER while its request waits (R14, R17, R18). -/
def State.heatAt (s : State) (n : Fin 24) : Prop :=
  ((s.slot n).heatGrant = true ↔ n ∈ s.granted) ∧ (n ∈ s.granted → (s.slot n).state = .running) ∧
    (n ∈ s.waiting → (s.slot n).state = .running ∨ (s.slot n).state = .awaitPower)

/-- The heat requests and the slots agree. -/
def State.heatLaw (s : State) : Prop := s.oneRequest ∧ ∀ n, s.heatAt n

/-- A slot is busy exactly while its hold entry is full (01, section 1.2; R72). -/
def State.busyLaw (s : State) : Prop := ∀ n, (s.hold n).isSome = (s.slot n).state.busy

/-! ### What the blocks' acts at the slots leave alone -/

/-- A half's entry without its displays (R33, R50). -/
def HalfEntry.bare (e : HalfEntry) : HalfEntry := { HalfEntry.start .blank with report := e.report }

/-- A terminal's entry without its displays. -/
def Terminal.bare (x : Terminal) : Terminal := { x with halfA := x.halfA.bare, halfB := x.halfB.bare }

/-- The state without what the slot controller, the payment unit, the governor, the fault supervisor, the waitlist unit and
room control act on: the slots, accounts, holds, settlement queue, governor, faults, class queues, events, writes begun, the
displays and their broadcast, and the room state. Two states equal outside these have the same clock, settings,
terminals, bus turn, scanner, ports, store turn, store, unit address and queue of commands. -/
def State.outside (s : State) : State :=
  { s with slots := State.reset.slots, accounts := [], holds := State.reset.holds, settlement := ⟨[], 0, 0⟩,
           gov := .start 0, faults := ⟨[], [], 0⟩, queues := State.reset.queues, events := ⟨[], 0, 0⟩, writes := [],
           terminals := s.terminals.map Terminal.bare, bus := { s.bus with broadcast := false },
           room := { s.room with state := .openRoom } }

/-! ### A cycle end, and the slots beside it -/

/-- A slot without its state, timer, grant, outputs, sensing and reservation. -/
def Slot.bare (x : Slot) : Slot :=
  { Slot.start with
    cfg := x.cfg, causes := x.causes, run := x.run, phase := x.phase, heatReq := x.heatReq, remaining := x.remaining,
    topUp := x.topUp, cool := x.cool, resume := x.resume, warning := x.warning, view := x.view }

/-- RUNNING or AWAIT_POWER. -/
def SlotState.heated (st : SlotState) : Prop := st = .running ∨ st = .awaitPower

/-- What an act at another slot may do to a slot beside it: the governor moves it between RUNNING and AWAIT_POWER (R18), and a
room that closes takes it from RESERVED to IDLE (R167). -/
def Slot.bystander (x y : Slot) : Prop :=
  y.bare = x.bare ∧ (y.state = x.state ∨ x.state = .reserved ∧ y.state = .idle ∨ x.state.heated ∧ y.state.heated)

/-- What a cycle end at slot `n` with hold `h` makes of state `s` (R6, R90, R177): the hold is settled and its entry
emptied, the settlement record joins the queue under the next number, heat is given up, the target is entered (an IDLE slot
may be RESERVED at once, R5), and a CLOSING room with no hold left closes. -/
structure State.cycleEnded (s : State) (n : Fin 24) (h : Hold) (r : Reason) (f : Option (FaultCode × Option Nat))
    (target : SlotState) (t : State) : Prop where
  holds : ∀ m, t.hold m = if m = n then none else s.hold m
  queue : t.settlement = { s.settlement with
    records := s.settlement.records ++ [s.settlementRecord n h r f], next := (s.settlement.next + 1) % 2 ^ 32 }
  accounts : ∀ i, t.account i = if i = h.account then
    (s.account i).settled s.clock.day (s.settlementRecord n h r f).charge h.amount else s.account i
  state : (t.slot n).state = target ∨ target = .idle ∧ (t.slot n).state = .reserved
  heat : (t.slot n).heatGrant = false ∧ ¬ t.asked n
  slot : (t.slot n).bare =
    { (s.slot n).bare with heatReq := false, resume := none, warning := false, causes := (t.slot n).causes }
  others : ∀ m, m ≠ n → (s.slot m).bystander (t.slot m)
  room : t.room.state =
    if s.room.state = .closing ∧ (∀ m, m ≠ n → s.hold m = none) then .closed else s.room.state
  rest : t.outside = s.outside

/-- The payment unit's records are as they were, and no change of the store was begun. -/
structure State.booksKept (s t : State) : Prop where
  accounts : t.accounts = s.accounts
  holds : t.holds = s.holds
  settlement : t.settlement = s.settlement
  writes : t.writes = s.writes

/-- Every event of `s` and then `e` stand first in the event queue of `t`, while there was room for `e` (R198). -/
def State.told (s : State) (e : EventBody) (t : State) : Prop :=
  s.events.queue.length < 64 → s.events.queue ++ [⟨s.events.next, e, s.clock⟩] <+: t.events.queue

/-- Slot `n` was offered to its class queue: it is RESERVED for the head entry, which left the queue, or IDLE with the queue
empty (R5, R162, R163). -/
structure State.offered (s : State) (n : Fin 24) (t : State) : Prop where
  taken : ∀ c e rest, s.slotCls n = some c → s.queue c = e :: rest →
    (t.slot n).state = .reserved ∧
      (t.slot n).reservation = some ⟨e.card, e.account, e.joined, s.settings.room.window * 60⟩ ∧
      ∀ d, t.queue d = if d = c then rest else s.queue d
  idle : (∀ c, s.slotCls n = some c → s.queue c = []) → (t.slot n).state = .idle ∧ t.queues = s.queues

/-- Fault `f` with error code `e` was raised at slot `n` (R137, R140, R142, R143): its open entry stands ACTIVE with the raise
counted in it and its severity applied, and FAULT_RAISED tells it; in a full table this is so of an entry already open. -/
structure State.raisedAt (s : State) (n : Fin 24) (f : FaultCode) (e : Option Nat) (t : State) : Prop where
  entry : ∀ k, k = ((s.faults.find (some n) f).elim 1 fun x => min 255 (x.occurrences + 1)) →
    (s.faults.find (some n) f).isSome ∨ s.faults.table.length < 32 →
    (∃ x, t.faults.find (some n) f = some x ∧ x.condition = .active ∧ x.occurrences = k ∧ x.severity = f.applied k ∧
      x.errorCode = e ∧ x.last = s.clock) ∧
    s.told (.faultRaised (some n) f e k (f.applied k) false) t

/-- The condition of a fault code is shown ended by a report `v` of a slot whose lock is wanted LOCKED or not (R144). -/
def FaultCode.endedBy (f : FaultCode) (wantLocked : Bool) (v : View) : Bool :=
  match f with
  | .lockFail => v.lock == (if wantLocked then .locked else .unlocked)
  | .unlockFail => v.lock == .unlocked
  | .doorForced => !(v.doorOpen && v.lock == .locked)
  | .machineError => v.status != .error
  | .terminalLost | .heaterOpen | .overcurrent | .ungrantedDraw | .idleDraw | .overrun | .senseReference | .feedOver
  | .storeIntegrity | .restoredLockout => false

/-- The report `v` taken into slot `n` (R15, R17, R41, R144): the slot's view, a busy washer's phase and a washer's heat request
flag are the reported ones, and the conditions shown ended have their open entries LATCHED; all else is as it was. -/
structure State.took (s : State) (n : Fin 24) (v : View) (u : State) : Prop where
  slot : u.slot n = { s.slot n with
    view := v,
    phase := if s.kind n = .washer ∧ (s.slot n).state.busy = true then v.phase else (s.slot n).phase,
    heatReq := if s.kind n = .washer then v.heat else (s.slot n).heatReq }
  others : ∀ m, m ≠ n → u.slot m = s.slot m
  table : u.faults.table = s.faults.table.map fun x =>
    if x.source = some n ∧ x.code.endedBy (s.slot n).outputs.locked v = true then { x with condition := .latched } else x
  faults : { u.faults with table := s.faults.table } = s.faults
  rest : { u with slots := s.slots, faults := s.faults } = s

/-- What a report showing the lock UNLOCKED makes of a settled slot `n` (R28, R29): with its cause set empty it is in COLLECT, or
offered where the door is OPEN; else it is OUT_OF_SERVICE. Another report leaves it in the state `st` of its settlement. -/
def State.unlocked (t : State) (n : Fin 24) (st : SlotState) (v : View) : Prop :=
  if v.lock = .unlocked then
    if (t.slot n).causes.isEmpty = true then
      if v.doorOpen = true then (t.slot n).state = .idle ∨ (t.slot n).state = .reserved else (t.slot n).state = .collect
    else (t.slot n).state = .outOfService
  else (t.slot n).state = st

/-- Slot `n`'s hold is settled for a reason and its entry emptied (R6, R90). -/
structure State.settledAs (s : State) (n : Fin 24) (r : Reason) (f : Option (FaultCode × Option Nat)) (t : State) : Prop where
  hold : t.hold n = none
  record : ∀ h, s.hold n = some h → t.settlement.records = s.settlement.records ++ [s.settlementRecord n h r f]

/-- The granted heat is at most the effective heat budget plus the revoke margin, or no grant is held (R114). -/
def State.capped (s : State) : Prop :=
  (s.grantedHeat : Int) ≤ s.gov.heat + s.settings.governor.margin ∨ s.gov.grants = []

/-- The feed budget `w` taken in state `s` (R102, R103, R106, R114): the setting and its write, the figures of R104 and R105 up
to date, and, where the effective heat budget fell, the granted heat within it or its margin; slots only moved between RUNNING
and AWAIT_POWER. -/
structure State.budgeted (s : State) (w : Nat) (t : State) : Prop where
  settings : t.settings = { s.settings with governor := { s.settings.governor with budget := w } }
  writes : t.writes = s.writes ++ [[.governor t.settings.governor]]
  motor : s.heatLaw → t.gov.motor = t.motorSum
  heat : t.gov.heat = (w : Int) - t.gov.motor - s.gov.stray
  capped : t.gov.heat < s.gov.heat ∨ s.capped → t.capped
  asked : ∀ n, t.asked n ↔ s.asked n
  accounts : t.accounts = s.accounts
  holds : t.holds = s.holds
  settlement : t.settlement = s.settlement
  queues : t.queues = s.queues
  faults : t.faults = s.faults
  slots : s.heatLaw → ∀ n, (s.slot n).bystander (t.slot n)
  room : t.room = s.room

/-- The conversion that an idle converter starts next: an on-demand one that waits, else the next of the scan (R124). -/
def Scanner.nextUp (c : Scanner) : Option Conversion :=
  match c.waiting, c.toConvert with
  | (p, i) :: _, _ => some (.onDemand p i)
  | [], i :: _ => some (.scan i)
  | [], [] => none

/-! ### Requests -/

/-- The part runs, no RESTART was taken, and the port is IDLE with no frame open. -/
def State.readyFor (s : State) (p : Port) : Prop :=
  s.life = .running ∧ s.restart = .start ∧ (s.port p).activity = .idle ∧ (s.port p).frame = none

/-- A port whose request was counted and whose reply is built. -/
def PortUnit.answered (u : PortUnit) (r : Reply) : PortUnit :=
  { u with activity := .built r, counts := { u.counts with taken := (u.counts.taken + 1) % 65536 } }

/-- A port whose request was counted and whose reply waits for `k` changes of the store. -/
def PortUnit.waits (u : PortUnit) (r : Reply) (k : Nat) : PortUnit :=
  { u with activity := .storing r k, counts := { u.counts with taken := (u.counts.taken + 1) % 65536 } }

/-- The state after a request that changed nothing else than its port, which sends the reply. -/
def State.replied (s : State) (p : Port) (r : Reply) : State := s.setPort p ((s.port p).answered r)

/-- The state after a request that wrote one change to the store: the port holds the store turn until the change, and those
before it, are done. -/
def State.stores (s : State) (p : Port) (r : Reply) (ws : List StoreWrite) : State :=
  { s.setPort p ((s.port p).waits r (s.writes.length + 1)) with turn := some p, writes := s.writes ++ [ws] }

/-- Port `p` took a request whose reply waits for the store's changes in progress, holding the store turn (R189, R190). -/
structure State.awaits (s : State) (p : Port) (r : Reply) (t : State) : Prop where
  port : t.port p = (s.port p).waits r t.writes.length
  other : t.port (otherPort p) = s.port (otherPort p)
  turn : t.turn = some p

/-- The port, the kind and the body of a command that is a request of the catalogue (R192). -/
def requestFields : Instr → Option (Port × Nat × List Byte)
  | .roomStatus p b => some (p, 0x01, b) | .slotStatus p b => some (p, 0x02, b) | .terminalStatus p b => some (p, 0x03, b)
  | .portStatus p b => some (p, 0x04, b) | .eventsRead p b => some (p, 0x08, b) | .classSet p b => some (p, 0x10, b)
  | .priceSetEntry p b | .priceSetGeneral p b => some (p, 0x11, b)
  | .slotSet p b => some (p, 0x12, b) | .terminalSet p b => some (p, 0x13, b)
  | .governorSetGeneral p b | .governorSetClass p b => some (p, 0x14, b)
  | .senseSetInput p b | .senseSetGeneral p b => some (p, 0x15, b)
  | .roomSet p b => some (p, 0x16, b) | .timeSet p b => some (p, 0x17, b) | .accountPut p b => some (p, 0x20, b)
  | .accountCredit p b => some (p, 0x21, b) | .accountState p b => some (p, 0x22, b) | .accountRemove p b => some (p, 0x23, b)
  | .accountRead p b => some (p, 0x24, b) | .settlementRead p b => some (p, 0x28, b) | .settlementRelease p b => some (p, 0x29, b)
  | .slotServiceTake p b | .slotServiceReturn p b => some (p, 0x30, b)
  | .slotStop p b => some (p, 0x31, b) | .faultsRead p b => some (p, 0x38, b) | .historyRead p b => some (p, 0x39, b)
  | .faultClear p b => some (p, 0x3A, b) | .budgetSet p b => some (p, 0x40, b) | .grantsRead p b => some (p, 0x41, b)
  | .waitlistRead p b => some (p, 0x48, b) | .waitlistRemove p b => some (p, 0x49, b) | .roomMode p b => some (p, 0x50, b)
  | .roomResume p b => some (p, 0x51, b) | .senseRead p b => some (p, 0x58, b) | .restart p b => some (p, 0x60, b)
  | .startUp _ | .strapReread _ | .rotationPoll | .probePoll | .outOfTurnPoll | .broadcastDisplay | .terminalReply _
  | .malformedReply | .replyTimeout | .contentionWindow _ _ _ _ _ | .briefDeadline _ _ | .armedDeadline _
  | .lockingDeadline _ | .unlockDeadline _ | .collectWindowExpiry _ | .recoveryDeadline _ | .runSecond | .overrun _
  | .paidSecondsExhausted _ | .coolDownEnd _ | .waitlistEntryExpiry _ _ | .reservationExpiry _ | .scanStart
  | .conversionResult _ | .scanEnd _ | .onDemandConversionResult _ | .clockSecond | .minuteChange | .interlockActive
  | .interlockInactive | .suspensionLimit | .storeWriteDone | .hostReplyEnd _ | .hostFrameDiscard _ _
  | .frameGapTimeout _ _ | .hostFrameOverrun _ _ | .frameNotForUnit _ | .broadcastDropped _ _ _ | .broadcastTimeSet _ _
  | .broadcastBudgetSet _ _ | .broadcastBudgetDeferred _ | .unknownKindRequest _ _ _ | .powerLoss => none

/-- The port and the kind of a request of the catalogue. -/
def requestOf (c : Instr) : Option (Port × Nat) := (requestFields c).map fun r => (r.1, r.2.1)

/-- The port and the class of the frame that a command gives whole, complete and good (R185, R191). -/
def frameOf : Instr → Option (Port × FrameClass)
  | .unknownKindRequest p kind _ => if catalogueKinds.contains kind.toNat then none else some (p, .request)
  | .broadcastDropped p _ _ | .broadcastTimeSet p _ | .broadcastBudgetSet p _ => some (p, .broadcast)
  | c => (requestOf c).map fun r => (r.1, .request)

/-- A frame of the address `a` was discarded at port `p` (R185 to R187; log 21). -/
def State.frameDiscarded (s : State) (p : Port) (a : Byte) : State :=
  match frameClass s.unit p a.toNat with
  | .notForUnit => s
  | .inError => s.countError p
  | .request | .broadcast => if (s.port p).activity = .idle then s.countError p else s.countOverrun p

/-- A frame opened at port `p` and has its address and these bytes so far (R57, R185, R187). -/
def State.frameOpened (s : State) (p : Port) (f : Byte × List Byte) : State :=
  let t := s.setPort p { s.port p with frame := some f }
  match frameClass s.unit p f.1.toNat with
  | .notForUnit => s
  | .inError => t
  | .request | .broadcast => if (s.port p).activity = .idle then t else s.countOverrun p

/-- A frame that ended is not good: a framing error, a gap, a check that disagrees, a length of 0 or above 200, or the address of
no frame (R57, R186). -/
def badEnd (unit : Nat) (p : Port) (a : Byte) (e : FrameEnd) : Prop :=
  e = .badCharacter a ∨ e = .gap a ∨ ∃ bytes, e = .complete a bytes ∧ (checkAgrees bytes = false ∨
    frameClass unit p a.toNat = .inError ∨ ∃ l rest, bytes = l :: rest ∧ (l = 0 ∨ 200 < l.toNat))

/-- The length of the body that a kind takes, and for a kind with two forms those of its form 0 and its form 1 (R188, R202). -/
def bodyLengths : Nat → Nat ⊕ (Nat × Nat)
  | 0x01 | 0x41 | 0x51 | 0x60 => .inl 0
  | 0x02 | 0x03 | 0x04 | 0x08 | 0x28 | 0x31 | 0x50 | 0x58 => .inl 1
  | 0x13 | 0x23 | 0x24 | 0x38 | 0x3A | 0x48 => .inl 2
  | 0x22 | 0x30 | 0x39 | 0x40 => .inl 3
  | 0x12 | 0x29 => .inl 4
  | 0x10 | 0x17 | 0x21 | 0x49 => .inl 5
  | 0x16 => .inl 9
  | 0x20 => .inl 13
  | 0x11 => .inr (10, 8)
  | 0x14 => .inr (6, 7)
  | 0x15 => .inr (6, 3)
  | _ => .inl 0

/-- The status that test 3 of R188 gives a body, if it fails: its length, and the form that its first byte names. -/
def lengthTest (kind : Nat) (body : List Byte) : Option Status :=
  match bodyLengths kind with
  | .inl l => if body.length = l then none else some .badLength
  | .inr (l0, l1) =>
    match body with
    | [] => some .badLength
    | f :: _ =>
      if f = 0 then if body.length = l0 then none else some .badLength
      else if f = 1 then if body.length = l1 then none else some .badLength
      else some .badValue

/-- The command of a request's kind (R192). A kind with two forms has two rows of the table; either takes both forms (log 22). -/
def requestCommand (p : Port) (kind : Byte) (body : List Byte) : Instr :=
  match kind.toNat with
  | 0x01 => .roomStatus p body
  | 0x02 => .slotStatus p body
  | 0x03 => .terminalStatus p body
  | 0x04 => .portStatus p body
  | 0x08 => .eventsRead p body
  | 0x10 => .classSet p body
  | 0x11 => .priceSetEntry p body
  | 0x12 => .slotSet p body
  | 0x13 => .terminalSet p body
  | 0x14 => .governorSetGeneral p body
  | 0x15 => .senseSetInput p body
  | 0x16 => .roomSet p body
  | 0x17 => .timeSet p body
  | 0x20 => .accountPut p body
  | 0x21 => .accountCredit p body
  | 0x22 => .accountState p body
  | 0x23 => .accountRemove p body
  | 0x24 => .accountRead p body
  | 0x28 => .settlementRead p body
  | 0x29 => .settlementRelease p body
  | 0x30 => .slotServiceTake p body
  | 0x31 => .slotStop p body
  | 0x38 => .faultsRead p body
  | 0x39 => .historyRead p body
  | 0x3A => .faultClear p body
  | 0x40 => .budgetSet p body
  | 0x41 => .grantsRead p body
  | 0x48 => .waitlistRead p body
  | 0x49 => .waitlistRemove p body
  | 0x50 => .roomMode p body
  | 0x51 => .roomResume p body
  | 0x58 => .senseRead p body
  | 0x60 => .restart p body
  | _ => .unknownKindRequest p kind body

/-- The command of a broadcast's kind (R191). -/
def broadcastCommand (p : Port) (kind : Byte) (body : List Byte) : Instr :=
  match kind.toNat with
  | 0x17 => .broadcastTimeSet p body
  | 0x40 => .broadcastBudgetSet p body
  | _ => .broadcastDropped p kind body

end Sys2Proof.Machine
end

