-- ==== Sys2Proof/Certificates/Slice0/Obligations.lean ====
section
/-!
DEFINITION. What is claimed of the LC24, rule by rule. Every command completes in one of these statements; what a command
leaves alone is said with it (`State.outside`, `State.cycleEnded`, an equation of states).
-/

section
open Sys2Proof Sys2Proof.Machine

/-! ### A step, power and start-up -/

/-- A step runs the command at the front of the queue on the state with the queue's rest; with none the replies that are built
begin (R189), and nothing else changes (the model's choice, log 29, log 40). -/
def Obligations.StepTakesTheFront : Prop :=
  (∀ (c : Instr) (q : List Instr) (s : State), s.pending = c :: q → step s = exec c { s with pending := q }) ∧
  ∀ s : State, s.pending = [] →
    (s.life ≠ .running → step s = .next s) ∧
    (s.life = .running → ∃ t, step s = .next t ∧ { t with building := s.building, service := s.service } = s ∧
      ∀ p, (∀ r, (s.port p).activity = .built r → t.port p = { s.port p with activity := .sending r }) ∧
        ((∀ r, (s.port p).activity ≠ .built r) → t.port p = s.port p))

/-- A power loss abandons the writes in progress, and nothing acts until the next start-up (log 5, log 8). -/
def Obligations.NothingActsWithoutPower : Prop :=
  (∀ s : State, exec .powerLoss s = .next { s with life := .waiting, writes := [] }) ∧
  ∀ (c : Instr) (s : State), s.life = .waiting → (∀ i, c ≠ .startUp i) → c ≠ .powerLoss → exec c s = .next s

/-- A marginal strap is read again, up to four readings in all. The reading that ends the strap's gives the unit address and what
`State.startedFrom` says of the store as the start-up found it: START_UP at power-on finds it as it stands, after a RESTART with
every change in progress done, and at the RESET pin with as many of them done as a free value says (log 9). A record that passes
its check stays, a failed one is repaired; a hold that failed, or whose account is FREE or SUSPECT or whose slot has no class, is
dropped; a settlement queue with a good header keeps its records; every slot is in its start state (R135, R183, R196, R206 to
R209; when the repairs are written is log 10). STRAP_REREAD with no reading due changes nothing (log 1). -/
def Obligations.StartUpGivesTheStartStates : Prop :=
  ∀ (s : State) (i : StartInput), s.store.inOrder →
    let guard := ∃ j, 1 ≤ j ∧ j ≤ 7 ∧ 512 * j ≤ i.count + 32 ∧ i.count ≤ 512 * j + 32
    (∀ d : Store, d = (match s.life with
        | .waiting | .strap _ => s.store
        | .running => (s.writes.take (Config.writesDoneAtReset s.free)).foldl Store.applyAll s.store
        | .restartDue => s.writes.foldl Store.applyAll s.store) →
      ∀ u : State, u = { State.reset with
        unit := s.unit, strapMarginal := s.strapMarginal, store := d, pending := s.pending,
        free := if s.life = .running then s.free + 1 else s.free } →
      (guard → exec (.startUp i) s = .next { u with life := .strap 1 }) ∧
      (¬ guard → ∃ t, exec (.startUp i) s = .next t ∧ u.startedFrom d i t)) ∧
    (∀ k, s.life = .strap k →
      (guard → k < 3 → exec (.strapReread i) s = .next { s with life := .strap (k + 1) }) ∧
      (¬ guard ∨ 3 ≤ k → ∃ t, exec (.strapReread i) s = .next t ∧ s.startedFrom s.store i t)) ∧
    ((∀ k, s.life ≠ .strap k) → exec (.strapReread i) s = .next s)

/-! ### The terminal bus -/

/-- With no winner and no broadcast before it, the rotation polls the next PRESENT terminal after its position; with none left the
rotation ends, and the next one begins at once. After every tenth rotation one probe goes to the next terminal from the probe
pointer on that is not PRESENT, unless every one is; with no PRESENT terminal the probes follow one another. Either poll clears
its terminal's deferral flag (R36 to R38; that a due probe lapses where none is left at its turn is log 18). -/
def Obligations.PollTurns : Prop :=
  ∀ (s : State) (t : Fin 16), s.life = .running → s.bus.turn = .between → s.bus.winner = none → s.bus.broadcast = false →
    let polls : PollKind → Bus → Host.Outcome State Fault Refusal := fun k b =>
      .next { s.modTerminal t (fun x => { x with deferral := false }) with
        bus := { b with turn := .exchange t k, sent := s.pollFrame t k } }
    let next := (s.terminal t).presence = .present ∧ ∀ u < t, s.bus.position < u → (s.terminal u).presence ≠ .present
    let first := (s.terminal t).presence = .present ∧ ∀ u < t, (s.terminal u).presence ≠ .present
    let gone := ∀ u, s.bus.position < u → (s.terminal u).presence ≠ .present
    (s.bus.probeDue = false →
      (s.bus.position < t ∧ next ∨ s.bus.position = 15 ∧ first →
        exec .rotationPoll s = polls .rotation { s.bus with
          position := t, count := if t = 15 then (if s.bus.count + 1 < 10 then s.bus.count + 1 else 0) else s.bus.count,
          probeDue := decide (t = 15 ∧ 10 ≤ s.bus.count + 1 ∧ ∃ u, (s.terminal u).presence ≠ .present) }) ∧
      (s.bus.position ≠ 15 → gone → first → s.bus.count + 1 < 10 →
        exec .rotationPoll s = polls .rotation { s.bus with position := t, count := s.bus.count + 1 })) ∧
    (∀ j : Fin 16, t = s.bus.pointer + j → (s.terminal t).presence ≠ .present →
      (∀ k < j, (s.terminal (s.bus.pointer + k)).presence = .present) →
      (s.bus.probeDue = true →
        exec .probePoll s = polls .probe { s.bus with probeDue := false, pointer := t + 1 }) ∧
      (s.bus.probeDue = false →
        (∀ u, (s.terminal u).presence ≠ .present) ∨ s.bus.position ≠ 15 ∧ gone ∧ 10 ≤ s.bus.count + 1 →
        exec .probePoll s = polls .probe { s.bus with position := 15, count := 0, pointer := t + 1 })) ∧
    (s.bus.probeDue = true → (∀ u, (s.terminal u).presence = .present) → t = s.bus.position + 1 →
      exec .probePoll s = .next s ∧
      exec .rotationPoll s = polls .rotation { s.bus with
        position := t, count := if t = 15 then (if s.bus.count + 1 < 10 then s.bus.count + 1 else 0) else s.bus.count,
        probeDue := false })

/-- An accepted winner has the first turn, and its poll sets its deferral flag; a pending broadcast has the next (R36, R44,
R53). The command of a poll whose turn it is not leaves the state as it is (the model's choice, log 1). -/
def Obligations.TurnsAheadOfTheRotation : Prop :=
  ∀ s : State, s.life = .running → s.bus.turn = .between →
    (∀ t, s.bus.winner = some t →
      exec .outOfTurnPoll s = .next { s.modTerminal t (fun x => { x with deferral := true }) with
        bus := { s.bus with turn := .exchange t .outOfTurn, sent := s.pollFrame t .outOfTurn, winner := none } } ∧
      exec .rotationPoll s = .next s ∧ exec .probePoll s = .next s ∧ exec .broadcastDisplay s = .next s) ∧
    (s.bus.winner = none → s.bus.broadcast = true →
      exec .broadcastDisplay s = .next { s with
        bus := { s.bus with
          broadcast := false, sent := broadcastFrame (s.room.state.display.getD .blank) } } ∧
      exec .rotationPoll s = .next s ∧ exec .probePoll s = .next s ∧ exec .outOfTurnPoll s = .next s)

/-- A poll that draws no good reply is a miss: a PRESENT terminal's count rises; on another nothing changes. The exchange
ends, and its contention window opens (R39, R40). -/
def Obligations.MissesAreCounted : Prop :=
  ∀ (s : State) (t : Fin 16) (k : PollKind) (c : Instr), s.life = .running → s.bus.turn = .exchange t k →
    (c = .malformedReply ∨ c = .replyTimeout ∨ (∃ a, c = .frameGapTimeout .bus a) ∨
      ∃ chars, c = .terminalReply chars ∧ goodReply t chars = none) →
    ((s.terminal t).presence ≠ .present → exec c s = .next { s with bus := { s.bus with turn := .window } }) ∧
    ((s.terminal t).presence = .present → (s.terminal t).misses < 2 →
      exec c s = .next { s.modTerminal t (fun x => { x with misses := x.misses + 1 }) with
        bus := { s.bus with turn := .window } })

/-- The third miss in a row, whichever way the reply is missed, makes a terminal LOST: every slot on its halves has its cycle
ended and goes OUT_OF_SERVICE with TERMINAL_LOST in its cause set (R31, R39, R40, R141). That TERMINAL_PRESENCE stands ahead of
the events of the other blocks, which R198 leaves open, is the model's choice (log 12). -/
def Obligations.ThirdMissLosesTheTerminal : Prop :=
  ∀ (s : State) (t : Fin 16) (k : PollKind) (c : Instr), s.heatLaw → s.busyLaw → s.life = .running →
    s.bus.turn = .exchange t k →
    (c = .malformedReply ∨ c = .replyTimeout ∨ (∃ a, c = .frameGapTimeout .bus a) ∨
      ∃ chars, c = .terminalReply chars ∧ goodReply t chars = none) →
    (s.terminal t).presence = .present → 2 ≤ (s.terminal t).misses →
    ∃ u, exec c s = .next u ∧ u.bus = { s.bus with turn := .window } ∧ (u.terminal t).presence = .lost ∧
      s.told (.terminalPresence t .lost) u ∧
      ∀ n h, s.slotAt t h = some n → (s.slot n).state ≠ .unconfigured → (s.slot n).causes.lost = false →
        u.hold n = none ∧ (u.slot n).state = .outOfService ∧ (u.slot n).causes = { (s.slot n).causes with lost := true }

/-- A contention window is read by majority; its winner is accepted when it is PRESENT with its deferral flag clear (R43,
R44). -/
def Obligations.ContentionWindowIsRead : Prop :=
  ∀ (s : State) (start a3 a2 a1 a0 : BitVec 3) (t : Fin 16), s.life = .running → s.bus.turn = .window →
    t.val = 8 * bit (majority a3) + 4 * bit (majority a2) + 2 * bit (majority a1) + bit (majority a0) →
    exec (.contentionWindow start a3 a2 a1 a0) s = .next { s with bus := { s.bus with
      turn := .between,
      winner := if majority start = false ∧ (s.terminal t).presence = .present ∧ (s.terminal t).deferral = false then
        some t else none } }

/-- A brief display's deadline puts the lasting display back under a new number (R51; log 3). -/
def Obligations.BriefDisplayEnds : Prop :=
  ∀ (s : State) (t : Fin 16) (h : Half) (d : Nat), s.life = .running → (s.half t h).brief = some d → d ≤ s.elapsed →
    exec (.briefDeadline t h) s = .next (s.modHalf t h fun e =>
      { e with pending := e.lasting, number := (e.number + 1) % 256, brief := none })

/-- A good reply makes its terminal PRESENT with no misses, replaces both halves' last reports, takes the tag of new latched
events, and opens the window: heard, its reports, then its events, in this order (log 15). Outside what the blocks act on
nothing else changes (R41, R42). A report goes to the slot configured on its half, which takes its view and then acts by its
state: LOCKING (R13, R14), RUNNING and AWAIT_POWER (R16, R17), FINISHING, FAULTED and COLLECT (R28, R29); a forced door and a
machine in ERROR raise their faults at their onset (R22, R23); a RECOVERING slot is decided, and the report then acted on
(R210). A terminal heard again tells its presence; at its return from LOST TERMINAL_LOST leaves the sets of its slots, their
entries are LATCHED, and a slot whose set is then empty goes to IDLE and is offered (R5, R30, R41, R141). Latched events under a
new tag go to each half's slot as stop press, start press and tap, half A first, and are discarded where the half has none; under
the tag taken last, or with no event flagged, nothing is taken (R42). That TERMINAL_PRESENCE stands ahead of the events of the
other blocks, which R198 leaves open, is the model's choice (log 12). -/
def Obligations.GoodReplyIsHeard : Prop :=
  (∀ (s : State) (t : Fin 16) (k : PollKind) (chars : List RxChar) (r : TerminalReply), s.life = .running →
    s.bus.turn = .exchange t k → goodReply t chars = some r →
    ∃ u, exec (.terminalReply chars) s = .next u ∧ u = (((s.hearTerminal t).takeReports t r).takeTagged t r).endExchange ∧
      u.outside = State.outside { s.modTerminal t (fun x => { x with
        presence := .present, misses := 0, halfA := { x.halfA with report := some r.a.view },
        halfB := { x.halfB with report := some r.b.view },
        tag := if (r.a.flagged || r.b.flagged) = true then r.tag else x.tag,
        tagValid := x.tagValid || r.a.flagged || r.b.flagged }) with
        bus := { s.bus with turn := .window } }) ∧
  (∀ (s : State) (t : Fin 16) (h : Half) (before : Option View) (v : View),
    (∀ n, s.slotAt t h = some n → s.handReport t h before v = s.report n (before.getD .start) v) ∧
    (s.slotAt t h = none → s.handReport t h before v = s)) ∧
  (∀ (s : State) (t : Fin 16), s.heatLaw → s.busyLaw → let u := s.hearTerminal t
    let heard := s.modTerminal t fun x => { x with presence := .present, misses := 0 }
    ((s.terminal t).presence = .present → u = heard) ∧
    ((s.terminal t).presence = .absent → u = heard.post (.terminalPresence t .present)) ∧
    ((s.terminal t).presence = .lost → s.told (.terminalPresence t .present) u ∧ s.booksKept u ∧
      u.faults = { s.faults with table := s.faults.table.map fun x =>
        if x.code = .terminalLost ∧ (x.source.any fun n => (s.slot n).cfg.any fun c => c.term = t) = true then
          { x with condition := .latched } else x } ∧
      (∀ n h, s.slotAt t h = some n →
        (u.slot n).causes = { (s.slot n).causes with lost := false } ∧
        ((s.slot n).state = .outOfService →
          if (s.slot n).causes.lost = true ∧ ({ (s.slot n).causes with lost := false } : Causes).isEmpty = true then
            (u.slot n).state = .idle ∨ (u.slot n).state = .reserved else (u.slot n).state = .outOfService)) ∧
      (∀ n, (∀ c, (s.slot n).cfg = some c → c.term ≠ t) → (s.slot n).bystander (u.slot n)) ∧
      u.outside = heard.outside)) ∧
  (∀ (s : State) (t : Fin 16) (r : TerminalReply),
    let events := r.a.stop || r.a.start || r.a.tap || r.b.stop || r.b.start || r.b.tap
    let taken := (s.terminal t).tagValid = true ∧ (s.terminal t).tag = r.tag
    (events = false ∨ taken → s.takeTagged t r = s) ∧
    (events = true → ¬ taken → s.takeTagged t r =
      ((s.modTerminal t fun x => { x with tag := r.tag, tagValid := true }).handEvents t .a r.a).handEvents t .b r.b)) ∧
  (∀ (s : State) (t : Fin 16) (h : Half) (r : HalfReply),
    (s.slotAt t h = none → s.handEvents t h r = s) ∧
    ∀ n, s.slotAt t h = some n → ∀ a b, a = (if r.stop then s.stopPress n else s) →
      b = (if r.start then a.startPress n else a) → s.handEvents t h r = if r.tap then b.tap n r.card else b) ∧
  ∀ (s : State) (n : Fin 24) (c : Fin 4) (before v : View), s.heatLaw → s.busyLaw → s.slotCls n = some c →
    let x := s.slot n
    let t := s.report n before v
    let doors := v.forced = true ∧ before.forced = false ∧ x.state.forcible = true
    let errs := v.status = .error ∧ before.status ≠ .error
    ∃ u, s.took n v u ∧
      -- no fault
      (¬ doors → ¬ errs →
        (x.state = .unconfigured ∨ x.state = .outOfService ∨ x.state = .idle ∨ x.state = .reserved ∨ x.state = .armed ∨
          x.state = .suspended → t = u) ∧
        (x.state = .locking → ∀ h, s.hold n = some h →
          (v.lock = .locked → v.doorOpen = false →
            (t.slot n).state.heated ∧ t.hold n = some h ∧ s.booksKept t ∧
            (match s.kind n with
              | .washer => (t.slot n).bare = { (u.slot n).bare with
                  run := 0, phase := v.phase, heatReq := v.heat,
                  warning := x.warning || decide (h.snap.planned ≤ 60 * (s.cls c).warning) }
              | .dryer => (t.slot n).bare = { (u.slot n).bare with
                  remaining := h.snap.planned, cool := (s.cls c).cool, phase := .dry, heatReq := true,
                  warning := x.warning ||
                    decide (h.snap.planned + 60 * x.topUp + (s.cls c).cool ≤ 60 * (s.cls c).warning) }) ∧
            (t.asked n ↔ (t.slot n).heatReq = true)) ∧
          (v.doorOpen = true → v.lock ≠ .locked →
            (t.slot n).state = .armed ∧ (t.slot n).timer = some (s.elapsed + 180) ∧
            (t.slot n).outputs = ⟨false, false, false⟩ ∧ (t.slot n).bare = (u.slot n).bare ∧ s.booksKept t) ∧
          (v.doorOpen = true ∧ v.lock = .locked ∨ v.doorOpen = false ∧ v.lock ≠ .locked → t = u)) ∧
        (x.state.heated → s.kind n = .dryer → t = u) ∧
        (x.state.heated → s.kind n = .washer →
          (v.status = .done → ∀ h, s.hold n = some h → u.cycleEnded n h .completed none .finishing t) ∧
          (v.status ≠ .done →
            (v.heat = x.heatReq → t = u) ∧
            (v.heat = true → x.heatReq = false → x.state = .running →
              (t.slot n).state.heated ∧ t.asked n ∧ s.booksKept t ∧ (t.slot n).bare = (u.slot n).bare) ∧
            (v.heat = false → x.heatReq = true → x.state = .awaitPower ∨ x.heatGrant = true →
              (t.slot n).state = .running ∧ ¬ t.asked n ∧ (t.slot n).outputs = ⟨true, true, false⟩ ∧ s.booksKept t ∧
              (t.slot n).bare = (u.slot n).bare))) ∧
        (x.state = .finishing ∨ x.state = .faulted →
          t.unlocked n x.state v ∧ (v.lock ≠ .unlocked → t = u) ∧ s.booksKept t ∧ (t.slot n).bare = (u.slot n).bare) ∧
        (x.state = .collect → (v.doorOpen = false → t = u) ∧
          (v.doorOpen = true → u.offered n t ∧ s.booksKept t ∧ (t.slot n).bare = (u.slot n).bare))) ∧
      -- faults
      (doors → x.state.busy = true → ∀ h, s.hold n = some h →
        u.cycleEnded n h .userStop (some (.doorForced, none)) .faulted t ∧ (¬ errs → u.raisedAt n .doorForced none t)) ∧
      (doors → x.state.busy = false → ¬ errs → u.raisedAt n .doorForced none t ∧ s.holds = t.holds ∧ s.accounts = t.accounts) ∧
      (errs → ¬ doors → x.state ≠ .recovering → u.raisedAt n .machineError (some v.errorCode) t ∧
        (∀ h, s.hold n = some h → u.cycleEnded n h .fault (some (.machineError, some v.errorCode)) .faulted t) ∧
        (s.hold n = none → s.holds = t.holds ∧ s.accounts = t.accounts)) ∧
      -- recovery
      (x.state = .recovering → ∀ h, s.hold n = some h →
        (v.status = .running → x.causes.isEmpty = true → before.forced = true ∨ v.forced = false →
          (s.room.state ≠ .suspended → s.room.state ≠ .held → (t.slot n).state.heated ∧ (t.asked n ↔ (t.slot n).heatReq = true)) ∧
          (s.room.state = .suspended ∨ s.room.state = .held →
            (s.room.timer ≠ .reached → (t.slot n).state = .suspended) ∧
            (s.room.timer = .reached → s.settledAs n .abandoned none t ∧ t.unlocked n .finishing v)) ∧
          (s.room.state ≠ .suspended ∧ s.room.state ≠ .held ∨ s.room.timer ≠ .reached → t.hold n = some h ∧
            (match s.kind n with
              | .washer => (t.slot n).bare = { (u.slot n).bare with
                  phase := v.phase, heatReq := v.heat,
                  resume := if (t.slot n).state = .suspended then some .running else x.resume }
              | .dryer => ∀ q, q = h.snap.planned + 60 * h.steps * h.snap.step → (t.slot n).bare = { (u.slot n).bare with
                  remaining := q - x.run, topUp := 0, cool := (s.cls c).cool, phase := if x.run < q then .dry else .cool,
                  heatReq := decide (x.run < q),
                  resume := if (t.slot n).state = .suspended then some .running else x.resume }))) ∧
        (v.status = .running → x.causes.isEmpty = true → before.forced = false → v.forced = true →
          s.room.state ≠ .suspended ∧ s.room.state ≠ .held ∨ s.room.timer ≠ .reached →
          s.settledAs n .userStop (some (.doorForced, none)) t ∧ (t.slot n).state = .faulted) ∧
        (v.status = .running ∧ x.causes.isEmpty = false ∨ v.status = .idle ∨ v.status = .error ∨
            v.status = .done ∧ s.kind n = .dryer →
          s.settledAs n .outage none t ∧ t.unlocked n .faulted v) ∧
        (v.status = .done → s.kind n = .washer → s.settledAs n .outageComplete none t ∧ t.unlocked n .finishing v))

/-- A reply put on the line by its terminal is received as it was: receiver, frame assembly, check and fields agree with what
the terminal sends (R39, R54 to R57, R59; log 27). -/
def Obligations.ReplyRoundTrip : Prop :=
  ∀ (t : Fin 16) (r : TerminalReply), r.ok = true → goodReply t (replyLine t r) = some r

/-- A character is received whatever its data, and also with any one of its samples the other way; with fewer than three high
samples before it no start is found (R55, R56; log 27). -/
def Obligations.ReceiverTakesOneBadSample : Prop :=
  ∀ (g q : Nat) (c : Character), (3 ≤ q → receive { cleanChar g c with quiet := q } = .char c.data c.ninth ∧
      ∀ k < 33, receive { cleanChar g c with quiet := q, samples := (cleanChar g c).samples ^^^ (1 <<< k) } =
        .char c.data c.ninth) ∧
    (q < 3 → receive { cleanChar g c with quiet := q } = .nothing)

/-! ### Time at the slots -/

/-- The deadlines of ARMED and RECOVERING and the end of the cool-down end the cycle, NOT_STARTED into IDLE, OUTAGE into
FAULTED, COMPLETED into FINISHING: the settlement is one change of the store, CYCLE_END the first event (R12, R20, R91, R210;
log 3). -/
def Obligations.TimersEndCycles : Prop :=
  ∀ (s : State) (n : Fin 24) (h : Hold) (c : Instr) (r : Reason) (st : SlotState), s.heatLaw → s.busyLaw →
    s.life = .running → s.hold n = some h →
    ((∃ d, (s.slot n).timer = some d ∧ d ≤ s.elapsed ∧
        (c = .armedDeadline n ∧ (s.slot n).state = .armed ∧ r = .notStarted ∧ st = .idle ∨
          c = .recoveryDeadline n ∧ (s.slot n).state = .recovering ∧ r = .outage ∧ st = .faulted)) ∨
      c = .coolDownEnd n ∧ (s.slot n).state = .running ∧ s.kind n = .dryer ∧ (s.slot n).phase = .cool ∧
        (s.slot n).cool = 0 ∧ r = .completed ∧ st = .finishing) →
    ∃ t, exec c s = .next t ∧ s.cycleEnded n h r none st t ∧ s.told (.cycleEnd n s.settlement.next) t ∧
      t.writes = s.writes ++ [[.account h.account (t.account h.account), .hold n none,
        .place (s.settlement.place s.settlement.records.length) (some (s.settlementRecord n h r none)),
        .header t.settlement.header]]

/-- The LOCKING deadline raises LOCK_FAIL, and a washer past 2 × P raises OVERRUN: FAULT_RAISED is queued, the cycle ends
FAULT into FAULTED, and FAULT_LOCKOUT joins the cause set for LOCK_FAIL, and for OVERRUN from its third occurrence on (R13,
R15, R138, R140; log 3). -/
def Obligations.FaultTimersEndCycles : Prop :=
  ∀ (s : State) (n : Fin 24) (h : Hold) (c : Instr) (f : FaultCode), s.heatLaw → s.busyLaw → s.life = .running →
    s.hold n = some h →
    (c = .lockingDeadline n ∧ f = .lockFail ∧ (s.slot n).state = .locking ∧
        (∃ d, (s.slot n).timer = some d ∧ d ≤ s.elapsed) ∨
      c = .overrun n ∧ f = .overrun ∧ s.kind n = .washer ∧ 2 * h.snap.planned < (s.slot n).run) →
    let k := (s.faults.find (some n) f).elim 1 fun e => min 255 (e.occurrences + 1)
    ∃ t, exec c s = .next t ∧ s.cycleEnded n h .fault (some (f, none)) .faulted t ∧
      (t.slot n).causes = { (s.slot n).causes with
        lockout := (s.slot n).causes.lockout || f == .lockFail || decide (3 ≤ k) } ∧
      ((s.faults.find (some n) f).isSome ∨ s.faults.table.length < 32 →
        s.told (.faultRaised (some n) f none k (if f = .lockFail ∨ 3 ≤ k then .lockout else .stop) false) t)

/-- The deadline of FINISHING or FAULTED raises UNLOCK_FAIL, with an open entry of LOCKOUT severity and FAULT_RAISED:
FAULT_LOCKOUT joins the cause set and the slot enters OUT_OF_SERVICE at the raise; no hold, account or settlement record changes
(R28; log 3). -/
def Obligations.UnlockDeadlineLocksTheSlotOut : Prop :=
  ∀ (s : State) (n : Fin 24) (d : Nat), s.heatLaw → s.busyLaw → s.life = .running →
    (s.slot n).state = .finishing ∨ (s.slot n).state = .faulted → (s.slot n).timer = some d → d ≤ s.elapsed →
    ∃ t, exec (.unlockDeadline n) s = .next t ∧ s.raisedAt n .unlockFail none t ∧ (t.slot n).state = .outOfService ∧
      (t.slot n).causes = { (s.slot n).causes with lockout := true } ∧ (t.slot n).outputs = ⟨false, false, false⟩ ∧
      (t.slot n).timer = none ∧ t.accounts = s.accounts ∧ t.holds = s.holds ∧ t.settlement = s.settlement ∧
      (∀ m, m ≠ n → (s.slot m).bystander (t.slot m)) ∧ t.queues = s.queues ∧ t.outside = s.outside

/-- The collect window's deadline moves a slot from COLLECT to IDLE, which offers it to its class queue (R5, R29, R162; log
3). -/
def Obligations.CollectWindowFreesTheSlot : Prop :=
  ∀ (s : State) (n : Fin 24) (d : Nat), s.heatLaw → s.busyLaw → s.life = .running → (s.slot n).state = .collect →
    (s.slot n).timer = some d → d ≤ s.elapsed →
    ∃ t, exec (.collectWindowExpiry n) s = .next t ∧ s.offered n t ∧ s.booksKept t ∧ t.faults = s.faults ∧
      (t.slot n).bare = (s.slot n).bare ∧ (∀ m, m ≠ n → (s.slot m).bystander (t.slot m)) ∧ t.outside = s.outside

/-- An elapsed second: a RUNNING washer's run seconds rise; a RUNNING dryer loses a paid second and gains a run second in DRY
and loses a cool second in COOL, unless an end already reached awaits its own command (log 4); no other slot counts; run seconds
are stored at each whole minute; and lifetimes and windows fall while the room is OPEN (R15, R20, R78, R161, R163). At a counted
second whose estimate is at or below the class's warning minutes compare point A sets the warning flag, the first time in a
cycle, and the first entry of the class queue that was not told yet is told by WAITLIST_SOON (R25, R165). Where one second sets the flags of
several slots, they are taken in ascending slot order, which no rule gives and is the model's choice (log 45). -/
def Obligations.SecondIsCounted : Prop :=
  (∀ (s : State) (n : Fin 24) (c : Fin 4), s.slotCls n = some c → let t := s.pointA n
    ((s.slot n).warning = true ∨ 60 * (s.cls c).warning < s.estimate n → t = s) ∧
    ((s.slot n).warning = false → s.estimate n ≤ 60 * (s.cls c).warning →
      (∀ m, t.slot m = if m = n then { s.slot n with warning := true } else s.slot m) ∧
      { t with slots := s.slots, queues := s.queues, events := s.events } = s ∧
      (∀ k e, (s.queue c)[k]? = some e → e.notified = false →
        (∀ j x, j < k → (s.queue c)[j]? = some x → x.notified = true) →
        s.told (.waitlistSoon e.card n (((s.estimate n).toNat + 59) / 60)) t ∧
        ∀ d, t.queue d = if d = c then (s.queue c).set k { e with notified := true } else s.queue d) ∧
      ((∀ e ∈ s.queue c, e.notified = true) → t.queues = s.queues ∧ t.events = s.events))) ∧
  ∀ s : State, s.life = .running → ∃ t, exec .runSecond s = .next t ∧ t.elapsed = s.elapsed + 1 ∧
    (∀ n, ∃ w, ∃ counts : Bool,
      (counts = true ↔ (s.slot n).state = .running ∧ s.endDue n = false ∧
        (s.kind n = .washer ∨ (s.slot n).phase = .dry ∨ (s.slot n).phase = .cool)) ∧
      (s.kind n = .washer ∨ (s.slot n).phase = .dry ∨ (s.slot n).phase = .cool → (w = true ↔ (s.slot n).warning = true ∨
        counts = true ∧ ∃ c, s.slotCls n = some c ∧ t.estimate n ≤ 60 * (s.cls c).warning)) ∧
      t.slot n = { s.slot n with
        warning := w,
        run := (s.slot n).run + (if counts ∧ (s.kind n = .washer ∨ (s.slot n).phase = .dry) then 1 else 0),
        remaining := (s.slot n).remaining - (if counts ∧ s.kind n = .dryer ∧ (s.slot n).phase = .dry then 1 else 0),
        cool := (s.slot n).cool - (if counts ∧ s.kind n = .dryer ∧ (s.slot n).phase = .cool then 1 else 0),
        reservation := (s.slot n).reservation.map fun r =>
          { r with window := r.window - if s.room.state = .openRoom then 1 else 0 } } ∧
      t.hold n = (s.hold n).map fun h =>
        if (t.slot n).run ≠ (s.slot n).run ∧ (t.slot n).run % 60 = 0 then { h with storedRun := (t.slot n).run } else h) ∧
    (∀ c, (t.queue c).map (fun e => (e.card, e.account, e.joined, e.lifetime)) = (s.queue c).map fun e =>
      (e.card, e.account, e.joined, e.lifetime - if s.room.state = .openRoom then 1 else 0)) ∧
    (∀ warned, warned = (allSlots.filter fun n => (t.slot n).warning && !(s.slot n).warning) →
      (∀ c k e, (s.queue c)[k]? = some e → (t.queue c)[k]?.map (fun x => x.notified) = some (e.notified ||
        decide (((s.queue c).take k).countP (fun x => !x.notified) < warned.countP fun n => s.slotCls n == some c))) ∧
      (s.events.queue.length ≤ 40 → t.events.queue.map (fun e => e.body) =
        s.events.queue.map (fun e => e.body) ++ warned.filterMap fun n => (s.slotCls n).bind fun c =>
          (((s.queue c).filter fun e => !e.notified)[warned.countP fun m => decide (m < n) && s.slotCls m == some c]?).map
            fun e => .waitlistSoon e.card n (((t.estimate n).toNat + 59) / 60))) ∧
    t.accounts = s.accounts ∧ t.settlement = s.settlement ∧ t.gov = s.gov ∧ t.faults = s.faults ∧
    t.outside = State.outside { s with elapsed := s.elapsed + 1 }

/-- A dryer with no paid seconds left takes its pending top-up minutes, or, with none, changes to COOL and gives its heat up
(R20). -/
def Obligations.PaidSecondsRunOut : Prop :=
  ∀ (s : State) (n : Fin 24), s.life = .running → (s.slot n).state = .running → s.kind n = .dryer →
    (s.slot n).phase = .dry → (s.slot n).remaining = 0 →
    (0 < (s.slot n).topUp →
      exec (.paidSecondsExhausted n) s =
        .next (s.modSlot n fun x => { x with remaining := 60 * x.topUp, topUp := 0 })) ∧
    ((s.slot n).topUp = 0 → s.heatLaw → s.busyLaw → ∀ c, s.slotCls n = some c →
      ∃ t, exec (.paidSecondsExhausted n) s = .next t ∧ (t.slot n).state = .running ∧ (t.slot n).heatGrant = false ∧
        ¬ t.asked n ∧ (t.slot n).bare = { (s.slot n).bare with phase := .cool, cool := (s.cls c).cool, heatReq := false } ∧
        s.booksKept t ∧ (∀ m, m ≠ n → (s.slot m).bystander (t.slot m)) ∧ t.queues = s.queues ∧ t.outside = s.outside)

/-- A waitlist entry whose lifetime has run out leaves its queue, told by EXPIRED. A reservation whose window has run out is
told by EXPIRED, and its slot goes to the head entry of its class queue, or to IDLE with none (R161, R163; log 3). -/
def Obligations.WaitlistPlacesExpire : Prop :=
  (∀ (s : State) (c : Fin 4) (k : Nat) (e : WaitEntry), s.life = .running → (s.queue c)[k]? = some e → e.lifetime = 0 →
    ∃ t, exec (.waitlistEntryExpiry c (k + 1)) s = .next t ∧ s.told (.entryExpired e.card c (k + 1)) t ∧
      (∀ d, t.queue d = if d = c then (s.queue c).take k ++ (s.queue c).drop (k + 1) else s.queue d) ∧
      { t with queues := s.queues, events := s.events } = s) ∧
  ∀ (s : State) (n : Fin 24) (r : Reservation) (c : Fin 4), s.heatLaw → s.busyLaw → s.life = .running →
    (s.slot n).state = .reserved → (s.slot n).reservation = some r → s.slotCls n = some c → r.window = 0 →
    ∃ t, exec (.reservationExpiry n) s = .next t ∧ s.told (.reservationExpired r.card c n) t ∧ s.offered n t ∧
      s.booksKept t ∧ (∀ m, m ≠ n → (s.slot m).bystander (t.slot m)) ∧
      (s.queue c = [] → (t.slot n).reservation = none) ∧ t.outside = s.outside

/-! ### Taps and presses -/

/-- A tap that passes every check of a start, in an OPEN room on an IDLE slot or on one RESERVED for the card: the hold is
filled, the account's held amount raised by the price, both in one change of the store, and the slot enters ARMED with its
counters clear (R8, R9, R73 to R75). A tap by the hold's card that passes every check of a top-up raises k, the amount, the
account's held amount and the slot's pending minutes together (R19, R76, R77). A tap by another card on a busy slot, with no
slot of the class to go to, that passes every check of a join adds an entry at the tail of the class queue (R10, R160). -/
def Obligations.AcceptedTapPlacesTheHold : Prop :=
  (∀ (s : State) (n : Fin 24) (card i : Nat) (c : Fin 4), s.heatLaw → s.busyLaw → s.room.state = .openRoom →
    ((s.slot n).state = .idle ∨ (s.slot n).state = .reserved ∧ (s.slot n).reservationCard = card) →
    s.slotCls n = some c → s.findCard card = some i → (s.account i).state = .active →
    s.settlement.records.length + s.holdCount < 64 → s.currentPrice c ≤ (s.account i).available →
    let a := if (s.account i).cap = 0 then s.account i else (s.account i).rolled s.clock.day
    (a.cap = 0 ∨ a.spent + a.held + s.currentPrice c ≤ a.cap) →
    s.gov.motor + (s.govClass c).motor + s.gov.stray ≤ s.settings.governor.budget →
    let h : Hold := ⟨i, card, s.currentPrice c, s.snapshot c, 0, 0, s.clock.day, s.clock.second⟩
    let b := { a with held := a.held + s.currentPrice c }
    (∀ m, (s.tap n card).hold m = if m = n then some h else s.hold m) ∧
    (∀ j, (s.tap n card).account j = if j = i then b else s.account j) ∧
    (s.tap n card).writes = s.writes ++ [[.hold n (some h), .account i b]] ∧
    (s.tap n card).settlement = s.settlement ∧ ((s.tap n card).slot n).state = .armed ∧
    ((s.tap n card).slot n).timer = some (s.elapsed + 180) ∧ ((s.tap n card).slot n).reservation = none ∧
    ((s.tap n card).slot n).bare = { (s.slot n).bare with
      run := 0, topUp := 0, remaining := 0, cool := 0, warning := false, phase := (s.kind n).startPhase } ∧
    (s.tap n card).faults = s.faults ∧ (s.tap n card).outside = s.outside) ∧
  (∀ (s : State) (n : Fin 24) (i : Nat) (c : SlotCfg) (h : Hold), s.room.state = .openRoom → (s.slot n).cfg = some c →
    s.kind n = .dryer → s.hold n = some h →
    ((s.slot n).state = .armed ∨ (s.slot n).state = .locking ∨ (s.slot n).state.heated ∧ (s.slot n).phase = .dry) →
    s.findCard h.card = some i → i = h.account → (s.account i).state = .active → (h.steps + 1) * h.snap.step ≤ 60 →
    h.snap.stepPrice ≤ (s.account i).available →
    let a := if (s.account i).cap = 0 then s.account i else (s.account i).rolled s.clock.day
    (a.cap = 0 ∨ a.spent + a.held + h.snap.stepPrice ≤ a.cap) →
    let t := s.tap n h.card
    let k := { h with steps := h.steps + 1, amount := h.amount + h.snap.stepPrice }
    let b := { a with held := a.held + h.snap.stepPrice }
    (∀ m, t.hold m = if m = n then some k else s.hold m) ∧ (∀ j, t.account j = if j = i then b else s.account j) ∧
    t.writes = s.writes ++ [[.hold n (some k), .account i b]] ∧
    (∀ m, t.slot m = if m = n then { s.slot n with topUp := (s.slot n).topUp + h.snap.step } else s.slot m) ∧
    ((s.slot n).state ≠ .running ∨ (s.half c.term c.half).lasting.code = .running →
      (t.half c.term c.half).pending = ⟨.topUpAdded, h.snap.step⟩) ∧
    ((s.slot n).state = .running → (t.half c.term c.half).lasting = ⟨.running, t.minutesLeft n⟩) ∧
    t.settlement = s.settlement ∧ t.events = s.events ∧ t.gov = s.gov ∧ t.queues = s.queues ∧ t.outside = s.outside) ∧
  ∀ (s : State) (n : Fin 24) (card i : Nat) (c : Fin 4), s.room.state = .openRoom → (s.slot n).state.busy = true →
    s.slotCls n = some c → (∀ h, s.hold n = some h → h.card ≠ card) →
    (∀ m, s.slotCls m = some c → (s.slot m).state ≠ .idle ∧
      ((s.slot m).state = .reserved → ∀ r, (s.slot m).reservation = some r → r.card ≠ card)) →
    s.findCard card = some i → (s.account i).state = .active → (∀ e ∈ s.queue c, e.card ≠ card) →
    s.currentPrice c ≤ (s.account i).available → (s.queue c).length < 8 →
    s.tap n card = (s.setQueue c (s.queue c ++ [⟨card, i, s.clock, 60 * s.settings.room.lifetime, false⟩])).showBrief n
      .waitlistPosition ((s.queue c).length + 1)

/-- A tap that fails a check of a start changes nothing but its display and, at the daily cap, a record's spend of a past day:
the first check that fails gives the display (R8, R9, R63, R74). So it is with a tap by the hold's card, a top-up on a dryer
or IN_USE (R8, R76), and with one by another card on a busy slot: FREE_AT with the slot reserved for it or with the lowest IDLE
slot of the class, else the join's answer (R10, R160). -/
def Obligations.RefusedTapOnlyShows : Prop :=
  ∀ (s : State) (n : Fin 24) (card : Nat),
    (s.room.state ≠ .openRoom → s.tap n card = s.showBrief n .roomClosed) ∧
    (s.room.state = .openRoom → ∀ (c : Fin 4) (h : Hold), s.slotCls n = some c → s.hold n = some h →
      (s.slot n).state.busy = true →
      let topUp := s.kind n = .dryer ∧ ((s.slot n).state = .armed ∨ (s.slot n).state = .locking ∨
        (s.slot n).state.heated ∧ (s.slot n).phase = .dry)
      (h.card = card →
        (¬ topUp → s.tap n card = s.showBrief n .inUse) ∧
        (topUp → (s.findCard card = none → s.tap n card = s.showBrief n .inUse) ∧
          ∀ i, s.findCard card = some i → let a := s.account i
            (i ≠ h.account → s.tap n card = s.showBrief n .inUse) ∧
            (i = h.account → a.state ≠ .active → s.tap n card = s.showBrief n .cardBlocked) ∧
            (i = h.account → a.state = .active →
              (60 < (h.steps + 1) * h.snap.step → s.tap n card = s.showBrief n .topUpLimit) ∧
              ((h.steps + 1) * h.snap.step ≤ 60 →
                (a.available < h.snap.stepPrice → s.tap n card = s.showBrief n .lowBalance) ∧
                (h.snap.stepPrice ≤ a.available → a.cap ≠ 0 → let b := a.rolled s.clock.day
                  a.cap < b.spent + b.held + h.snap.stepPrice →
                  s.tap n card = (if b = a then s else (s.setAccount i b).write [.account i b]).showBrief n .dailyCap))))) ∧
      (h.card ≠ card → let mine (m : Fin 24) := s.slotCls m = some c ∧ (s.slot m).state = .reserved ∧
          ∃ r, (s.slot m).reservation = some r ∧ r.card = card
        (∀ m, mine m → (∀ k < m, ¬ mine k) → s.tap n card = s.showBrief n .freeAt m.val) ∧
        ((∀ m, ¬ mine m) → let idle (m : Fin 24) := s.slotCls m = some c ∧ (s.slot m).state = .idle
          (∀ m, idle m → (∀ k < m, ¬ idle k) → s.tap n card = s.showBrief n .freeAt m.val) ∧
          ((∀ m, ¬ idle m) →
            (s.findCard card = none → s.tap n card = s.showBrief n .unknownCard) ∧
            ∀ i, s.findCard card = some i → let a := s.account i
              (a.state ≠ .active → s.tap n card = s.showBrief n .cardBlocked) ∧
              (a.state = .active →
                (∀ k e, (s.queue c)[k]? = some e → e.card = card →
                  (∀ j x, j < k → (s.queue c)[j]? = some x → x.card ≠ card) →
                  s.tap n card = s.showBrief n .waitlistPosition (k + 1)) ∧
                ((∀ e ∈ s.queue c, e.card ≠ card) →
                  (a.available < s.currentPrice c → s.tap n card = s.showBrief n .lowBalance) ∧
                  (s.currentPrice c ≤ a.available → 8 ≤ (s.queue c).length →
                    s.tap n card = s.showBrief n .waitlistFull))))))) ∧
    (s.room.state = .openRoom →
      ((s.slot n).state = .reserved → (s.slot n).reservationCard ≠ card → s.tap n card = s.showBrief n .reservedOther) ∧
      ((s.slot n).state = .finishing ∨ (s.slot n).state = .faulted → s.tap n card = s.showBrief n .inUse) ∧
      ((s.slot n).state = .collect → s.tap n card = s.showBrief n .collect) ∧
      ((s.slot n).state = .outOfService → s.tap n card = s.showBrief n .outOfService) ∧
      ∀ c, (s.slot n).state = .idle ∨ (s.slot n).state = .reserved ∧ (s.slot n).reservationCard = card →
        s.slotCls n = some c →
        (s.findCard card = none → s.tap n card = s.showBrief n .unknownCard) ∧
        ∀ i, s.findCard card = some i → let a := s.account i
          (a.state ≠ .active → s.tap n card = s.showBrief n .cardBlocked) ∧
          (a.state = .active → 64 ≤ s.settlement.records.length + s.holdCount →
            s.tap n card = s.showBrief n .queueFull) ∧
          (a.state = .active → s.settlement.records.length + s.holdCount < 64 →
            (a.available < s.currentPrice c → s.tap n card = s.showBrief n .lowBalance) ∧
            (s.currentPrice c ≤ a.available →
              (a.cap ≠ 0 → let b := a.rolled s.clock.day
                a.cap < b.spent + b.held + s.currentPrice c →
                s.tap n card = (if b = a then s else (s.setAccount i b).write [.account i b]).showBrief n .dailyCap) ∧
              (a.cap = 0 → s.settings.governor.budget < s.gov.motor + (s.govClass c).motor + s.gov.stray →
                s.tap n card = s.showBrief n .noPower))))

/-- A stop press ends a cycle by the slot's state: USER_STOP in LOCKING, RUNNING and AWAIT_POWER, ABANDONED in SUSPENDED,
NOT_STARTED in ARMED; elsewhere it is ignored (R12, R21). -/
def Obligations.StopPressEndsTheCycle : Prop :=
  ∀ (s : State) (n : Fin 24),
    ((s.slot n).state.busy = false ∨ (s.slot n).state = .recovering → s.stopPress n = s) ∧
    ∀ h, s.heatLaw → s.busyLaw → s.hold n = some h →
      ((s.slot n).state = .locking ∨ (s.slot n).state = .running ∨ (s.slot n).state = .awaitPower →
        s.cycleEnded n h .userStop none .faulted (s.stopPress n) ∧ ((s.stopPress n).slot n).outputs = ⟨false, false, false⟩) ∧
      ((s.slot n).state = .suspended → s.cycleEnded n h .abandoned none .faulted (s.stopPress n)) ∧
      ((s.slot n).state = .armed → s.cycleEnded n h .notStarted none .idle (s.stopPress n))

/-- A start press on an ARMED slot tests the room, the door and the motor admission in this order, and otherwise locks; on any
other slot it is ignored (R11). -/
def Obligations.StartPressIsTested : Prop :=
  ∀ (s : State) (n : Fin 24) (c : Fin 4), s.slotCls n = some c →
    ((s.slot n).state ≠ .armed → s.startPress n = s) ∧
    ((s.slot n).state = .armed →
      (s.room.state ≠ .openRoom → s.startPress n = s.showBrief n .roomClosed) ∧
      (s.room.state = .openRoom → (s.slot n).view.doorOpen = true → s.startPress n = s.showBrief n .closeDoor) ∧
      (s.room.state = .openRoom → (s.slot n).view.doorOpen = false →
        (s.settings.governor.budget < s.gov.motor + (s.govClass c).motor + s.gov.stray →
          s.startPress n = s.showBrief n .waitPower) ∧
        (s.gov.motor + (s.govClass c).motor + s.gov.stray ≤ s.settings.governor.budget → s.heatLaw → s.busyLaw →
          ((s.startPress n).slot n).state = .locking ∧ ((s.startPress n).slot n).outputs = ⟨true, false, false⟩ ∧
          ((s.startPress n).slot n).timer = some (s.elapsed + 20) ∧ s.booksKept (s.startPress n))))

/-! ### Sensing -/

/-- A scan starts with the configured slots in ascending order, FEED and REFERENCE to convert, and has each slot under its class of
that moment; it is dropped while the previous scan's REFERENCE result has not arrived (R123). -/
def Obligations.ScanStarts : Prop :=
  ∀ s : State, s.life = .running →
    (s.scanner.active = true → exec .scanStart s = .next s) ∧
    (s.scanner.active = false → ∀ list,
      list = ((allSlots.filter fun n => (s.slot n).cfg.isSome).map fun n => n.val) ++ [24, 26] →
      ∃ t, exec .scanStart s = .next t ∧
        (s.scanner.converter = none → s.scanner.waiting = [] → t.scanner = { s.scanner with
          converter := list.head?.map .scan, active := true, toConvert := list.tail, results := [], feed := 0,
          number := (s.scanner.number + 1) % 65536 }) ∧
        (∀ x, s.scanner.converter = some x → t.scanner = { s.scanner with
          active := true, toConvert := list, results := [], feed := 0, number := (s.scanner.number + 1) % 65536 }) ∧
        (∀ n, t.slot n = { s.slot n with sense := { (s.slot n).sense with
          begun := t.scanner.converter = some (.scan n.val) ∧ s.scanner.converter = none, stale := false,
          scanned := s.slotCls n } }) ∧
        { t with scanner := s.scanner, slots := s.slots } = s)

/-- A slot's count is scaled by its zero and scale to deciamps, at most 999, and by the volts to watts, and held until the
scan's end; FEED's likewise, at most 9,999; the converter goes on (R123, R124, R128, R129). -/
def Obligations.ResultIsScaled : Prop :=
  ∀ (s : State) (count : Nat), s.life = .running →
    (∀ n : Fin 24, s.scanner.converter = some (.scan n.val) →
      ∃ t, exec (.conversionResult count) s = .next t ∧ t.scanner.converter = s.scanner.nextUp ∧
        ∀ k, k = s.settings.sense.inputs[n.val] → ∀ i, i = (if count ≤ k.zero then 0
          else min 999 ((count - k.zero) * k.scale / 1024)) →
        t.scanner.results = s.scanner.results ++ [⟨n, i, i * s.settings.sense.volts / 10⟩] ∧
        t.scanner.feed = s.scanner.feed ∧ { t with scanner := s.scanner, slots := s.slots } = s) ∧
    (s.scanner.converter = some (.scan 24) →
      ∃ t, exec (.conversionResult count) s = .next t ∧ t.scanner.converter = s.scanner.nextUp ∧
        ∀ k, k = s.settings.sense.inputs[24] → ∀ i, i = (if count ≤ k.zero then 0
          else min 9999 ((count - k.zero) * k.scale / 1024)) →
        t.scanner.feed = i * s.settings.sense.volts / 10 ∧ t.scanner.results = s.scanner.results ∧
        { t with scanner := s.scanner, slots := s.slots } = s)

/-- The REFERENCE result ends a scan. Outside 1,950 to 2,150 the scan is invalid: its results are discarded, no draw and no
figure of the governor changes, and SENSE_REFERENCE is raised unless its flag is set. Inside, the scan is valid and the flag
clear (R123, R126, R127): each slot converted and still configured takes its measured draw (R130), the governor its stray load
(R105), and the feed-over count and flag follow R119 and R120. -/
def Obligations.ReferenceJudgesTheScan : Prop :=
  ∀ (s : State) (count : Nat), s.life = .running → s.scanner.converter = some (.scan 26) →
    ∃ t, exec (.scanEnd count) s = .next t ∧
      t.scanner.converter = s.scanner.nextUp ∧ t.scanner.active = false ∧ t.scanner.results = [] ∧
      t.scanner.ended = s.scanner.number ∧ t.scanner.number = s.scanner.number ∧
      (1950 ≤ count ∧ count ≤ 2150 →
        let kept := s.scanner.results.filter fun r => (s.slot r.slot).cfg.isSome && (s.slot r.slot).sense.scanned.isSome
        let stray := (s.scanner.feed - (kept.map fun r => r.watts).sum + 99) / 100 * 100
        t.scanner.valid = true ∧ t.scanner.refFault = false ∧ t.scanner.feedWatts = s.scanner.feed ∧
        (∀ n : Fin 24, let last := (kept.filter fun r => r.slot = n).getLast?
          (t.slot n).sense.amps = last.elim (s.slot n).sense.amps (fun r => r.amps) ∧
          (t.slot n).sense.watts = last.elim (s.slot n).sense.watts fun r => r.watts) ∧
        t.gov.stray = stray ∧
        (s.scanner.feed ≤ s.settings.governor.budget → t.gov.feedOver = 0 ∧ t.gov.feedRaised = false) ∧
        (s.settings.governor.budget < s.scanner.feed →
          (t.gov.feedOver = 0 ∧ t.gov.feedRaised = s.gov.feedRaised ∨
            t.gov.feedOver = min 10 (s.gov.feedOver + 1) ∧
              t.gov.feedRaised = (s.gov.feedRaised || decide (10 ≤ s.gov.feedOver + 1))) ∧
          (s.gov.grants = [] → s.gov.waits = [] →
            t.gov.feedOver = min 10 (s.gov.feedOver + 1) ∧
            (10 ≤ s.gov.feedOver + 1 → s.gov.feedRaised = false → t.gov.feedRaised = true ∧
              (s.faults.find none .feedOver = none → s.faults.table.length < 32 →
                s.told (.faultRaised none .feedOver none 1 .note false) t))) ∧
          (s.gov.grants ≠ [] → s.gov.heat ≤ (s.settings.governor.budget : Int) - s.motorSum - stray → t.gov.feedOver = 0)) ∧
        (kept = [] → s.scanner.feed ≤ s.settings.governor.budget →
          t.faults.table = s.faults.table.map fun x =>
            if x.source = none ∧ (x.code = .senseReference ∧ s.scanner.refFault = true ∨
                x.code = .feedOver ∧ s.gov.feedRaised = true) then { x with condition := .latched } else x)) ∧
      (count < 1950 ∨ 2150 < count →
        t.scanner.valid = false ∧ t.scanner.refFault = true ∧ t.scanner.feedWatts = s.scanner.feedWatts ∧ t.gov = s.gov ∧
        s.booksKept t ∧
        (∀ n, ∃ b, t.slot n = { s.slot n with
          sense := { (s.slot n).sense with begun := b, stale := false, scanned := none } }) ∧
        (s.scanner.refFault = true → t.events = s.events ∧ t.faults = s.faults) ∧
        (s.scanner.refFault = false →
          t.faults = (s.faults.enter none .senseReference none s.clock).1 ∧
          (s.faults.table.length < 32 → s.faults.find none .senseReference = none →
            s.told (.faultRaised none .senseReference none 1 .note false) t)))

/-- An on-demand result builds the reply of the port that asked, with the count and, for an input 0 to 24, its scaled values;
the converter goes on (R124, R125, R189). -/
def Obligations.OnDemandResultIsAnswered : Prop :=
  ∀ (s : State) (count i : Nat) (p : Port), s.life = .running → s.scanner.converter = some (.onDemand p i) →
    ∃ t r, exec (.onDemandConversionResult count) s = .next t ∧
      t.port p = { s.port p with activity := .built ⟨0x58, .ok, .sense r⟩ } ∧
      t.port (otherPort p) = s.port (otherPort p) ∧ t.scanner.converter = s.scanner.nextUp ∧ r.input = i ∧ r.count = count ∧
      (∀ h : i < 25, ∀ k, k = s.settings.sense.inputs[i] →
        r.calibration = some k ∧
        r.amps = some (if count ≤ k.zero then 0
          else min (if i = 24 then 9999 else 999) ((count - k.zero) * k.scale / 1024)) ∧
        r.watts = r.amps.map fun a => a * s.settings.sense.volts / 10) ∧
      (25 ≤ i → r.calibration = none ∧ r.amps = none ∧ r.watts = none) ∧
      (i = 25 → r.strap = some (count / 512, strapIsMarginal count, s.unit)) ∧ r.scan = s.scanner.ended ∧
      r.valid = s.scanner.valid ∧ r.volts = s.settings.sense.volts

/-- A strike test that reaches its number of strikes with its raised flag clear raises its fault and sets the flag; with the
flag set it raises nothing; a false condition returns the counter to 0, clears the flag and latches the entry (R133). The
conditions are those of the table, with the draws of the class under which the scan has the slot (R123, R132). -/
def Obligations.StrikesRaiseOncePerOnset : Prop :=
  ∀ (s : State) (n : Fin 24) (w : Nat) (x : SenseTest), let k := (s.slot n).sense.strike x
    (∀ c, (s.slot n).sense.scanned = some c → ∀ m d, m = (s.govClass c).motor → d = (s.govClass c).heat →
      let y := s.slot n
      (s.strikeCondition n x w = true ↔ s.settings.sense.inputs[n.val].scale ≠ 0 ∧ (match x with
        | .heaterOpen => y.heatGrant = true ∧ y.sense.armed = true ∧ 10 * w < 4 * d
        | .overcurrent => y.state ≠ .unconfigured ∧ 2 * w > 3 * (m + if y.heatGrant = true then d else 0)
        | .ungrantedDraw => y.motorActive = true ∧ y.heatGrant = false ∧ y.causes.lost = false ∧ 2 * w > 2 * m + d
        | .idleDraw => (y.state = .idle ∨ y.state = .reserved ∨ y.state = .armed ∨ y.state = .collect) ∧ w > 200))) ∧
    (s.strikeCondition n x w = true →
      (k.count + 1 < x.strikes ∨ k.raised = true →
        s.strikeTest n w x = s.modSense n fun y => y.setStrike x { k with count := min x.strikes (k.count + 1) }) ∧
      (x.strikes ≤ k.count + 1 → k.raised = false →
        s.strikeTest n w x = (s.modSense n fun y => y.setStrike x ⟨x.strikes, true⟩).raise (some n) x.fault)) ∧
    (s.strikeCondition n x w = false →
      (k.raised = false → s.strikeTest n w x = s.modSense n fun y => y.setStrike x ⟨0, false⟩) ∧
      (k.raised = true →
        s.strikeTest n w x = (s.modSense n fun y => y.setStrike x ⟨0, false⟩).latch (some n) x.fault))

/-! ### The room -/

/-- The room clock counts its seconds and its days whenever the part has power (log 2). At a minute's change an OPEN, CLOSING
or CLOSED room enters its mode state, told by ROOM_STATE; out of OPEN the waitlist is emptied and every RESERVED slot enters
IDLE (R167, R172, R176). -/
def Obligations.TheRoomFollowsItsClock : Prop :=
  (∀ s : State, s.life ≠ .waiting → exec .clockSecond s = .next { s with
    clock := if s.clock.second < 86399 then { s.clock with second := s.clock.second + 1 }
      else { s.clock with second := 0, day := (s.clock.day + 1) % 65536 } }) ∧
  ∀ s : State, s.life = .running →
    (s.room.state = .suspended ∨ s.room.state = .held ∨ s.modeState = s.room.state → exec .minuteChange s = .next s) ∧
    (s.heatLaw → s.busyLaw → s.room.state ≠ .suspended → s.room.state ≠ .held → s.modeState ≠ s.room.state →
      ∃ t, exec .minuteChange s = .next t ∧ t.room = { s.room with state := s.modeState } ∧
        s.told (.roomState s.room.state s.modeState s.settings.room.mode s.clock.isSet .schedule) t ∧ s.booksKept t ∧
        (∀ n, (s.slot n).bystander (t.slot n)) ∧
        (s.modeState = .openRoom → t.queues = s.queues) ∧
        (s.modeState ≠ .openRoom → (∀ c, t.queue c = []) ∧ ∀ n, (t.slot n).state ≠ .reserved) ∧ t.outside = s.outside)

/-- The interlock's active level suspends the room: every machine is halted, the governor's lists are empty, a slot that was
running or locking is SUSPENDED with its resume point, and an ARMED one has its cycle ended; from another state than HELD the
suspension timer starts (R26, R117, R179, R181). -/
def Obligations.InterlockSuspendsTheRoom : Prop :=
  ∀ s : State, s.life = .running → s.room.interlock = false →
    (s.room.state = .suspended → exec .interlockActive s = .next { s with room := { s.room with interlock := true } }) ∧
    (s.heatLaw → s.busyLaw → s.room.state ≠ .suspended → ∃ t, exec .interlockActive s = .next t ∧
      t.room = ⟨.suspended, true,
        if s.room.state = .held then s.room.timer else .running (s.elapsed + 60 * s.settings.room.limit)⟩ ∧
      s.told (.roomState s.room.state .suspended s.settings.room.mode s.clock.isSet .interlockActive) t ∧
      t.gov.grants = [] ∧ t.gov.waits = [] ∧ (∀ n, (t.slot n).heatGrant = false) ∧
      ∀ n,
        ((s.slot n).state = .running ∨ (s.slot n).state = .awaitPower ∨ (s.slot n).state = .locking →
          (t.slot n).state = .suspended ∧ t.hold n = s.hold n ∧ (t.slot n).outputs = ⟨true, false, false⟩ ∧
          (t.slot n).resume = some (if (s.slot n).state = .locking then .locking else .running)) ∧
        ((s.slot n).state = .armed → t.hold n = none ∧ ((t.slot n).state = .idle ∨ (t.slot n).state = .reserved)) ∧
        ((s.slot n).state = .suspended ∨ (s.slot n).state = .recovering →
          (t.slot n).state = (s.slot n).state ∧ t.hold n = s.hold n))

/-- The interlock's inactive level leaves a SUSPENDED room HELD. At the suspension limit every SUSPENDED slot's cycle ends
ABANDONED into FINISHING, one settlement record each in ascending slot order (R6, R27, R90, R180, R181; log 3). -/
def Obligations.SuspensionsEnd : Prop :=
  (∀ s : State, s.life = .running → s.room.interlock = true →
    (s.room.state ≠ .suspended → exec .interlockInactive s = .next { s with room := { s.room with interlock := false } }) ∧
    (s.room.state = .suspended → exec .interlockInactive s =
      .next (({ s with room := { s.room with state := .held, interlock := false } } : State).post
        (.roomState .suspended .held s.settings.room.mode s.clock.isSet .interlockInactive)))) ∧
  ∀ (s : State) (d : Nat), s.heatLaw → s.busyLaw → s.life = .running → s.room.timer = .running d → d ≤ s.elapsed →
    ∃ t l, exec .suspensionLimit s = .next t ∧ t.room.timer = .reached ∧
      t.settlement.records = s.settlement.records ++ l ∧
      l.map (fun r => (r.slot, r.reason)) =
        ((allSlots.filter fun n => (s.slot n).state = .suspended).map fun n => (n.val, Reason.abandoned)) ∧
      (∀ n, (s.slot n).state = .suspended → (t.slot n).state = .finishing ∧ t.hold n = none) ∧
      ∀ n, (s.slot n).state ≠ .suspended → t.hold n = s.hold n ∧ (s.slot n).bystander (t.slot n)

/-! ### The store and the host ports -/

/-- The store takes the oldest change in progress, whole; a reply that waited for it is built, and the store turn is freed
with the last change it waited for (R189, R190, R204). -/
def Obligations.StoreTakesTheOldestChange : Prop :=
  ∀ (s : State) (ws : List StoreWrite) (rest : List (List StoreWrite)), s.life = .running ∨ s.life = .restartDue →
    s.writes = ws :: rest →
    ∃ t, exec .storeWriteDone s = .next t ∧ t.store = s.store.applyAll ws ∧ t.writes = rest ∧
      (∀ p, (t.port p).counts = (s.port p).counts ∧
        (∀ r k, (s.port p).activity = .storing r k →
          (t.port p).activity = (if k ≤ 1 then .built r else .storing r (k - 1)) ∧
          (s.turn = some p → t.turn = if k ≤ 1 then none else some p)) ∧
        ((∀ r k, (s.port p).activity ≠ .storing r k) →
          (t.port p).activity = (s.port p).activity ∧ (s.turn = some p → t.turn = some p))) ∧
      (s.turn = none → t.turn = none) ∧
      { t with store := s.store, writes := s.writes, building := s.building, service := s.service, turn := s.turn } = s

/-- The end of a reply returns its port to IDLE (R187). RESTART is answered OK on a port that no other RESTART has made disregard its
frames; the end of that reply makes the start-up due, or with the other port's request unanswered, the end of that one's reply does
(R196). A RESTART taken on each port stands by itself, and a second one on the port of one that waits leaves its wait as it is; that
its port hears in that wait is the model's choice (log 25). -/
def Obligations.ReplyEndFreesThePort : Prop :=
  (∀ (s : State) (p : Port), s.life = .running → (s.port p).activity = .idle → (s.port p).frame = none →
    s.restart.of (otherPort p) = .none →
    let taken := if s.restart.of p = .none then s.restart.set p .taken else s.restart
    exec (.restart p []) s = .next (State.replied { s with restart := taken } p ⟨0x60, .ok, .empty⟩)) ∧
  ∀ (s : State) (p : Port) (r : Reply), s.life = .running → (s.port p).activity = .built r ∨ (s.port p).activity = .sending r →
    let t := s.setPort p { s.port p with activity := .idle }
    let waits := (∃ r, (s.port (otherPort p)).activity = .built r ∨ (s.port (otherPort p)).activity = .sending r) ∨
      (∃ r k, (s.port (otherPort p)).activity = .storing r k) ∨
      ∃ i, (s.port (otherPort p)).activity = .sensing i
    (s.restart.of (otherPort p) = .ended → exec (.hostReplyEnd p) s = .next { t with life := .restartDue }) ∧
    (s.restart.of (otherPort p) ≠ .ended →
      (s.restart.of p = .none → exec (.hostReplyEnd p) s = .next t) ∧
      (s.restart.of p ≠ .none → waits → exec (.hostReplyEnd p) s = .next { t with restart := s.restart.set p .ended }) ∧
      (s.restart.of p ≠ .none → ¬ waits → exec (.hostReplyEnd p) s = .next { t with life := .restartDue }))

/-- A frame of a host port whose characters are complete and good is the request or the broadcast that its kind names (R185,
R192, R201; that HOST_FRAME_DISCARD's characters are judged is log 36). One that is not complete and good counts once and does
nothing else: an overrun where the port is BUSY and the frame is for this unit or a broadcast, an error where the port is IDLE
or the service port's address is in error, and nothing where the frame is for another unit (R57, R185 to R187, R197; log 21).
Characters that end no frame leave it open, and later ones go on with it; an address character breaks it off and opens another. A
frame that is complete and good ends the open one of its class on an IDLE port and is taken, also where it opened before a RESTART
on the other port (that it is the open one is log 36); else it breaks that one off. With none open after such a RESTART nothing
on the port does anything (R57, R196; log 25). -/
def Obligations.BadFramesAreCounted : Prop :=
  (∀ (s : State) (p : Port), s.hears p = true → (s.port p).frame = none →
    (∀ (a kind : Byte) (body : List Byte) (chars : List RxChar), body.length < 200 →
      chars = (requestFrame a kind body).map (cleanChar 0) →
      (frameClass s.unit p a.toNat = .request → exec (.hostFrameDiscard p chars) s = exec (requestCommand p kind body) s) ∧
      (frameClass s.unit p a.toNat = .broadcast → exec (.hostFrameDiscard p chars) s = exec (broadcastCommand p kind body) s) ∧
      (frameClass s.unit p a.toNat = .notForUnit → exec (.hostFrameDiscard p chars) s = .next s)) ∧
    ∀ (a : Byte) (chars : List RxChar),
      exec (.frameGapTimeout (.host p) a) s = .next (s.frameDiscarded p a) ∧
      (∀ e, assemble none chars = ([e], none) → badEnd s.unit p a e →
        exec (.hostFrameDiscard p chars) s = .next (s.frameDiscarded p a)) ∧
      (∀ bytes, assemble none chars = ([], some (a, bytes)) →
        exec (.hostFrameDiscard p chars) s = .next (s.frameOpened p (a, bytes))) ∧
      ∀ f, assemble none chars = ([.broken a], some f) →
        exec (.hostFrameDiscard p chars) s = .next ((s.frameDiscarded p a).frameOpened p f)) ∧
  (∀ (s : State) (p : Port) (a : Byte) (bytes : List Byte), s.listens p = true → (s.port p).frame = some (a, bytes) →
    let u := s.setPort p { s.port p with frame := none }
    let own := fun k => (s.port p).activity = .idle ∧ frameClass s.unit p a.toNat = k
    (∀ b, exec (.frameGapTimeout (.host p) b) s = .next (u.frameDiscarded p a) ∧
      (p = .building → exec (.frameNotForUnit b) s = .next (u.frameDiscarded p a)) ∧
      ((s.port p).activity ≠ .idle → frameClass s.unit p b.toNat = .request ∨ frameClass s.unit p b.toNat = .broadcast →
        exec (.hostFrameOverrun p b) s = .next (if s.restart.of (otherPort p) ≠ .none then u.frameDiscarded p a
          else (u.frameDiscarded p a).countOverrun p))) ∧
    (∀ chars, (∀ more, assemble (some (a, bytes)) chars = ([], some (a, more)) →
        exec (.hostFrameDiscard p chars) s = .next (s.setPort p { s.port p with frame := some (a, more) })) ∧
      (∀ e, assemble (some (a, bytes)) chars = ([e], none) → badEnd s.unit p a e →
        exec (.hostFrameDiscard p chars) s = .next (u.frameDiscarded p a)) ∧
      (∀ f, assemble (some (a, bytes)) chars = ([.broken a], some f) →
        exec (.hostFrameDiscard p chars) s = .next (if s.restart.of (otherPort p) ≠ .none then u.frameDiscarded p a
          else (u.frameDiscarded p a).frameOpened p f)) ∧
      ∀ kind body, body.length < 200 →
        assemble (some (a, bytes)) chars = ([.complete a (sealed (BitVec.ofNat 8 (body.length + 1) :: kind :: body))], none) →
        (own .request → exec (.hostFrameDiscard p chars) s = exec (requestCommand p kind body) s) ∧
        (own .broadcast → exec (.hostFrameDiscard p chars) s = exec (broadcastCommand p kind body) s)) ∧
    ∀ c k, frameOf c = some (p, k) →
      (own k → s.restart.of (otherPort p) = .none → exec c s = exec c u) ∧
      (own k → ∀ t, s.restart.of (otherPort p) ≠ .none → exec c { u with restart := .start } = .next t →
        let first := c = .restart p [] ∧ s.restart.of p = .none
        exec c s = .next { t with restart := if first then s.restart.set p .taken else s.restart }) ∧
      (¬ own k → exec c s = exec c (u.frameDiscarded p a))) ∧
  ∀ (s : State) (p : Port) (c : Instr), s.restart.of (otherPort p) ≠ .none → (s.port p).frame = none →
    (∃ k, frameOf c = some (p, k)) ∨ (∃ a, c = .hostFrameOverrun p a ∨ c = .frameGapTimeout (.host p) a) ∨
      (∃ chars, c = .hostFrameDiscard p chars) →
    exec c s = .next s

/-- A frame for this unit, or a broadcast, that opens while its port is BUSY counts one overrun and does nothing else, also while
the reply is built and has not begun; a frame for another unit does nothing (with no frame open; BadFramesAreCounted says what one
that is open becomes). Once a reply has begun its port's receiver disregards the line, and nothing that stands on it does anything
(R185, R187, R189; log 21, and log 40 for when a reply begins). UNKNOWN_KIND_REQUEST with a kind of the catalogue has no occasion
and does nothing (the model's choice, log 1). -/
def Obligations.FramesAtABusyPort : Prop :=
  (∀ (s : State) (p : Port) (r : Reply), s.life = .running → s.restart.of (otherPort p) = .none → (s.port p).activity = .built r →
    s.hears p = true) ∧
  (∀ (s : State) (p : Port) (a : Byte), s.hears p = true → (s.port p).activity ≠ .idle → (s.port p).frame = none →
    (frameClass s.unit p a.toNat = .request ∨ frameClass s.unit p a.toNat = .broadcast →
      exec (.hostFrameOverrun p a) s = .next (s.countOverrun p)) ∧
    (∀ kind body, exec (.unknownKindRequest p kind body) s =
      .next (if catalogueKinds.contains kind.toNat then s else s.countOverrun p)) ∧
    ∀ kind body, exec (.broadcastDropped p kind body) s = .next (s.countOverrun p) ∧
      exec (.broadcastTimeSet p body) s = .next (s.countOverrun p) ∧
      exec (.broadcastBudgetSet p body) s = .next (s.countOverrun p)) ∧
  (∀ (c : Instr) (p : Port) (k : Nat) (s : State), requestOf c = some (p, k) → s.hears p = true →
    (s.port p).activity ≠ .idle → (s.port p).frame = none → exec c s = .next (s.countOverrun p)) ∧
  (∀ (s : State) (p : Port) (r : Reply) (c : Instr), (s.port p).activity = .sending r →
    (∃ k, requestOf c = some (p, k)) ∨ (∃ kind body, c = .unknownKindRequest p kind body ∨ c = .broadcastDropped p kind body) ∨
      (∃ body, c = .broadcastTimeSet p body ∨ c = .broadcastBudgetSet p body) ∨
      (∃ a, c = .hostFrameOverrun p a ∨ c = .frameGapTimeout (.host p) a) ∨ (∃ chars, c = .hostFrameDiscard p chars) →
    exec c s = .next s) ∧
  ∀ (s : State) (a : Byte), (s.port .building).frame = none → exec (.frameNotForUnit a) s = .next s

/-- Broadcasts on an IDLE port (R190, R191): one that is not defined is dropped; TIME_SET sets the room clock and counts;
BUDGET_SET sets the feed budget and counts, or waits with its port BUSY while the other port holds the store turn, and is
applied when the turn is free (log 3). -/
def Obligations.BroadcastsAct : Prop :=
  ∀ (s : State) (p : Port) (kind : Byte) (body : List Byte), s.readyFor p →
    exec (.broadcastDropped p kind body) s = .next s ∧
    (∀ day second, body = beBytes 2 day ++ beBytes 3 second → day < 65536 → second < 86400 →
      ∃ t, exec (.broadcastTimeSet p body) s = .next t ∧ t.clock = ⟨second, day, true⟩ ∧
        t.port p = { s.port p with counts := { (s.port p).counts with
          broadcasts := min 65535 ((s.port p).counts.broadcasts + 1) } } ∧
        (s.clock.isSet = true → s.clock.second / 60 = second / 60 →
          t = State.countBroadcast { s with clock := ⟨second, day, true⟩ } p)) ∧
    (∀ w, body = beBytes 3 w → 1000 ≤ w → w ≤ 200000 →
      (s.turn = some (otherPort p) → exec (.broadcastBudgetSet p body) s =
        .next (s.setPort p { s.port p with activity := .deferred w })) ∧
      (s.turn ≠ some (otherPort p) → ∃ t, exec (.broadcastBudgetSet p body) s = .next t ∧ s.budgeted w t ∧
        t.port p = { s.port p with counts := { (s.port p).counts with
          broadcasts := min 65535 ((s.port p).counts.broadcasts + 1) } })) ∧
    ∀ (u : State) (w : Nat), u.life = .running → (u.port p).activity = .deferred w → u.turn = none →
      ∃ t, exec (.broadcastBudgetDeferred p) u = .next t ∧ u.budgeted w t ∧
        t.port p = { u.port p with activity := .idle, counts := { (u.port p).counts with
          broadcasts := min 65535 ((u.port p).counts.broadcasts + 1) } }

/-- The tests of a request before its own rule, in their order (R188, R190, R192): an unknown kind; EVENTS_READ and
SETTLEMENT_RELEASE from the service port; a body that is not of its kind's length, or whose first byte names no form; and, for
a kind that writes stored records, the store turn held for the other port. Each is answered by its status and changes nothing
else. -/
def Obligations.RequestsAreTested : Prop :=
  ∀ (s : State) (p : Port) (body : List Byte), s.readyFor p →
    (∀ kind : Byte, catalogueKinds.contains kind.toNat = false →
      exec (.unknownKindRequest p kind body) s = .next (s.replied p ⟨kind.toNat, .unknownKind, .empty⟩)) ∧
    ∀ c k, requestFields c = some (p, k, body) →
      (p = .service → k = 0x08 ∨ k = 0x29 → exec c s = .next (s.replied p ⟨k, .notPermitted, .empty⟩)) ∧
      (p = .building ∨ k ≠ 0x08 ∧ k ≠ 0x29 →
        (∀ st, lengthTest k body = some st → exec c s = .next (s.replied p ⟨k, st, .empty⟩)) ∧
        (lengthTest k body = none → kindWrites k = true → s.turn = some (otherPort p) →
          exec c s = .next (s.replied p ⟨k, .full, .empty⟩)))

/-- A request taken on an IDLE port is answered or waits: with its kind echoed, for its changes of the store with the store
turn, or for a conversion; and it is counted. One of a kind that the catalogue does not list is counted and answered
UNKNOWN_KIND at once (R187 to R190, R192, R197, R201). -/
def Obligations.EveryRequestIsAnswered : Prop :=
  (∀ (s : State) (p : Port) (kind : Byte) (body : List Byte), s.readyFor p → catalogueKinds.contains kind.toNat = false →
    exec (.unknownKindRequest p kind body) s = .next (s.setPort p
      { s.port p with activity := .built ⟨kind.toNat, .unknownKind, .empty⟩, counts := { (s.port p).counts with
        taken := ((s.port p).counts.taken + 1) % 65536 } })) ∧
  ∀ (c : Instr) (p : Port) (k : Nat) (s : State), requestOf c = some (p, k) → s.readyFor p →
    ∃ t, exec c s = .next t ∧
      ((∃ r, r.kind = k ∧ (t.port p).activity = .built r) ∨
        (∃ r j, r.kind = k ∧ (t.port p).activity = .storing r j ∧ j = t.writes.length ∧ s.writes.length < j ∧
          t.turn = some p) ∨
        k = 0x58 ∧ ∃ i, (t.port p).activity = .sensing i) ∧
      (k ≠ 0x04 → (t.port p).counts = { (s.port p).counts with taken := ((s.port p).counts.taken + 1) % 65536 }) ∧
      t.port (otherPort p) = s.port (otherPort p)

/-- A request answered with another status than OK changes nothing (R188). -/
def Obligations.RefusalChangesNothing : Prop :=
  ∀ (c : Instr) (p : Port) (k : Nat) (s t : State) (r : Reply), requestOf c = some (p, k) → s.readyFor p → exec c s = .next t →
    ((t.port p).activity = .built r ∨ ∃ j, (t.port p).activity = .storing r j) → r.status ≠ .ok →
    t = s.replied p r

/-! ### The requests that read -/

/-- A request that reads is answered with what it asks for, and nothing but its port changes (R58, R98, R121, R152, R153,
R170, R184, R195). The reports of the room, a slot, the governor and a class queue hold what their rules list, whether the room is
called open (R175), the band in force (R84) and a hold's paid seconds (R86) among it. -/
def Obligations.ReadsAreAnswered : Prop :=
  ∀ (s : State) (p : Port), s.readyFor p →
    exec (.roomStatus p []) s = .next (s.replied p ⟨0x01, .ok, .room s.roomReport⟩) ∧
    (∀ n : Fin 24, exec (.slotStatus p (beBytes 1 n)) s = .next (s.replied p ⟨0x02, .ok, .slot (s.slotReport n)⟩)) ∧
    (∀ t : Fin 16, exec (.terminalStatus p (beBytes 1 t)) s =
      .next (s.replied p ⟨0x03, .ok, .terminal (s.terminal t) (s.slotAt t .a) (s.slotAt t .b)⟩)) ∧
    (∀ k, 1 ≤ k → k ≤ 4 → exec (.settlementRead p (beBytes 1 k)) s = .next (s.replied p
      ⟨0x28, .ok, .settlements s.settlement.records.length s.holdCount s.settlement.next
        ((s.settlement.records.take k).map Settlement.bytes)⟩)) ∧
    (∀ i k, i ≤ 31 → 1 ≤ k → k ≤ 8 → exec (.faultsRead p (beBytes 1 i ++ beBytes 1 k)) s = .next (s.replied p
      ⟨0x38, .ok, .faults s.faults.table.length ((s.faults.table.drop i).take k)⟩)) ∧
    (∀ i k, i < 65536 → 1 ≤ k → k ≤ 6 → exec (.historyRead p (beBytes 2 i ++ beBytes 1 k)) s = .next (s.replied p
      ⟨0x39, .ok, .history s.faults.history.length (s.faults.history.head?.map fun e => e.number) s.faults.next
        (s.faults.fromNumber i k).2 (s.faults.fromNumber i k).1⟩)) ∧
    exec (.grantsRead p []) s = .next (s.replied p ⟨0x41, .ok, .grants s.govReport⟩) ∧
    (∀ (c : Fin 4) (n : Fin 24), exec (.waitlistRead p (beBytes 1 c ++ beBytes 1 n)) s =
      .next (s.replied p ⟨0x48, .ok, .waits (s.waitReport c n)⟩)) ∧
    (∀ r, r = s.roomReport → ∀ g, g = s.settings.room → ∀ m, m = s.clock.second / 60 →
      r.state = s.room.state ∧ r.mode = g.mode ∧ r.clock = s.clock ∧ r.openMinute = g.openMinute ∧
      r.closeMinute = g.closeMinute ∧ r.interlock = s.room.interlock ∧ r.timer = s.room.timer ∧ r.unit = s.unit ∧
      r.strapMarginal = s.strapMarginal ∧
      (r.calledOpen = true ↔ g.mode = .forceOpen ∨ g.mode = .schedule ∧ (s.clock.isSet = false ∨
        g.openMinute = g.closeMinute ∨ g.openMinute < g.closeMinute ∧ g.openMinute ≤ m ∧ m < g.closeMinute ∨
        g.closeMinute < g.openMinute ∧ (g.openMinute ≤ m ∨ m < g.closeMinute))) ∧
      (∀ a b, a = s.settings.prices.bandStart → b = s.settings.prices.bandEnd →
        r.band = if s.clock.isSet = true ∧ (a < b ∧ a ≤ m ∧ m < b ∨ b < a ∧ (a ≤ m ∨ m < b)) then 1 else 0) ∧
      r.secondsLeft = (match s.room.timer with | .running d => some (d - s.elapsed) | .idle | .reached => none) ∧
      r.holds = (allSlots.filter fun n => (s.hold n).isSome).length ∧
      ∀ st : SlotState, r.states[st.code]? = some (allSlots.filter fun n => (s.slot n).state = st).length) ∧
    (∀ n r, r = s.slotReport n → r.slot = s.slot n ∧ r.secondsLeft = ((s.slot n).timer.map fun d => d - s.elapsed) ∧
      r.hold = s.hold n ∧ ∀ h, s.hold n = some h → r.heldAmount = h.amount ∧
        r.paidSeconds = h.snap.planned + (match h.snap.kind with | .washer => 0 | .dryer => 60 * h.steps * h.snap.step)) ∧
    (∀ r, r = s.govReport → r.budget = s.settings.governor.budget ∧ r.margin = s.settings.governor.margin ∧
      r.motor = s.gov.motor ∧ r.stray = s.gov.stray ∧ r.heat = s.gov.heat ∧
      r.granted = (s.gov.grants.map fun q => (s.govClass q.cls).heat).sum ∧
      r.motorActive = (allSlots.filter fun n => (s.slot n).motorActive).length ∧ r.feedOver = s.gov.feedOver ∧
      r.feedRaised = s.gov.feedRaised ∧ r.stamp = s.gov.stamp ∧
      r.grants = (s.gov.grants.map fun q => ⟨q, (s.govClass q.cls).priority, (s.govClass q.cls).heat⟩) ∧
      r.waits = s.gov.waits.map fun q => ⟨q, (s.govClass q.cls).priority, (s.govClass q.cls).heat⟩) ∧
    ∀ c n r, r = s.waitReport c n → r.lifetime = s.settings.room.lifetime ∧ r.window = s.settings.room.window ∧
      r.entries = s.queue c ∧
      ∀ l, l = (allSlots.filterMap fun m => if (s.slot m).state = .reserved ∧ s.slotCls m = some c then
          (s.slot m).reservation.map fun x => (m, x) else none) →
        r.reserved = l.length ∧ r.reservations = (l.filter fun x => decide (n ≤ x.1.val)).take 6

/-- PORT_STATUS reports the counts, the request itself counted, and then clears the sending port's when its flag asks for it.
EVENTS_READ takes the oldest events, up to the count asked for, and the lost count, out of the queue and into its reply, as 16
bytes each (R197, R199, R201). -/
def Obligations.CountsAndEventsAreTaken : Prop :=
  (∀ (s : State) (p : Port) (b : Bool), s.readyFor p →
    ∃ t r, exec (.portStatus p (beBytes 1 (bit b))) s = .next t ∧
      (t.port p).activity = .built ⟨0x04, .ok, .ports r⟩ ∧ t.port (otherPort p) = s.port (otherPort p) ∧
      (match p with | .building => r.building | .service => r.service) =
        { (s.port p).counts with taken := ((s.port p).counts.taken + 1) % 65536 } ∧
      (match p with | .building => r.service | .service => r.building) = (s.port (otherPort p)).counts ∧
      r.unit = s.unit ∧ r.turn = s.turn ∧ r.events = s.events.queue.length ∧ r.lost = s.events.lost ∧
      r.next = s.events.next ∧
      (t.port p).counts = (if b then ⟨0, 0, 0, 0⟩ else
        { (s.port p).counts with taken := ((s.port p).counts.taken + 1) % 65536 }) ∧
      { t with building := s.building, service := s.service } = s) ∧
  (∀ (s : State) (k : Nat), s.readyFor .building → 1 ≤ k → k ≤ 8 →
    exec (.eventsRead .building (beBytes 1 k)) s = .next (State.replied
      { s with events := ⟨s.events.queue.drop k, s.events.next, 0⟩ } .building
      ⟨0x08, .ok, .events s.events.lost ((s.events.queue.take k).map Event.bytes) (s.events.queue.length - k)
        s.events.next⟩)) ∧
  (∀ (s : State) (k : Nat), s.readyFor .building → k < 256 → k = 0 ∨ 8 < k →
    exec (.eventsRead .building (beBytes 1 k)) s = .next (s.replied .building ⟨0x08, .badValue, .empty⟩)) ∧
  (∀ (s : State) (body : List Byte), s.readyFor .service →
    exec (.eventsRead .service body) s = .next (s.replied .service ⟨0x08, .notPermitted, .empty⟩)) ∧
  ∀ e : Event, e.bytes.length = 16

/-- ACCOUNT_READ makes the daily rollover of a record that is not FREE, and answers the record with its available balance
(R63, R69). -/
def Obligations.AccountIsRead : Prop :=
  ∀ (s : State) (p : Port) (i : Nat), s.readyFor p → i < 512 → s.turn ≠ some (otherPort p) →
    let a := s.account i
    ((a.state = .free ∨ a.spendDay = s.clock.day) → exec (.accountRead p (beBytes 2 i)) s =
      .next (s.replied p ⟨0x24, .ok, .account a (a.balance - a.held)⟩)) ∧
    (a.state ≠ .free → a.spendDay ≠ s.clock.day →
      let b := { a with spent := 0, spendDay := s.clock.day }
      exec (.accountRead p (beBytes 2 i)) s =
        .next ((s.setAccount i b).stores p ⟨0x24, .ok, .account b (b.balance - b.held)⟩ [.account i b]))

/-- SENSE_READ of an input 0 to 26 waits for a conversion of its own, ahead of the scan's; one of an input 27 to 31 is
answered at once with the count 0 (R122, R124, R125). -/
def Obligations.SenseReadConverts : Prop :=
  ∀ (s : State) (p : Port) (i : Nat), s.readyFor p →
    (i ≤ 26 → ∃ t, exec (.senseRead p (beBytes 1 i)) s = .next t ∧
      t.port p = { s.port p with activity := .sensing i, counts := { (s.port p).counts with taken := ((s.port p).counts.taken + 1) % 65536 } } ∧
      (s.scanner.converter = none → s.scanner.waiting = [] →
        t.scanner = { s.scanner with converter := some (.onDemand p i) }) ∧
      (∀ x, s.scanner.converter = some x → t.scanner = { s.scanner with waiting := s.scanner.waiting ++ [(p, i)] }) ∧
      { t with building := s.building, service := s.service, scanner := s.scanner } = s) ∧
    (27 ≤ i → i ≤ 31 → ∃ r, exec (.senseRead p (beBytes 1 i)) s = .next (s.replied p ⟨0x58, .ok, .sense r⟩) ∧
      r.input = i ∧ r.count = 0)

/-! ### The requests that configure -/

/-- CLASS_SET and both forms of PRICE_SET set what they name and store it; where a class changes its kind its slots' phases
are ones of the new kind (R1, R80 to R83, R194). -/
def Obligations.ClassesAndPricesAreSet : Prop :=
  ∀ (s : State) (p : Port), s.readyFor p → s.turn ≠ some (otherPort p) →
    (∀ (c : Fin 4) (k : Kind) (w l : Nat), 1 ≤ w → w ≤ 15 → 60 ≤ l → l ≤ 600 →
      (∀ n, s.slotCls n = some c → (s.slot n).state.busy = false) →
      ∃ t, exec (.classSet p (beBytes 1 c ++ beBytes 1 (match k with | .washer => 0 | .dryer => 1) ++ beBytes 1 w ++
          beBytes 2 l)) s = .next (State.stores t p ⟨0x10, .ok, .cls ⟨k, w, l⟩⟩ [.cls c ⟨k, w, l⟩]) ∧
        t.settings = { s.settings with classes := s.settings.classes.set c.val ⟨k, w, l⟩ } ∧
        { t with settings := s.settings, slots := s.slots } = s ∧
        ∀ n, ∃ f, t.slot n = { s.slot n with phase := f } ∧
          (s.slotCls n ≠ some c ∨ (s.cls c).kind = k → f = (s.slot n).phase) ∧
          (s.slotCls n = some c → (s.cls c).kind ≠ k → (k = .dryer ↔ f = .dry ∨ f = .cool))) ∧
    (∀ (c : Fin 4) (b : Fin 2) (e : PriceEntry), e.price ≤ 9999 → 60 ≤ e.planned → e.planned ≤ 10800 → 1 ≤ e.step →
      e.step ≤ 30 → e.stepPrice ≤ 9999 →
      ∃ q : PriceCfg, (∀ d : Fin 4, ∀ f : Fin 2, q.entries[2 * d.val + f.val] =
          if d = c ∧ f = b then e else s.settings.prices.entries[2 * d.val + f.val]) ∧
        { q with entries := s.settings.prices.entries } = s.settings.prices ∧
        exec (.priceSetEntry p (0 :: beBytes 1 c ++ beBytes 1 b ++ beBytes 2 e.price ++ beBytes 2 e.planned ++
          beBytes 1 e.step ++ beBytes 2 e.stepPrice)) s =
          .next (State.stores { s with settings := { s.settings with prices := q } } p ⟨0x11, .ok, .price e⟩ [.prices q])) ∧
    ∀ g l a b, (g = 1 ∨ g = 5 ∨ g = 10 ∨ g = 25 ∨ g = 50 ∨ g = 100) → l ≤ 600 → a ≤ 1439 → b ≤ 1439 → ∀ q,
      q = { s.settings.prices with granularity := g, grace := l, bandStart := a, bandEnd := b } →
      exec (.priceSetGeneral p (1 :: beBytes 1 g ++ beBytes 2 l ++ beBytes 2 a ++ beBytes 2 b)) s =
        .next (State.stores { s with settings := { s.settings with prices := q } } p ⟨0x11, .ok, .empty⟩ [.prices q])

/-- Both forms of SENSE_SET set what they name and store it, and return the strike counters concerned to 0 (R131, R134). -/
def Obligations.SensingIsSet : Prop :=
  ∀ (s : State) (p : Port), s.readyFor p → s.turn ≠ some (otherPort p) →
    (∀ (i : Nat) (h : i < 25) (k : Calibration), k.zero ≤ 4095 → k.scale < 65536 →
      (∀ n : Fin 24, n.val = i → (s.slot n).state.busy = false) →
      ∃ t c, exec (.senseSetInput p (0 :: beBytes 1 i ++ beBytes 2 k.zero ++ beBytes 2 k.scale)) s = .next t ∧
        c = { s.settings.sense with inputs := s.settings.sense.inputs.set i k } ∧
        t.settings = { s.settings with sense := c } ∧ t.writes = s.writes ++ [[.sense c]] ∧
        s.awaits p ⟨0x15, .ok, .empty⟩ t ∧
        ∀ n, t.slot n = if n.val = i then { s.slot n with sense := (s.slot n).sense.resetStrikes } else s.slot n) ∧
    ∀ v, 100 ≤ v → v ≤ 260 → (∀ n, (s.slot n).state.busy = false) →
      ∃ t c, exec (.senseSetGeneral p (1 :: beBytes 2 v)) s = .next t ∧ c = { s.settings.sense with volts := v } ∧
        t.settings = { s.settings with sense := c } ∧ t.writes = s.writes ++ [[.sense c]] ∧
        s.awaits p ⟨0x15, .ok, .empty⟩ t ∧ ∀ n, t.slot n = { s.slot n with sense := (s.slot n).sense.resetStrikes }

/-- BUDGET_SET and both forms of GOVERNOR_SET set what they name and store it; the first two reckon: the figures of R104 and
R105 are brought up to date, and the granted heat comes within the budget or its margin (R102, R103, R106, R114). The class form
returns the strike counters of its class's slots to 0 where a draw of the class changes (R131). -/
def Obligations.TheGovernorIsSet : Prop :=
  ∀ (s : State) (p : Port), s.readyFor p → s.turn ≠ some (otherPort p) →
    (∀ w, 1000 ≤ w → w ≤ 200000 → ∃ t, exec (.budgetSet p (beBytes 3 w)) s = .next t ∧ s.budgeted w t ∧
      s.awaits p ⟨0x40, .ok, .budget w t.gov.heat⟩ t) ∧
    (∀ w m, 1000 ≤ w → w ≤ 200000 → m ≤ 2000 → ∃ t g,
      exec (.governorSetGeneral p (0 :: beBytes 3 w ++ beBytes 2 m)) s = .next t ∧
      g = { s.settings.governor with budget := w, margin := m } ∧ t.settings = { s.settings with governor := g } ∧
      t.writes = s.writes ++ [[.governor g]] ∧ s.awaits p ⟨0x14, .ok, .empty⟩ t ∧
      t.gov.heat = (w : Int) - t.gov.motor - s.gov.stray ∧
      (t.gov.heat < s.gov.heat ∨ m < s.settings.governor.margin ∨ s.capped → t.capped) ∧ t.holds = s.holds ∧
      t.accounts = s.accounts ∧
      (s.heatLaw → t.gov.motor = t.motorSum ∧ ∀ n, (s.slot n).bystander (t.slot n))) ∧
    ∀ (c : Fin 4) (k : GovClass), 50 ≤ k.motor → k.motor ≤ 3000 → k.heat ≤ 12000 → k.priority ≤ 3 →
      (∀ n, s.slotCls n = some c → (s.slot n).state.busy = false ∧ (s.slot n).motorActive = false) →
      ∃ t g, exec (.governorSetClass p (1 :: beBytes 1 c ++ beBytes 2 k.motor ++ beBytes 2 k.heat ++ beBytes 1 k.priority)) s =
          .next t ∧
        g = { s.settings.governor with classes := s.settings.governor.classes.set c.val k } ∧
        t.settings = { s.settings with governor := g } ∧ t.writes = s.writes ++ [[.governor g]] ∧
        s.awaits p ⟨0x14, .ok, .empty⟩ t ∧ t.gov = s.gov ∧
        ∀ n, t.slot n = if s.slotCls n = some c ∧ (k.motor ≠ (s.govClass c).motor ∨ k.heat ≠ (s.govClass c).heat)
          then { s.slot n with sense := (s.slot n).sense.resetStrikes } else s.slot n

/-- SLOT_SET gives a slot its class and half, or takes them: an UNCONFIGURED slot given a class is offered, one whose class is
removed is UNCONFIGURED with its cause set empty and its open entries LATCHED, and its sensing as at start-up. A scan in progress
goes on with a slot under the class it had at the scan's start. TERMINAL_SET sets a terminal's mode (R1, R2, R34, R35, R123,
R131, R146). -/
def Obligations.SlotsAndTerminalsAreSet : Prop :=
  ∀ (s : State) (p : Port), s.readyFor p → s.turn ≠ some (otherPort p) → s.heatLaw → s.busyLaw →
    (∀ (n : Fin 24) (t h : Nat), t < 256 → h < 256 → (s.slot n).state.settable = true → (s.slot n).cfg.isSome →
      ∃ u, exec (.slotSet p (beBytes 1 n ++ [0xFF] ++ beBytes 1 t ++ beBytes 1 h)) s = .next u ∧
        s.awaits p ⟨0x12, .ok, .empty⟩ u ∧ u.writes = s.writes ++ [[.slot n none, .causes n none]] ∧
        (u.slot n).cfg = none ∧ (u.slot n).state = .unconfigured ∧ (u.slot n).causes = .empty ∧ (u.slot n).run = 0 ∧
        (u.slot n).sense = .start ∧ u.faults.table = s.faults.table.map (fun e => if e.source = some n then { e with condition := .latched } else e) ∧
        u.faults.history = s.faults.history ∧
        u.accounts = s.accounts ∧ u.holds = s.holds ∧ ∀ m, m ≠ n → (s.slot m).bystander (u.slot m)) ∧
    (∀ (n : Fin 24) (c : Fin 4) (t : Fin 16) (h : Half), (s.slot n).state.settable = true →
      (s.slotAt t h = none ∨ s.slotAt t h = some n) → (h = .b → (s.terminal t).mode = .paired) →
      ∃ u, exec (.slotSet p (beBytes 1 n ++ beBytes 1 c ++ beBytes 1 t ++ beBytes 1 (match h with | .a => 0 | .b => 1))) s =
          .next u ∧
        s.awaits p ⟨0x12, .ok, .empty⟩ u ∧ u.writes = s.writes ++ [[.slot n (some ⟨c, t, h⟩)]] ∧
        (u.slot n).cfg = some ⟨c, t, h⟩ ∧ (u.slot n).sense.scanned = (s.slot n).sense.scanned ∧
        (∀ o, (s.slot n).cfg = some o → (s.cls o.cls).kind = (s.cls c).kind → (u.slot n).phase = (s.slot n).phase) ∧
        ((∀ o, (s.slot n).cfg = some o → (s.cls o.cls).kind ≠ (s.cls c).kind) →
          ((s.cls c).kind = .dryer ↔ (u.slot n).phase = .dry ∨ (u.slot n).phase = .cool)) ∧
        ((s.slot n).cfg = none → (s.terminal t).presence ≠ .lost → (s.slot n).causes.lost = false →
          (u.slot n).state = (if s.queue c = [] then .idle else .reserved)) ∧
        u.accounts = s.accounts ∧ u.holds = s.holds) ∧
    ∀ (t : Fin 16) (m : TermMode), (s.terminal t).mode ≠ m →
      (∀ n o, (s.slot n).cfg = some o → o.term = t → (s.slot n).state.settable = true) → (m = .single → s.slotAt t .b = none) →
      exec (.terminalSet p (beBytes 1 t ++ beBytes 1 (match m with | .single => 0 | .paired => 1))) s =
        .next ((s.modTerminal t fun x => { x with mode := m }).stores p ⟨0x13, .ok, .empty⟩ [.terminal t m])

/-- ROOM_SET, ROOM_MODE and TIME_SET set the schedule, the mode and the clock, and the room follows them at the event (R173,
R174, R176, R178). That the OK to the mode already in force carries the mode and the room state is the model's choice (log 43). -/
def Obligations.TheRoomIsSet : Prop :=
  ∀ (s : State) (p : Port), s.readyFor p →
    (∀ o c l w e r, s.turn ≠ some (otherPort p) → o ≤ 1439 → c ≤ 1439 → 5 ≤ l → l ≤ 120 → 1 ≤ w → w ≤ 60 → 10 ≤ e →
      e ≤ 480 → 1 ≤ r → r ≤ 30 →
      ∃ t, exec (.roomSet p (beBytes 2 o ++ beBytes 2 c ++ beBytes 1 l ++ beBytes 1 w ++ beBytes 2 e ++ beBytes 1 r)) s =
          .next t ∧
        t.settings = { s.settings with room := ⟨o, c, l, w, e, r, s.settings.room.mode⟩ } ∧
        t.writes = s.writes ++ [[.room t.settings.room]] ∧ s.awaits p ⟨0x16, .ok, .empty⟩ t ∧
        t.room.state = (if s.room.state = .suspended ∨ s.room.state = .held then s.room.state else t.modeState)) ∧
    (∀ m, s.turn ≠ some (otherPort p) → 3 ≤ m → m < 256 →
      exec (.roomMode p (beBytes 1 m)) s = .next (s.replied p ⟨0x50, .badValue, .empty⟩)) ∧
    (∀ m : Mode, (s.turn ≠ some (otherPort p) → s.settings.room.mode = m →
        exec (.roomMode p (beBytes 1 m.value)) s = .next (s.replied p ⟨0x50, .ok, .roomMode m s.room.state⟩)) ∧
      (s.turn ≠ some (otherPort p) → s.settings.room.mode ≠ m →
        ∃ t, exec (.roomMode p (beBytes 1 m.value)) s = .next t ∧
          t.settings = { s.settings with room := { s.settings.room with mode := m } } ∧
          t.writes = s.writes ++ [[.room t.settings.room]] ∧ s.awaits p ⟨0x50, .ok, .roomMode m t.room.state⟩ t ∧
          t.room.state = (if s.room.state = .suspended ∨ s.room.state = .held then s.room.state else t.modeState))) ∧
    ∀ day second, day < 65536 → second < 86400 →
      (s.clock.isSet = true → s.clock.second / 60 = second / 60 →
        exec (.timeSet p (beBytes 2 day ++ beBytes 3 second)) s =
          .next (State.replied { s with clock := ⟨second, day, true⟩ } p ⟨0x17, .ok, .clock ⟨second, day, true⟩⟩)) ∧
      ((s.clock.isSet = false ∨ s.clock.second / 60 ≠ second / 60) →
        ∃ t, exec (.timeSet p (beBytes 2 day ++ beBytes 3 second)) s = .next t ∧ t.clock = ⟨second, day, true⟩ ∧
          t.port p = (s.port p).answered ⟨0x17, .ok, .clock ⟨second, day, true⟩⟩ ∧ s.booksKept t ∧
          t.room.state = (if s.room.state = .suspended ∨ s.room.state = .held then s.room.state else t.modeState))

/-- ROOM_RESUME takes a HELD room to its mode state, stops the suspension timer, and resumes every SUSPENDED slot by its
resume point and its view (R27, R182). The reply carries the mode state also where the room goes on from CLOSING to CLOSED at the
event, and counts every slot that was SUSPENDED, a DONE washer that ends among them (both the model's choice, log 41). -/
def Obligations.ResumeSetsTheRoomGoing : Prop :=
  ∀ (s : State) (p : Port), s.readyFor p → s.turn ≠ some (otherPort p) →
    (s.room.state ≠ .held → exec (.roomResume p []) s = .next (s.replied p ⟨0x51, .wrongState, .empty⟩)) ∧
    (s.room.state = .held → s.heatLaw → s.busyLaw → ∃ t, exec (.roomResume p []) s = .next t ∧ t.room.timer = .idle ∧
      (t.room.state = s.modeState ∨ s.modeState = .closing ∧ t.room.state = .closed) ∧
      (∃ r, r = (⟨0x51, .ok, .resumed s.modeState
          (allSlots.filter fun n => (s.slot n).state = .suspended).length⟩ : Reply) ∧
        ((t.port p) = (s.port p).answered r ∨ s.awaits p r t)) ∧
      ∀ n, (s.slot n).state = .suspended →
        ((s.slot n).resume = some .locking →
          t.hold n = s.hold n ∧
          if (s.slot n).view.lock = .locked ∧ (s.slot n).view.doorOpen = false then (t.slot n).state.heated
          else (t.slot n).state = .locking) ∧
        ((s.slot n).resume ≠ some .locking →
          if s.kind n = .washer ∧ (s.slot n).view.status = .done then t.hold n = none ∧ (t.slot n).state = .finishing
          else t.hold n = s.hold n ∧ (t.slot n).state.heated))

/-! ### The requests that act -/

/-- The account requests: ACCOUNT_PUT writes a record, ACCOUNT_CREDIT raises its balance, ACCOUNT_STATE sets its state,
ACCOUNT_REMOVE makes it FREE; no other record changes, and a card removed or blocked loses its waitlist entries (R65 to R68,
R70). -/
def Obligations.AccountsAreWritten : Prop :=
  ∀ (s : State) (p : Port) (i : Nat), s.readyFor p → s.turn ≠ some (otherPort p) → i < 512 → let a := s.account i
    (∀ card st balance cap, 0 < card → card < 2 ^ 32 → st = .active ∨ st = .blocked → balance ≤ 999999 → cap ≤ 99999 →
      a.held ≤ balance → (∀ j, s.findCard card = some j → j = i) → ∀ b : Account,
      b = (if a.state = .free ∨ a.state = .suspect then ⟨card, st, balance, 0, cap, 0, s.clock.day⟩
        else { a with card := card, state := st, balance := balance, cap := cap }) →
      ∃ t, exec (.accountPut p (beBytes 2 i ++ beBytes 4 card ++ beBytes 1 (if st = .active then 1 else 2) ++
          beBytes 3 balance ++ beBytes 3 cap)) s = .next t ∧
        (∀ j, t.account j = if j = i then b else s.account j) ∧ t.writes = s.writes ++ [[.account i b]] ∧
        s.awaits p ⟨0x20, .ok, .account b (b.balance - b.held)⟩ t ∧ t.holds = s.holds ∧ t.settlement = s.settlement ∧
        (a.card ≠ 0 → a.state = .active ∧ (a.card ≠ card ∨ st = .blocked) ∨ a.state = .blocked ∧ a.card ≠ card →
          ∀ c, ∀ e ∈ t.queue c, e.card ≠ a.card)) ∧
    (∀ amount, amount < 2 ^ 24 → amount = 0 ∨ 999999 < amount →
      exec (.accountCredit p (beBytes 2 i ++ beBytes 3 amount)) s = .next (s.replied p ⟨0x21, .badValue, .empty⟩)) ∧
    (∀ amount, 1 ≤ amount → amount ≤ 999999 → a.state = .free ∨ a.state = .suspect →
      exec (.accountCredit p (beBytes 2 i ++ beBytes 3 amount)) s =
        .next (s.replied p ⟨0x21, if a.state = .free then .notFound else .wrongState, .empty⟩)) ∧
    (∀ amount, 1 ≤ amount → amount ≤ 999999 → a.state = .active ∨ a.state = .blocked →
      (999999 < a.balance + amount → exec (.accountCredit p (beBytes 2 i ++ beBytes 3 amount)) s =
        .next (s.replied p ⟨0x21, .limit, .empty⟩)) ∧
      (a.balance + amount ≤ 999999 → ∀ b : Account, b = { a with balance := a.balance + amount } →
        exec (.accountCredit p (beBytes 2 i ++ beBytes 3 amount)) s = .next ((s.setAccount i b).stores p
          ⟨0x21, .ok, .credit b.balance (b.balance - b.held)⟩ [.account i b]))) ∧
    (∀ st, st = .active ∨ st = .blocked → a.state = .active ∨ a.state = .blocked →
      (a.state = st → exec (.accountState p (beBytes 2 i ++ beBytes 1 (if st = .active then 1 else 2))) s =
        .next (s.replied p ⟨0x22, .ok, .empty⟩)) ∧
      (a.state ≠ st → ∃ t, exec (.accountState p (beBytes 2 i ++ beBytes 1 (if st = .active then 1 else 2))) s = .next t ∧
        (∀ j, t.account j = if j = i then { a with state := st } else s.account j) ∧
        t.writes = s.writes ++ [[.account i { a with state := st }]] ∧ s.awaits p ⟨0x22, .ok, .empty⟩ t ∧
        t.holds = s.holds ∧ (a.card ≠ 0 → st = .blocked → ∀ c, ∀ e ∈ t.queue c, e.card ≠ a.card))) ∧
    (a.state ≠ .free →
      (0 < a.held → exec (.accountRemove p (beBytes 2 i)) s = .next (s.replied p ⟨0x23, .wrongState, .empty⟩)) ∧
      (a.held = 0 → ∃ t, exec (.accountRemove p (beBytes 2 i)) s = .next t ∧
        (∀ j, t.account j = if j = i then .free else s.account j) ∧ t.writes = s.writes ++ [[.account i .free]] ∧
        s.awaits p ⟨0x23, .ok, .empty⟩ t ∧ t.holds = s.holds ∧ (a.card ≠ 0 → ∀ c, ∀ e ∈ t.queue c, e.card ≠ a.card)))

/-- SETTLEMENT_RELEASE removes the records up to the number it carries, and the store's places with them, or is refused with
NOT_FOUND. WAITLIST_REMOVE takes a card's entry out of its class queue, or its reserved slot on (R99, R163, R171). -/
def Obligations.RecordsAndPlacesAreReleased : Prop :=
  (∀ (s : State) (number : Nat), s.readyFor .building → s.turn ≠ some .service → number < 2 ^ 32 →
    (∀ k r, s.settlement.records[k]? = some r → r.number = number →
      (∀ j x, j < k → s.settlement.records[j]? = some x → x.number ≠ number) →
      ∀ q : SettlementQueue, q = ⟨s.settlement.records.drop (k + 1), (s.settlement.oldest + (k + 1)) % 64, s.settlement.next⟩ →
      exec (.settlementRelease .building (beBytes 4 number)) s = .next (State.stores { s with settlement := q } .building
        ⟨0x29, .ok, .released (k + 1) q.records.length (q.records.head?.map fun r => r.number)⟩
        ((List.range (k + 1)).map (fun j => .place (s.settlement.place j) none) ++
          [.header ⟨q.oldest, q.records.length, q.next⟩]))) ∧
    ((∀ r ∈ s.settlement.records, r.number ≠ number) →
      exec (.settlementRelease .building (beBytes 4 number)) s = .next (s.replied .building ⟨0x29, .notFound,
        .notReleased s.settlement.records.length (s.settlement.records.head?.map fun r => r.number)⟩))) ∧
  ∀ (s : State) (p : Port) (c : Fin 4) (card : Nat), s.readyFor p → 0 < card → card < 2 ^ 32 →
    (∀ k e, (s.queue c)[k]? = some e → e.card = card → (∀ j x, j < k → (s.queue c)[j]? = some x → x.card ≠ card) →
      ∀ q, q = (s.queue c).filter (fun e => e.card ≠ card) →
      exec (.waitlistRemove p (beBytes 1 c ++ beBytes 4 card)) s =
        .next ((s.setQueue c q).replied p ⟨0x49, .ok, .removedEntry (k + 1) q.length⟩)) ∧
    ((∀ e ∈ s.queue c, e.card ≠ card) →
      (s.reservedFor c card = none → exec (.waitlistRemove p (beBytes 1 c ++ beBytes 4 card)) s =
        .next (s.replied p ⟨0x49, .notFound, .empty⟩)) ∧
      ∀ n, s.reservedFor c card = some n → s.heatLaw → s.busyLaw →
        ∃ t, exec (.waitlistRemove p (beBytes 1 c ++ beBytes 4 card)) s = .next t ∧ s.offered n t ∧ s.booksKept t ∧
          t.port p = (s.port p).answered ⟨0x49, .ok, .removedReservation n (t.queue c).length⟩)

/-- SLOT_SERVICE and SLOT_STOP: a cause joins or leaves a slot's set, and the slot follows; a forced take and SLOT_STOP end a
busy slot's cycle ABANDONED into FAULTED (R24, R30, R154 to R156, R193), and where that makes an ARMED slot motor-active the motor
allowance and the effective heat budget count it (R104, R105; log 17). -/
def Obligations.SlotsAreTakenAndStopped : Prop :=
  ∀ (s : State) (p : Port) (n : Fin 24), s.readyFor p → s.turn ≠ some (otherPort p) → s.heatLaw → s.busyLaw →
    (s.slot n).state ≠ .unconfigured → let x := s.slot n
    (∀ force : Bool, let c := beBytes 1 n ++ [0] ++ beBytes 1 (bit force)
      (x.state.busy = true → force = false →
        exec (.slotServiceTake p c) s = .next (s.replied p ⟨0x30, .wrongState, .empty⟩)) ∧
      ((x.state.busy = false ∨ force = true) → x.causes.has (portCause p) = true →
        exec (.slotServiceTake p c) s = .next (s.replied p ⟨0x30, .ok, .slotCauses x.state x.causes⟩)) ∧
      ((x.state.busy = false ∨ force = true) → x.causes.has (portCause p) = false →
        ∃ t, exec (.slotServiceTake p c) s = .next t ∧ (t.slot n).causes = x.causes.set (portCause p) true ∧
          s.awaits p ⟨0x30, .ok, .slotCauses (t.slot n).state (t.slot n).causes⟩ t ∧
          (∀ h, s.hold n = some h → (t.slot n).state = .faulted ∧ t.hold n = none ∧
            t.settlement.records = s.settlement.records ++ [s.settlementRecord n h .abandoned none] ∧
            (x.state = .armed → t.gov.motor = t.motorSum ∧ t.gov.heat = t.heatBudget)) ∧
          (x.state.busy = false → (t.slot n).state = (if x.state = .idle ∨ x.state = .reserved ∨ x.state = .collect
              then .outOfService else x.state) ∧
            t.accounts = s.accounts ∧ t.holds = s.holds ∧
            t.writes = s.writes ++ [[.causes n (some (t.slot n).causes.stored)]]))) ∧
    (∀ force : Bool, let c := beBytes 1 n ++ [1] ++ beBytes 1 (bit force)
      (x.causes.has (portCause p) = false →
        exec (.slotServiceReturn p c) s = .next (s.replied p ⟨0x30, .ok, .slotCauses x.state x.causes⟩)) ∧
      (x.causes.has (portCause p) = true →
        ∃ t, exec (.slotServiceReturn p c) s = .next t ∧ (t.slot n).causes = x.causes.set (portCause p) false ∧
          s.awaits p ⟨0x30, .ok, .slotCauses (t.slot n).state (t.slot n).causes⟩ t ∧
          t.writes = s.writes ++ [[.causes n (some (t.slot n).causes.stored)]] ∧ t.accounts = s.accounts ∧
          t.holds = s.holds ∧
          if x.state = .outOfService ∧ (x.causes.set (portCause p) false).isEmpty = true
          then (t.slot n).state = .idle ∨ (t.slot n).state = .reserved else (t.slot n).state = x.state)) ∧
    (x.state.busy = false → exec (.slotStop p (beBytes 1 n)) s = .next (s.replied p ⟨0x31, .wrongState, .empty⟩)) ∧
    ∀ h, s.hold n = some h → ∃ t, exec (.slotStop p (beBytes 1 n)) s = .next t ∧
      (t.slot n).state = .faulted ∧ t.hold n = none ∧
      t.settlement.records = s.settlement.records ++ [s.settlementRecord n h .abandoned none] ∧
      (∀ i, t.account i = if i = h.account then (s.account i).settled s.clock.day
        (s.settlementRecord n h .abandoned none).charge h.amount else s.account i) ∧
      s.awaits p ⟨0x31, .ok, .stopped .faulted s.settlement.next⟩ t ∧
      (x.state = .armed → t.gov.motor = t.motorSum ∧ t.gov.heat = t.heatBudget)

/-- FAULT_CLEAR closes a LATCHED entry into the history ring, but one of LOCKOUT severity only from the service port; an
ACTIVE entry stays; with the last LOCKOUT entry of a slot gone, FAULT_LOCKOUT leaves its set, and the service port also clears
a FAULT_LOCKOUT that no entry holds (R147 to R149, R151). -/
def Obligations.FaultsAreCleared : Prop :=
  ∀ (s : State) (p : Port) (source : Option (Fin 24)) (code : FaultCode), s.readyFor p → s.turn ≠ some (otherPort p) →
    let c : Instr := .faultClear p (beBytes 1 (sourceValue source) ++ beBytes 1 code.value)
    (s.faults.find source code = none → (p = .building ∨ source = none) →
      exec c s = .next (s.replied p ⟨0x3A, .notFound, .empty⟩)) ∧
    (s.faults.find source code = none → p = .service → ∀ n, source = some n →
      if (s.slot n).causes.lockout = true ∧ ∀ x ∈ s.faults.table, x.source = some n → x.severity ≠ .lockout then
        ∃ t, exec c s = .next t ∧ (t.slot n).causes = { (s.slot n).causes with lockout := false } ∧
          t.faults = s.faults ∧ ∃ r, (r : Reply).kind = 0x3A ∧ r.status = .ok ∧ s.awaits p r t
      else exec c s = .next (s.replied p ⟨0x3A, .notFound, .empty⟩)) ∧
    ∀ e, s.faults.find source code = some e →
      (e.condition = .active → exec c s = .next (s.replied p ⟨0x3A, .stillActive, .empty⟩)) ∧
      (e.condition = .latched → e.severity = .lockout → p = .building →
        exec c s = .next (s.replied p ⟨0x3A, .notPermitted, .empty⟩)) ∧
      (e.condition = .latched → (e.severity ≠ .lockout ∨ p = .service) →
        ∃ t, exec c s = .next t ∧ t.faults.table = s.faults.table.filter (fun x => ¬(x.source = source ∧ x.code = code)) ∧
          t.faults.history = (let h := s.faults.history ++ [⟨e, s.faults.next, .cleared p, s.clock⟩]; h.drop (h.length - 32)) ∧
          t.faults.next = (s.faults.next + 1) % 65536 ∧ t.accounts = s.accounts ∧ t.holds = s.holds ∧
          (∃ r, (r : Reply).kind = 0x3A ∧ r.status = .ok ∧ ((t.port p).activity = .built r ∨ s.awaits p r t)) ∧
          ∀ n, source = some n →
            (t.slot n).causes = if ∃ x ∈ t.faults.table, x.source = some n ∧ x.severity = .lockout then (s.slot n).causes
              else { (s.slot n).causes with lockout := false })

/-! ### The settlement arithmetic, the governor and the laws that every command keeps -/

/-- A settlement record's charge follows its reason: the whole amount, nothing, or the proportional charge with grace; it is
at most the held amount (R87 to R89). Its paid seconds are those of the hold's snapshot, its kind among what the snapshot gives
(R86, log 26). -/
def Obligations.ChargesFollowTheReason : Prop :=
  ∀ (s : State) (n : Fin 24) (h : Hold) (r : Reason) (f : Option (FaultCode × Option Nat)),
    let x := s.settlementRecord n h r f
    (r = .completed ∨ r = .userStop ∨ r = .outageComplete → x.charge = h.amount) ∧
    (r = .notStarted → x.charge = 0) ∧
    (r = .fault ∨ r = .abandoned ∨ r = .outage →
      (x.run < h.snap.grace → x.charge = 0) ∧
      (h.snap.grace ≤ x.run →
        x.charge = h.snap.granularity * (h.amount * min x.run x.paid / x.paid / h.snap.granularity) ∧
        h.snap.granularity ∣ x.charge ∧ x.charge ≤ h.amount * min x.run x.paid / x.paid ∧
        h.amount * min x.run x.paid / x.paid ≤ h.amount)) ∧
    x.charge ≤ h.amount ∧ x.fault = (if r = .fault then f.map Prod.fst else none) ∧ x.run = (s.slot n).run ∧
    x.paid = h.snap.planned + (match h.snap.kind with | .washer => 0 | .dryer => 60 * h.steps * h.snap.step)

/-- A reckoning leaves the granted heat within the budget and its margin, or no grant (R114); a placed request keeps the queue
in the order of priority and stamp (R111); with the room negative a pass grants nothing, and it grants nothing behind an aged
request that does not fit, wherever in the queue that stands (R112, R113). -/
def Obligations.TheGovernorKeepsItsLists : Prop :=
  (∀ (s : State) (freed asked lowered : Bool), s.capped ∨ lowered = true → (s.reckon freed asked lowered).capped) ∧
  (∀ (priority : Fin 4 → Nat) (r : HeatRequest) (q : List HeatRequest),
    (q.Pairwise fun x y => priority x.cls < priority y.cls ∨ priority x.cls = priority y.cls ∧ x.stamp ≤ y.stamp) →
      (placeRequest priority r q).Perm (r :: q) ∧ (placeRequest priority r q).Pairwise fun x y =>
        priority x.cls < priority y.cls ∨ priority x.cls = priority y.cls ∧ x.stamp ≤ y.stamp) ∧
  ∀ (heat : Fin 4 → Nat) (revoked : List (Fin 24)) (room : Int) (q : List HeatRequest),
    (room < 0 → newGrants (walk heat revoked room q) = []) ∧
    ∀ front r rest, q = front ++ r :: rest → r.slot ∉ revoked → r.aged = true →
      room - ((newGrants (walk heat revoked room front)).map fun x => (heat x.cls : Int)).sum < heat r.cls →
      newGrants (walk heat revoked room q) = newGrants (walk heat revoked room front)

/-- Every step keeps: the outputs those of the slots' states (R3); the event queue in its numbers (R198); the room clock in
its range (R172); the fault table and the history ring in their form (R142, R151); the store's accounts one record an index
(R60). -/
def Obligations.StepsKeepTheRecordsInForm : Prop :=
  ∀ s t : State, step s = .next t →
    (s.outputsAgree → t.outputsAgree) ∧ (s.events.ok → t.events.ok) ∧ (s.clock.ok → t.clock.ok) ∧
    (s.store.inOrder → t.store.inOrder) ∧
    (s.faults.ok ∧ (∀ k, s.life = .strap k → s.faults = ⟨[], [], 0⟩) →
      t.faults.ok ∧ ∀ k, t.life = .strap k → t.faults = ⟨[], [], 0⟩)

/-- Every step keeps the heat requests in agreement with the slots, and the holds with the busy states (R18, R72, R109). -/
def Obligations.StepsKeepHeatAndHolds : Prop :=
  ∀ s t : State, s.heatLaw → s.busyLaw → step s = .next t → t.heatLaw ∧ t.busyLaw

/-- Every command but START_UP and STRAP_REREAD keeps the payment unit's records balanced: the held amounts are the sums of the
holds, and no more than the balances; a card id is on one record; the settlement queue has room for every hold (R60 to R62, R64,
R74). -/
def Obligations.CommandsKeepThePurse : Prop :=
  ∀ (c : Instr) (s t : State), (∀ i, c ≠ .startUp i) → (∀ i, c ≠ .strapReread i) → s.heatLaw → s.busyLaw → s.purse →
    exec c s = .next t → t.purse

/-- Every command but START_UP and STRAP_REREAD that leaves the part with power keeps the store in step: once every change in
progress is done, it holds every record that is kept in it, the settlement places and their header among them, while the payment
unit's records are balanced, as every such command keeps them (R2, R34, R75, R79, R91, R94, R99, R154, R204). -/
def Obligations.CommandsKeepTheStoreInStep : Prop :=
  ∀ (c : Instr) (s t : State), (∀ i, c ≠ .startUp i) → (∀ i, c ≠ .strapReread i) → s.heatLaw → s.busyLaw → s.purse →
    s.mirrored → exec c s = .next t → t.life ≠ .waiting → t.mirrored

/-- The machine after reset obeys the laws (R3, R18, R62, R64, R72, R142, R198); the values that the spec does not give are
the model's (log 6). -/
def Obligations.ResetIsLawful : Prop :=
  State.reset.outputsAgree ∧ State.reset.events.ok ∧ State.reset.clock.ok ∧ State.reset.faults.ok ∧ State.reset.heatLaw ∧
    State.reset.busyLaw ∧ State.reset.store.inOrder ∧ State.reset.purse ∧ State.reset.capped ∧ State.reset.pending = [] ∧
    State.reset.life = .waiting

end
end

