-- ==== Sys2Proof/Laws/State.lean ====
section
/-!
SUPPORT. The small lemmas of the state's updates: one per field per update, and reading back what an update wrote.
-/

namespace Sys2Proof.Machine

variable (s : State)

/-! ### `State.setSlot` -/

@[simp] theorem State.setSlot_life (n : Fin 24) (x : Slot) : (s.setSlot n x).life = s.life := rfl
@[simp] theorem State.setSlot_clock (n : Fin 24) (x : Slot) : (s.setSlot n x).clock = s.clock := rfl
@[simp] theorem State.setSlot_elapsed (n : Fin 24) (x : Slot) : (s.setSlot n x).elapsed = s.elapsed := rfl
@[simp] theorem State.setSlot_unit (n : Fin 24) (x : Slot) : (s.setSlot n x).unit = s.unit := rfl
@[simp] theorem State.setSlot_strapMarginal (n : Fin 24) (x : Slot) : (s.setSlot n x).strapMarginal = s.strapMarginal := rfl
@[simp] theorem State.setSlot_settings (n : Fin 24) (x : Slot) : (s.setSlot n x).settings = s.settings := rfl
@[simp] theorem State.setSlot_room (n : Fin 24) (x : Slot) : (s.setSlot n x).room = s.room := rfl
@[simp] theorem State.setSlot_terminals (n : Fin 24) (x : Slot) : (s.setSlot n x).terminals = s.terminals := rfl
@[simp] theorem State.setSlot_bus (n : Fin 24) (x : Slot) : (s.setSlot n x).bus = s.bus := rfl
@[simp] theorem State.setSlot_accounts (n : Fin 24) (x : Slot) : (s.setSlot n x).accounts = s.accounts := rfl
@[simp] theorem State.setSlot_holds (n : Fin 24) (x : Slot) : (s.setSlot n x).holds = s.holds := rfl
@[simp] theorem State.setSlot_settlement (n : Fin 24) (x : Slot) : (s.setSlot n x).settlement = s.settlement := rfl
@[simp] theorem State.setSlot_gov (n : Fin 24) (x : Slot) : (s.setSlot n x).gov = s.gov := rfl
@[simp] theorem State.setSlot_scanner (n : Fin 24) (x : Slot) : (s.setSlot n x).scanner = s.scanner := rfl
@[simp] theorem State.setSlot_faults (n : Fin 24) (x : Slot) : (s.setSlot n x).faults = s.faults := rfl
@[simp] theorem State.setSlot_queues (n : Fin 24) (x : Slot) : (s.setSlot n x).queues = s.queues := rfl
@[simp] theorem State.setSlot_building (n : Fin 24) (x : Slot) : (s.setSlot n x).building = s.building := rfl
@[simp] theorem State.setSlot_service (n : Fin 24) (x : Slot) : (s.setSlot n x).service = s.service := rfl
@[simp] theorem State.setSlot_turn (n : Fin 24) (x : Slot) : (s.setSlot n x).turn = s.turn := rfl
@[simp] theorem State.setSlot_restart (n : Fin 24) (x : Slot) : (s.setSlot n x).restart = s.restart := rfl
@[simp] theorem State.setSlot_events (n : Fin 24) (x : Slot) : (s.setSlot n x).events = s.events := rfl
@[simp] theorem State.setSlot_store (n : Fin 24) (x : Slot) : (s.setSlot n x).store = s.store := rfl
@[simp] theorem State.setSlot_writes (n : Fin 24) (x : Slot) : (s.setSlot n x).writes = s.writes := rfl
@[simp] theorem State.setSlot_free (n : Fin 24) (x : Slot) : (s.setSlot n x).free = s.free := rfl
@[simp] theorem State.setSlot_pending (n : Fin 24) (x : Slot) : (s.setSlot n x).pending = s.pending := rfl

/-! ### `State.modSlot` -/

@[simp] theorem State.modSlot_life (n : Fin 24) (f : Slot → Slot) : (s.modSlot n f).life = s.life := rfl
@[simp] theorem State.modSlot_clock (n : Fin 24) (f : Slot → Slot) : (s.modSlot n f).clock = s.clock := rfl
@[simp] theorem State.modSlot_elapsed (n : Fin 24) (f : Slot → Slot) : (s.modSlot n f).elapsed = s.elapsed := rfl
@[simp] theorem State.modSlot_unit (n : Fin 24) (f : Slot → Slot) : (s.modSlot n f).unit = s.unit := rfl
@[simp] theorem State.modSlot_strapMarginal (n : Fin 24) (f : Slot → Slot) : (s.modSlot n f).strapMarginal = s.strapMarginal := rfl
@[simp] theorem State.modSlot_settings (n : Fin 24) (f : Slot → Slot) : (s.modSlot n f).settings = s.settings := rfl
@[simp] theorem State.modSlot_room (n : Fin 24) (f : Slot → Slot) : (s.modSlot n f).room = s.room := rfl
@[simp] theorem State.modSlot_terminals (n : Fin 24) (f : Slot → Slot) : (s.modSlot n f).terminals = s.terminals := rfl
@[simp] theorem State.modSlot_bus (n : Fin 24) (f : Slot → Slot) : (s.modSlot n f).bus = s.bus := rfl
@[simp] theorem State.modSlot_accounts (n : Fin 24) (f : Slot → Slot) : (s.modSlot n f).accounts = s.accounts := rfl
@[simp] theorem State.modSlot_holds (n : Fin 24) (f : Slot → Slot) : (s.modSlot n f).holds = s.holds := rfl
@[simp] theorem State.modSlot_settlement (n : Fin 24) (f : Slot → Slot) : (s.modSlot n f).settlement = s.settlement := rfl
@[simp] theorem State.modSlot_gov (n : Fin 24) (f : Slot → Slot) : (s.modSlot n f).gov = s.gov := rfl
@[simp] theorem State.modSlot_scanner (n : Fin 24) (f : Slot → Slot) : (s.modSlot n f).scanner = s.scanner := rfl
@[simp] theorem State.modSlot_faults (n : Fin 24) (f : Slot → Slot) : (s.modSlot n f).faults = s.faults := rfl
@[simp] theorem State.modSlot_queues (n : Fin 24) (f : Slot → Slot) : (s.modSlot n f).queues = s.queues := rfl
@[simp] theorem State.modSlot_building (n : Fin 24) (f : Slot → Slot) : (s.modSlot n f).building = s.building := rfl
@[simp] theorem State.modSlot_service (n : Fin 24) (f : Slot → Slot) : (s.modSlot n f).service = s.service := rfl
@[simp] theorem State.modSlot_turn (n : Fin 24) (f : Slot → Slot) : (s.modSlot n f).turn = s.turn := rfl
@[simp] theorem State.modSlot_restart (n : Fin 24) (f : Slot → Slot) : (s.modSlot n f).restart = s.restart := rfl
@[simp] theorem State.modSlot_events (n : Fin 24) (f : Slot → Slot) : (s.modSlot n f).events = s.events := rfl
@[simp] theorem State.modSlot_store (n : Fin 24) (f : Slot → Slot) : (s.modSlot n f).store = s.store := rfl
@[simp] theorem State.modSlot_writes (n : Fin 24) (f : Slot → Slot) : (s.modSlot n f).writes = s.writes := rfl
@[simp] theorem State.modSlot_free (n : Fin 24) (f : Slot → Slot) : (s.modSlot n f).free = s.free := rfl
@[simp] theorem State.modSlot_pending (n : Fin 24) (f : Slot → Slot) : (s.modSlot n f).pending = s.pending := rfl

/-! ### `State.setHold` -/

@[simp] theorem State.setHold_life (n : Fin 24) (h : Option Hold) : (s.setHold n h).life = s.life := rfl
@[simp] theorem State.setHold_clock (n : Fin 24) (h : Option Hold) : (s.setHold n h).clock = s.clock := rfl
@[simp] theorem State.setHold_elapsed (n : Fin 24) (h : Option Hold) : (s.setHold n h).elapsed = s.elapsed := rfl
@[simp] theorem State.setHold_unit (n : Fin 24) (h : Option Hold) : (s.setHold n h).unit = s.unit := rfl
@[simp] theorem State.setHold_strapMarginal (n : Fin 24) (h : Option Hold) : (s.setHold n h).strapMarginal = s.strapMarginal := rfl
@[simp] theorem State.setHold_settings (n : Fin 24) (h : Option Hold) : (s.setHold n h).settings = s.settings := rfl
@[simp] theorem State.setHold_room (n : Fin 24) (h : Option Hold) : (s.setHold n h).room = s.room := rfl
@[simp] theorem State.setHold_slots (n : Fin 24) (h : Option Hold) : (s.setHold n h).slots = s.slots := rfl
@[simp] theorem State.setHold_terminals (n : Fin 24) (h : Option Hold) : (s.setHold n h).terminals = s.terminals := rfl
@[simp] theorem State.setHold_bus (n : Fin 24) (h : Option Hold) : (s.setHold n h).bus = s.bus := rfl
@[simp] theorem State.setHold_accounts (n : Fin 24) (h : Option Hold) : (s.setHold n h).accounts = s.accounts := rfl
@[simp] theorem State.setHold_settlement (n : Fin 24) (h : Option Hold) : (s.setHold n h).settlement = s.settlement := rfl
@[simp] theorem State.setHold_gov (n : Fin 24) (h : Option Hold) : (s.setHold n h).gov = s.gov := rfl
@[simp] theorem State.setHold_scanner (n : Fin 24) (h : Option Hold) : (s.setHold n h).scanner = s.scanner := rfl
@[simp] theorem State.setHold_faults (n : Fin 24) (h : Option Hold) : (s.setHold n h).faults = s.faults := rfl
@[simp] theorem State.setHold_queues (n : Fin 24) (h : Option Hold) : (s.setHold n h).queues = s.queues := rfl
@[simp] theorem State.setHold_building (n : Fin 24) (h : Option Hold) : (s.setHold n h).building = s.building := rfl
@[simp] theorem State.setHold_service (n : Fin 24) (h : Option Hold) : (s.setHold n h).service = s.service := rfl
@[simp] theorem State.setHold_turn (n : Fin 24) (h : Option Hold) : (s.setHold n h).turn = s.turn := rfl
@[simp] theorem State.setHold_restart (n : Fin 24) (h : Option Hold) : (s.setHold n h).restart = s.restart := rfl
@[simp] theorem State.setHold_events (n : Fin 24) (h : Option Hold) : (s.setHold n h).events = s.events := rfl
@[simp] theorem State.setHold_store (n : Fin 24) (h : Option Hold) : (s.setHold n h).store = s.store := rfl
@[simp] theorem State.setHold_writes (n : Fin 24) (h : Option Hold) : (s.setHold n h).writes = s.writes := rfl
@[simp] theorem State.setHold_free (n : Fin 24) (h : Option Hold) : (s.setHold n h).free = s.free := rfl
@[simp] theorem State.setHold_pending (n : Fin 24) (h : Option Hold) : (s.setHold n h).pending = s.pending := rfl

/-! ### `State.setAccount` -/

@[simp] theorem State.setAccount_life (i : Nat) (a : Account) : (s.setAccount i a).life = s.life := rfl
@[simp] theorem State.setAccount_clock (i : Nat) (a : Account) : (s.setAccount i a).clock = s.clock := rfl
@[simp] theorem State.setAccount_elapsed (i : Nat) (a : Account) : (s.setAccount i a).elapsed = s.elapsed := rfl
@[simp] theorem State.setAccount_unit (i : Nat) (a : Account) : (s.setAccount i a).unit = s.unit := rfl
@[simp] theorem State.setAccount_strapMarginal (i : Nat) (a : Account) : (s.setAccount i a).strapMarginal = s.strapMarginal := rfl
@[simp] theorem State.setAccount_settings (i : Nat) (a : Account) : (s.setAccount i a).settings = s.settings := rfl
@[simp] theorem State.setAccount_room (i : Nat) (a : Account) : (s.setAccount i a).room = s.room := rfl
@[simp] theorem State.setAccount_slots (i : Nat) (a : Account) : (s.setAccount i a).slots = s.slots := rfl
@[simp] theorem State.setAccount_terminals (i : Nat) (a : Account) : (s.setAccount i a).terminals = s.terminals := rfl
@[simp] theorem State.setAccount_bus (i : Nat) (a : Account) : (s.setAccount i a).bus = s.bus := rfl
@[simp] theorem State.setAccount_holds (i : Nat) (a : Account) : (s.setAccount i a).holds = s.holds := rfl
@[simp] theorem State.setAccount_settlement (i : Nat) (a : Account) : (s.setAccount i a).settlement = s.settlement := rfl
@[simp] theorem State.setAccount_gov (i : Nat) (a : Account) : (s.setAccount i a).gov = s.gov := rfl
@[simp] theorem State.setAccount_scanner (i : Nat) (a : Account) : (s.setAccount i a).scanner = s.scanner := rfl
@[simp] theorem State.setAccount_faults (i : Nat) (a : Account) : (s.setAccount i a).faults = s.faults := rfl
@[simp] theorem State.setAccount_queues (i : Nat) (a : Account) : (s.setAccount i a).queues = s.queues := rfl
@[simp] theorem State.setAccount_building (i : Nat) (a : Account) : (s.setAccount i a).building = s.building := rfl
@[simp] theorem State.setAccount_service (i : Nat) (a : Account) : (s.setAccount i a).service = s.service := rfl
@[simp] theorem State.setAccount_turn (i : Nat) (a : Account) : (s.setAccount i a).turn = s.turn := rfl
@[simp] theorem State.setAccount_restart (i : Nat) (a : Account) : (s.setAccount i a).restart = s.restart := rfl
@[simp] theorem State.setAccount_events (i : Nat) (a : Account) : (s.setAccount i a).events = s.events := rfl
@[simp] theorem State.setAccount_store (i : Nat) (a : Account) : (s.setAccount i a).store = s.store := rfl
@[simp] theorem State.setAccount_writes (i : Nat) (a : Account) : (s.setAccount i a).writes = s.writes := rfl
@[simp] theorem State.setAccount_free (i : Nat) (a : Account) : (s.setAccount i a).free = s.free := rfl
@[simp] theorem State.setAccount_pending (i : Nat) (a : Account) : (s.setAccount i a).pending = s.pending := rfl

/-! ### `State.setQueue` -/

@[simp] theorem State.setQueue_life (c : Fin 4) (q : List WaitEntry) : (s.setQueue c q).life = s.life := rfl
@[simp] theorem State.setQueue_clock (c : Fin 4) (q : List WaitEntry) : (s.setQueue c q).clock = s.clock := rfl
@[simp] theorem State.setQueue_elapsed (c : Fin 4) (q : List WaitEntry) : (s.setQueue c q).elapsed = s.elapsed := rfl
@[simp] theorem State.setQueue_unit (c : Fin 4) (q : List WaitEntry) : (s.setQueue c q).unit = s.unit := rfl
@[simp] theorem State.setQueue_strapMarginal (c : Fin 4) (q : List WaitEntry) : (s.setQueue c q).strapMarginal = s.strapMarginal := rfl
@[simp] theorem State.setQueue_settings (c : Fin 4) (q : List WaitEntry) : (s.setQueue c q).settings = s.settings := rfl
@[simp] theorem State.setQueue_room (c : Fin 4) (q : List WaitEntry) : (s.setQueue c q).room = s.room := rfl
@[simp] theorem State.setQueue_slots (c : Fin 4) (q : List WaitEntry) : (s.setQueue c q).slots = s.slots := rfl
@[simp] theorem State.setQueue_terminals (c : Fin 4) (q : List WaitEntry) : (s.setQueue c q).terminals = s.terminals := rfl
@[simp] theorem State.setQueue_bus (c : Fin 4) (q : List WaitEntry) : (s.setQueue c q).bus = s.bus := rfl
@[simp] theorem State.setQueue_accounts (c : Fin 4) (q : List WaitEntry) : (s.setQueue c q).accounts = s.accounts := rfl
@[simp] theorem State.setQueue_holds (c : Fin 4) (q : List WaitEntry) : (s.setQueue c q).holds = s.holds := rfl
@[simp] theorem State.setQueue_settlement (c : Fin 4) (q : List WaitEntry) : (s.setQueue c q).settlement = s.settlement := rfl
@[simp] theorem State.setQueue_gov (c : Fin 4) (q : List WaitEntry) : (s.setQueue c q).gov = s.gov := rfl
@[simp] theorem State.setQueue_scanner (c : Fin 4) (q : List WaitEntry) : (s.setQueue c q).scanner = s.scanner := rfl
@[simp] theorem State.setQueue_faults (c : Fin 4) (q : List WaitEntry) : (s.setQueue c q).faults = s.faults := rfl
@[simp] theorem State.setQueue_building (c : Fin 4) (q : List WaitEntry) : (s.setQueue c q).building = s.building := rfl
@[simp] theorem State.setQueue_service (c : Fin 4) (q : List WaitEntry) : (s.setQueue c q).service = s.service := rfl
@[simp] theorem State.setQueue_turn (c : Fin 4) (q : List WaitEntry) : (s.setQueue c q).turn = s.turn := rfl
@[simp] theorem State.setQueue_restart (c : Fin 4) (q : List WaitEntry) : (s.setQueue c q).restart = s.restart := rfl
@[simp] theorem State.setQueue_events (c : Fin 4) (q : List WaitEntry) : (s.setQueue c q).events = s.events := rfl
@[simp] theorem State.setQueue_store (c : Fin 4) (q : List WaitEntry) : (s.setQueue c q).store = s.store := rfl
@[simp] theorem State.setQueue_writes (c : Fin 4) (q : List WaitEntry) : (s.setQueue c q).writes = s.writes := rfl
@[simp] theorem State.setQueue_free (c : Fin 4) (q : List WaitEntry) : (s.setQueue c q).free = s.free := rfl
@[simp] theorem State.setQueue_pending (c : Fin 4) (q : List WaitEntry) : (s.setQueue c q).pending = s.pending := rfl

/-! ### `State.modTerminal` -/

@[simp] theorem State.modTerminal_life (t : Fin 16) (f : Terminal → Terminal) : (s.modTerminal t f).life = s.life := rfl
@[simp] theorem State.modTerminal_clock (t : Fin 16) (f : Terminal → Terminal) : (s.modTerminal t f).clock = s.clock := rfl
@[simp] theorem State.modTerminal_elapsed (t : Fin 16) (f : Terminal → Terminal) : (s.modTerminal t f).elapsed = s.elapsed := rfl
@[simp] theorem State.modTerminal_unit (t : Fin 16) (f : Terminal → Terminal) : (s.modTerminal t f).unit = s.unit := rfl
@[simp] theorem State.modTerminal_strapMarginal (t : Fin 16) (f : Terminal → Terminal) : (s.modTerminal t f).strapMarginal = s.strapMarginal := rfl
@[simp] theorem State.modTerminal_settings (t : Fin 16) (f : Terminal → Terminal) : (s.modTerminal t f).settings = s.settings := rfl
@[simp] theorem State.modTerminal_room (t : Fin 16) (f : Terminal → Terminal) : (s.modTerminal t f).room = s.room := rfl
@[simp] theorem State.modTerminal_slots (t : Fin 16) (f : Terminal → Terminal) : (s.modTerminal t f).slots = s.slots := rfl
@[simp] theorem State.modTerminal_bus (t : Fin 16) (f : Terminal → Terminal) : (s.modTerminal t f).bus = s.bus := rfl
@[simp] theorem State.modTerminal_accounts (t : Fin 16) (f : Terminal → Terminal) : (s.modTerminal t f).accounts = s.accounts := rfl
@[simp] theorem State.modTerminal_holds (t : Fin 16) (f : Terminal → Terminal) : (s.modTerminal t f).holds = s.holds := rfl
@[simp] theorem State.modTerminal_settlement (t : Fin 16) (f : Terminal → Terminal) : (s.modTerminal t f).settlement = s.settlement := rfl
@[simp] theorem State.modTerminal_gov (t : Fin 16) (f : Terminal → Terminal) : (s.modTerminal t f).gov = s.gov := rfl
@[simp] theorem State.modTerminal_scanner (t : Fin 16) (f : Terminal → Terminal) : (s.modTerminal t f).scanner = s.scanner := rfl
@[simp] theorem State.modTerminal_faults (t : Fin 16) (f : Terminal → Terminal) : (s.modTerminal t f).faults = s.faults := rfl
@[simp] theorem State.modTerminal_queues (t : Fin 16) (f : Terminal → Terminal) : (s.modTerminal t f).queues = s.queues := rfl
@[simp] theorem State.modTerminal_building (t : Fin 16) (f : Terminal → Terminal) : (s.modTerminal t f).building = s.building := rfl
@[simp] theorem State.modTerminal_service (t : Fin 16) (f : Terminal → Terminal) : (s.modTerminal t f).service = s.service := rfl
@[simp] theorem State.modTerminal_turn (t : Fin 16) (f : Terminal → Terminal) : (s.modTerminal t f).turn = s.turn := rfl
@[simp] theorem State.modTerminal_restart (t : Fin 16) (f : Terminal → Terminal) : (s.modTerminal t f).restart = s.restart := rfl
@[simp] theorem State.modTerminal_events (t : Fin 16) (f : Terminal → Terminal) : (s.modTerminal t f).events = s.events := rfl
@[simp] theorem State.modTerminal_store (t : Fin 16) (f : Terminal → Terminal) : (s.modTerminal t f).store = s.store := rfl
@[simp] theorem State.modTerminal_writes (t : Fin 16) (f : Terminal → Terminal) : (s.modTerminal t f).writes = s.writes := rfl
@[simp] theorem State.modTerminal_free (t : Fin 16) (f : Terminal → Terminal) : (s.modTerminal t f).free = s.free := rfl
@[simp] theorem State.modTerminal_pending (t : Fin 16) (f : Terminal → Terminal) : (s.modTerminal t f).pending = s.pending := rfl

/-! ### `State.modHalf` -/

@[simp] theorem State.modHalf_life (t : Fin 16) (h : Half) (f : HalfEntry → HalfEntry) : (s.modHalf t h f).life = s.life := rfl
@[simp] theorem State.modHalf_clock (t : Fin 16) (h : Half) (f : HalfEntry → HalfEntry) : (s.modHalf t h f).clock = s.clock := rfl
@[simp] theorem State.modHalf_elapsed (t : Fin 16) (h : Half) (f : HalfEntry → HalfEntry) : (s.modHalf t h f).elapsed = s.elapsed := rfl
@[simp] theorem State.modHalf_unit (t : Fin 16) (h : Half) (f : HalfEntry → HalfEntry) : (s.modHalf t h f).unit = s.unit := rfl
@[simp] theorem State.modHalf_strapMarginal (t : Fin 16) (h : Half) (f : HalfEntry → HalfEntry) : (s.modHalf t h f).strapMarginal = s.strapMarginal := rfl
@[simp] theorem State.modHalf_settings (t : Fin 16) (h : Half) (f : HalfEntry → HalfEntry) : (s.modHalf t h f).settings = s.settings := rfl
@[simp] theorem State.modHalf_room (t : Fin 16) (h : Half) (f : HalfEntry → HalfEntry) : (s.modHalf t h f).room = s.room := rfl
@[simp] theorem State.modHalf_slots (t : Fin 16) (h : Half) (f : HalfEntry → HalfEntry) : (s.modHalf t h f).slots = s.slots := rfl
@[simp] theorem State.modHalf_bus (t : Fin 16) (h : Half) (f : HalfEntry → HalfEntry) : (s.modHalf t h f).bus = s.bus := rfl
@[simp] theorem State.modHalf_accounts (t : Fin 16) (h : Half) (f : HalfEntry → HalfEntry) : (s.modHalf t h f).accounts = s.accounts := rfl
@[simp] theorem State.modHalf_holds (t : Fin 16) (h : Half) (f : HalfEntry → HalfEntry) : (s.modHalf t h f).holds = s.holds := rfl
@[simp] theorem State.modHalf_settlement (t : Fin 16) (h : Half) (f : HalfEntry → HalfEntry) : (s.modHalf t h f).settlement = s.settlement := rfl
@[simp] theorem State.modHalf_gov (t : Fin 16) (h : Half) (f : HalfEntry → HalfEntry) : (s.modHalf t h f).gov = s.gov := rfl
@[simp] theorem State.modHalf_scanner (t : Fin 16) (h : Half) (f : HalfEntry → HalfEntry) : (s.modHalf t h f).scanner = s.scanner := rfl
@[simp] theorem State.modHalf_faults (t : Fin 16) (h : Half) (f : HalfEntry → HalfEntry) : (s.modHalf t h f).faults = s.faults := rfl
@[simp] theorem State.modHalf_queues (t : Fin 16) (h : Half) (f : HalfEntry → HalfEntry) : (s.modHalf t h f).queues = s.queues := rfl
@[simp] theorem State.modHalf_building (t : Fin 16) (h : Half) (f : HalfEntry → HalfEntry) : (s.modHalf t h f).building = s.building := rfl
@[simp] theorem State.modHalf_service (t : Fin 16) (h : Half) (f : HalfEntry → HalfEntry) : (s.modHalf t h f).service = s.service := rfl
@[simp] theorem State.modHalf_turn (t : Fin 16) (h : Half) (f : HalfEntry → HalfEntry) : (s.modHalf t h f).turn = s.turn := rfl
@[simp] theorem State.modHalf_restart (t : Fin 16) (h : Half) (f : HalfEntry → HalfEntry) : (s.modHalf t h f).restart = s.restart := rfl
@[simp] theorem State.modHalf_events (t : Fin 16) (h : Half) (f : HalfEntry → HalfEntry) : (s.modHalf t h f).events = s.events := rfl
@[simp] theorem State.modHalf_store (t : Fin 16) (h : Half) (f : HalfEntry → HalfEntry) : (s.modHalf t h f).store = s.store := rfl
@[simp] theorem State.modHalf_writes (t : Fin 16) (h : Half) (f : HalfEntry → HalfEntry) : (s.modHalf t h f).writes = s.writes := rfl
@[simp] theorem State.modHalf_free (t : Fin 16) (h : Half) (f : HalfEntry → HalfEntry) : (s.modHalf t h f).free = s.free := rfl
@[simp] theorem State.modHalf_pending (t : Fin 16) (h : Half) (f : HalfEntry → HalfEntry) : (s.modHalf t h f).pending = s.pending := rfl

/-! ### `State.write` -/

@[simp] theorem State.write_life (ws : List StoreWrite) : (s.write ws).life = s.life := rfl
@[simp] theorem State.write_clock (ws : List StoreWrite) : (s.write ws).clock = s.clock := rfl
@[simp] theorem State.write_elapsed (ws : List StoreWrite) : (s.write ws).elapsed = s.elapsed := rfl
@[simp] theorem State.write_unit (ws : List StoreWrite) : (s.write ws).unit = s.unit := rfl
@[simp] theorem State.write_strapMarginal (ws : List StoreWrite) : (s.write ws).strapMarginal = s.strapMarginal := rfl
@[simp] theorem State.write_settings (ws : List StoreWrite) : (s.write ws).settings = s.settings := rfl
@[simp] theorem State.write_room (ws : List StoreWrite) : (s.write ws).room = s.room := rfl
@[simp] theorem State.write_slots (ws : List StoreWrite) : (s.write ws).slots = s.slots := rfl
@[simp] theorem State.write_terminals (ws : List StoreWrite) : (s.write ws).terminals = s.terminals := rfl
@[simp] theorem State.write_bus (ws : List StoreWrite) : (s.write ws).bus = s.bus := rfl
@[simp] theorem State.write_accounts (ws : List StoreWrite) : (s.write ws).accounts = s.accounts := rfl
@[simp] theorem State.write_holds (ws : List StoreWrite) : (s.write ws).holds = s.holds := rfl
@[simp] theorem State.write_settlement (ws : List StoreWrite) : (s.write ws).settlement = s.settlement := rfl
@[simp] theorem State.write_gov (ws : List StoreWrite) : (s.write ws).gov = s.gov := rfl
@[simp] theorem State.write_scanner (ws : List StoreWrite) : (s.write ws).scanner = s.scanner := rfl
@[simp] theorem State.write_faults (ws : List StoreWrite) : (s.write ws).faults = s.faults := rfl
@[simp] theorem State.write_queues (ws : List StoreWrite) : (s.write ws).queues = s.queues := rfl
@[simp] theorem State.write_building (ws : List StoreWrite) : (s.write ws).building = s.building := rfl
@[simp] theorem State.write_service (ws : List StoreWrite) : (s.write ws).service = s.service := rfl
@[simp] theorem State.write_turn (ws : List StoreWrite) : (s.write ws).turn = s.turn := rfl
@[simp] theorem State.write_restart (ws : List StoreWrite) : (s.write ws).restart = s.restart := rfl
@[simp] theorem State.write_events (ws : List StoreWrite) : (s.write ws).events = s.events := rfl
@[simp] theorem State.write_store (ws : List StoreWrite) : (s.write ws).store = s.store := rfl
@[simp] theorem State.write_free (ws : List StoreWrite) : (s.write ws).free = s.free := rfl
@[simp] theorem State.write_pending (ws : List StoreWrite) : (s.write ws).pending = s.pending := rfl

/-! ### `State.modGov` -/

@[simp] theorem State.modGov_life (f : Governor → Governor) : (s.modGov f).life = s.life := rfl
@[simp] theorem State.modGov_clock (f : Governor → Governor) : (s.modGov f).clock = s.clock := rfl
@[simp] theorem State.modGov_elapsed (f : Governor → Governor) : (s.modGov f).elapsed = s.elapsed := rfl
@[simp] theorem State.modGov_unit (f : Governor → Governor) : (s.modGov f).unit = s.unit := rfl
@[simp] theorem State.modGov_strapMarginal (f : Governor → Governor) : (s.modGov f).strapMarginal = s.strapMarginal := rfl
@[simp] theorem State.modGov_settings (f : Governor → Governor) : (s.modGov f).settings = s.settings := rfl
@[simp] theorem State.modGov_room (f : Governor → Governor) : (s.modGov f).room = s.room := rfl
@[simp] theorem State.modGov_slots (f : Governor → Governor) : (s.modGov f).slots = s.slots := rfl
@[simp] theorem State.modGov_terminals (f : Governor → Governor) : (s.modGov f).terminals = s.terminals := rfl
@[simp] theorem State.modGov_bus (f : Governor → Governor) : (s.modGov f).bus = s.bus := rfl
@[simp] theorem State.modGov_accounts (f : Governor → Governor) : (s.modGov f).accounts = s.accounts := rfl
@[simp] theorem State.modGov_holds (f : Governor → Governor) : (s.modGov f).holds = s.holds := rfl
@[simp] theorem State.modGov_settlement (f : Governor → Governor) : (s.modGov f).settlement = s.settlement := rfl
@[simp] theorem State.modGov_scanner (f : Governor → Governor) : (s.modGov f).scanner = s.scanner := rfl
@[simp] theorem State.modGov_faults (f : Governor → Governor) : (s.modGov f).faults = s.faults := rfl
@[simp] theorem State.modGov_queues (f : Governor → Governor) : (s.modGov f).queues = s.queues := rfl
@[simp] theorem State.modGov_building (f : Governor → Governor) : (s.modGov f).building = s.building := rfl
@[simp] theorem State.modGov_service (f : Governor → Governor) : (s.modGov f).service = s.service := rfl
@[simp] theorem State.modGov_turn (f : Governor → Governor) : (s.modGov f).turn = s.turn := rfl
@[simp] theorem State.modGov_restart (f : Governor → Governor) : (s.modGov f).restart = s.restart := rfl
@[simp] theorem State.modGov_events (f : Governor → Governor) : (s.modGov f).events = s.events := rfl
@[simp] theorem State.modGov_store (f : Governor → Governor) : (s.modGov f).store = s.store := rfl
@[simp] theorem State.modGov_writes (f : Governor → Governor) : (s.modGov f).writes = s.writes := rfl
@[simp] theorem State.modGov_free (f : Governor → Governor) : (s.modGov f).free = s.free := rfl
@[simp] theorem State.modGov_pending (f : Governor → Governor) : (s.modGov f).pending = s.pending := rfl

/-! ### `State.modScanner` -/

@[simp] theorem State.modScanner_life (f : Scanner → Scanner) : (s.modScanner f).life = s.life := rfl
@[simp] theorem State.modScanner_clock (f : Scanner → Scanner) : (s.modScanner f).clock = s.clock := rfl
@[simp] theorem State.modScanner_elapsed (f : Scanner → Scanner) : (s.modScanner f).elapsed = s.elapsed := rfl
@[simp] theorem State.modScanner_unit (f : Scanner → Scanner) : (s.modScanner f).unit = s.unit := rfl
@[simp] theorem State.modScanner_strapMarginal (f : Scanner → Scanner) : (s.modScanner f).strapMarginal = s.strapMarginal := rfl
@[simp] theorem State.modScanner_settings (f : Scanner → Scanner) : (s.modScanner f).settings = s.settings := rfl
@[simp] theorem State.modScanner_room (f : Scanner → Scanner) : (s.modScanner f).room = s.room := rfl
@[simp] theorem State.modScanner_slots (f : Scanner → Scanner) : (s.modScanner f).slots = s.slots := rfl
@[simp] theorem State.modScanner_terminals (f : Scanner → Scanner) : (s.modScanner f).terminals = s.terminals := rfl
@[simp] theorem State.modScanner_bus (f : Scanner → Scanner) : (s.modScanner f).bus = s.bus := rfl
@[simp] theorem State.modScanner_accounts (f : Scanner → Scanner) : (s.modScanner f).accounts = s.accounts := rfl
@[simp] theorem State.modScanner_holds (f : Scanner → Scanner) : (s.modScanner f).holds = s.holds := rfl
@[simp] theorem State.modScanner_settlement (f : Scanner → Scanner) : (s.modScanner f).settlement = s.settlement := rfl
@[simp] theorem State.modScanner_gov (f : Scanner → Scanner) : (s.modScanner f).gov = s.gov := rfl
@[simp] theorem State.modScanner_faults (f : Scanner → Scanner) : (s.modScanner f).faults = s.faults := rfl
@[simp] theorem State.modScanner_queues (f : Scanner → Scanner) : (s.modScanner f).queues = s.queues := rfl
@[simp] theorem State.modScanner_building (f : Scanner → Scanner) : (s.modScanner f).building = s.building := rfl
@[simp] theorem State.modScanner_service (f : Scanner → Scanner) : (s.modScanner f).service = s.service := rfl
@[simp] theorem State.modScanner_turn (f : Scanner → Scanner) : (s.modScanner f).turn = s.turn := rfl
@[simp] theorem State.modScanner_restart (f : Scanner → Scanner) : (s.modScanner f).restart = s.restart := rfl
@[simp] theorem State.modScanner_events (f : Scanner → Scanner) : (s.modScanner f).events = s.events := rfl
@[simp] theorem State.modScanner_store (f : Scanner → Scanner) : (s.modScanner f).store = s.store := rfl
@[simp] theorem State.modScanner_writes (f : Scanner → Scanner) : (s.modScanner f).writes = s.writes := rfl
@[simp] theorem State.modScanner_free (f : Scanner → Scanner) : (s.modScanner f).free = s.free := rfl
@[simp] theorem State.modScanner_pending (f : Scanner → Scanner) : (s.modScanner f).pending = s.pending := rfl

/-! ### `State.modSettings` -/

@[simp] theorem State.modSettings_life (f : Settings → Settings) : (s.modSettings f).life = s.life := rfl
@[simp] theorem State.modSettings_clock (f : Settings → Settings) : (s.modSettings f).clock = s.clock := rfl
@[simp] theorem State.modSettings_elapsed (f : Settings → Settings) : (s.modSettings f).elapsed = s.elapsed := rfl
@[simp] theorem State.modSettings_unit (f : Settings → Settings) : (s.modSettings f).unit = s.unit := rfl
@[simp] theorem State.modSettings_strapMarginal (f : Settings → Settings) : (s.modSettings f).strapMarginal = s.strapMarginal := rfl
@[simp] theorem State.modSettings_room (f : Settings → Settings) : (s.modSettings f).room = s.room := rfl
@[simp] theorem State.modSettings_slots (f : Settings → Settings) : (s.modSettings f).slots = s.slots := rfl
@[simp] theorem State.modSettings_terminals (f : Settings → Settings) : (s.modSettings f).terminals = s.terminals := rfl
@[simp] theorem State.modSettings_bus (f : Settings → Settings) : (s.modSettings f).bus = s.bus := rfl
@[simp] theorem State.modSettings_accounts (f : Settings → Settings) : (s.modSettings f).accounts = s.accounts := rfl
@[simp] theorem State.modSettings_holds (f : Settings → Settings) : (s.modSettings f).holds = s.holds := rfl
@[simp] theorem State.modSettings_settlement (f : Settings → Settings) : (s.modSettings f).settlement = s.settlement := rfl
@[simp] theorem State.modSettings_gov (f : Settings → Settings) : (s.modSettings f).gov = s.gov := rfl
@[simp] theorem State.modSettings_scanner (f : Settings → Settings) : (s.modSettings f).scanner = s.scanner := rfl
@[simp] theorem State.modSettings_faults (f : Settings → Settings) : (s.modSettings f).faults = s.faults := rfl
@[simp] theorem State.modSettings_queues (f : Settings → Settings) : (s.modSettings f).queues = s.queues := rfl
@[simp] theorem State.modSettings_building (f : Settings → Settings) : (s.modSettings f).building = s.building := rfl
@[simp] theorem State.modSettings_service (f : Settings → Settings) : (s.modSettings f).service = s.service := rfl
@[simp] theorem State.modSettings_turn (f : Settings → Settings) : (s.modSettings f).turn = s.turn := rfl
@[simp] theorem State.modSettings_restart (f : Settings → Settings) : (s.modSettings f).restart = s.restart := rfl
@[simp] theorem State.modSettings_events (f : Settings → Settings) : (s.modSettings f).events = s.events := rfl
@[simp] theorem State.modSettings_store (f : Settings → Settings) : (s.modSettings f).store = s.store := rfl
@[simp] theorem State.modSettings_writes (f : Settings → Settings) : (s.modSettings f).writes = s.writes := rfl
@[simp] theorem State.modSettings_free (f : Settings → Settings) : (s.modSettings f).free = s.free := rfl
@[simp] theorem State.modSettings_pending (f : Settings → Settings) : (s.modSettings f).pending = s.pending := rfl

/-! ### `State.latch` -/

@[simp] theorem State.latch_life (src : Option (Fin 24)) (c : FaultCode) : (s.latch src c).life = s.life := rfl
@[simp] theorem State.latch_clock (src : Option (Fin 24)) (c : FaultCode) : (s.latch src c).clock = s.clock := rfl
@[simp] theorem State.latch_elapsed (src : Option (Fin 24)) (c : FaultCode) : (s.latch src c).elapsed = s.elapsed := rfl
@[simp] theorem State.latch_unit (src : Option (Fin 24)) (c : FaultCode) : (s.latch src c).unit = s.unit := rfl
@[simp] theorem State.latch_strapMarginal (src : Option (Fin 24)) (c : FaultCode) : (s.latch src c).strapMarginal = s.strapMarginal := rfl
@[simp] theorem State.latch_settings (src : Option (Fin 24)) (c : FaultCode) : (s.latch src c).settings = s.settings := rfl
@[simp] theorem State.latch_room (src : Option (Fin 24)) (c : FaultCode) : (s.latch src c).room = s.room := rfl
@[simp] theorem State.latch_slots (src : Option (Fin 24)) (c : FaultCode) : (s.latch src c).slots = s.slots := rfl
@[simp] theorem State.latch_terminals (src : Option (Fin 24)) (c : FaultCode) : (s.latch src c).terminals = s.terminals := rfl
@[simp] theorem State.latch_bus (src : Option (Fin 24)) (c : FaultCode) : (s.latch src c).bus = s.bus := rfl
@[simp] theorem State.latch_accounts (src : Option (Fin 24)) (c : FaultCode) : (s.latch src c).accounts = s.accounts := rfl
@[simp] theorem State.latch_holds (src : Option (Fin 24)) (c : FaultCode) : (s.latch src c).holds = s.holds := rfl
@[simp] theorem State.latch_settlement (src : Option (Fin 24)) (c : FaultCode) : (s.latch src c).settlement = s.settlement := rfl
@[simp] theorem State.latch_gov (src : Option (Fin 24)) (c : FaultCode) : (s.latch src c).gov = s.gov := rfl
@[simp] theorem State.latch_scanner (src : Option (Fin 24)) (c : FaultCode) : (s.latch src c).scanner = s.scanner := rfl
@[simp] theorem State.latch_queues (src : Option (Fin 24)) (c : FaultCode) : (s.latch src c).queues = s.queues := rfl
@[simp] theorem State.latch_building (src : Option (Fin 24)) (c : FaultCode) : (s.latch src c).building = s.building := rfl
@[simp] theorem State.latch_service (src : Option (Fin 24)) (c : FaultCode) : (s.latch src c).service = s.service := rfl
@[simp] theorem State.latch_turn (src : Option (Fin 24)) (c : FaultCode) : (s.latch src c).turn = s.turn := rfl
@[simp] theorem State.latch_restart (src : Option (Fin 24)) (c : FaultCode) : (s.latch src c).restart = s.restart := rfl
@[simp] theorem State.latch_events (src : Option (Fin 24)) (c : FaultCode) : (s.latch src c).events = s.events := rfl
@[simp] theorem State.latch_store (src : Option (Fin 24)) (c : FaultCode) : (s.latch src c).store = s.store := rfl
@[simp] theorem State.latch_writes (src : Option (Fin 24)) (c : FaultCode) : (s.latch src c).writes = s.writes := rfl
@[simp] theorem State.latch_free (src : Option (Fin 24)) (c : FaultCode) : (s.latch src c).free = s.free := rfl
@[simp] theorem State.latch_pending (src : Option (Fin 24)) (c : FaultCode) : (s.latch src c).pending = s.pending := rfl

/-! ### `State.withPending` -/

@[simp] theorem State.withPending_life (q : List Instr) : (s.withPending q).life = s.life := rfl
@[simp] theorem State.withPending_clock (q : List Instr) : (s.withPending q).clock = s.clock := rfl
@[simp] theorem State.withPending_elapsed (q : List Instr) : (s.withPending q).elapsed = s.elapsed := rfl
@[simp] theorem State.withPending_unit (q : List Instr) : (s.withPending q).unit = s.unit := rfl
@[simp] theorem State.withPending_strapMarginal (q : List Instr) : (s.withPending q).strapMarginal = s.strapMarginal := rfl
@[simp] theorem State.withPending_settings (q : List Instr) : (s.withPending q).settings = s.settings := rfl
@[simp] theorem State.withPending_room (q : List Instr) : (s.withPending q).room = s.room := rfl
@[simp] theorem State.withPending_slots (q : List Instr) : (s.withPending q).slots = s.slots := rfl
@[simp] theorem State.withPending_terminals (q : List Instr) : (s.withPending q).terminals = s.terminals := rfl
@[simp] theorem State.withPending_bus (q : List Instr) : (s.withPending q).bus = s.bus := rfl
@[simp] theorem State.withPending_accounts (q : List Instr) : (s.withPending q).accounts = s.accounts := rfl
@[simp] theorem State.withPending_holds (q : List Instr) : (s.withPending q).holds = s.holds := rfl
@[simp] theorem State.withPending_settlement (q : List Instr) : (s.withPending q).settlement = s.settlement := rfl
@[simp] theorem State.withPending_gov (q : List Instr) : (s.withPending q).gov = s.gov := rfl
@[simp] theorem State.withPending_scanner (q : List Instr) : (s.withPending q).scanner = s.scanner := rfl
@[simp] theorem State.withPending_faults (q : List Instr) : (s.withPending q).faults = s.faults := rfl
@[simp] theorem State.withPending_queues (q : List Instr) : (s.withPending q).queues = s.queues := rfl
@[simp] theorem State.withPending_building (q : List Instr) : (s.withPending q).building = s.building := rfl
@[simp] theorem State.withPending_service (q : List Instr) : (s.withPending q).service = s.service := rfl
@[simp] theorem State.withPending_turn (q : List Instr) : (s.withPending q).turn = s.turn := rfl
@[simp] theorem State.withPending_restart (q : List Instr) : (s.withPending q).restart = s.restart := rfl
@[simp] theorem State.withPending_events (q : List Instr) : (s.withPending q).events = s.events := rfl
@[simp] theorem State.withPending_store (q : List Instr) : (s.withPending q).store = s.store := rfl
@[simp] theorem State.withPending_writes (q : List Instr) : (s.withPending q).writes = s.writes := rfl
@[simp] theorem State.withPending_free (q : List Instr) : (s.withPending q).free = s.free := rfl

/-! ### `State.post` -/

@[simp] theorem State.post_life (b : EventBody) : (s.post b).life = s.life := by
  unfold State.post; split <;> rfl
@[simp] theorem State.post_clock (b : EventBody) : (s.post b).clock = s.clock := by
  unfold State.post; split <;> rfl
@[simp] theorem State.post_elapsed (b : EventBody) : (s.post b).elapsed = s.elapsed := by
  unfold State.post; split <;> rfl
@[simp] theorem State.post_unit (b : EventBody) : (s.post b).unit = s.unit := by
  unfold State.post; split <;> rfl
@[simp] theorem State.post_strapMarginal (b : EventBody) : (s.post b).strapMarginal = s.strapMarginal := by
  unfold State.post; split <;> rfl
@[simp] theorem State.post_settings (b : EventBody) : (s.post b).settings = s.settings := by
  unfold State.post; split <;> rfl
@[simp] theorem State.post_room (b : EventBody) : (s.post b).room = s.room := by
  unfold State.post; split <;> rfl
@[simp] theorem State.post_slots (b : EventBody) : (s.post b).slots = s.slots := by
  unfold State.post; split <;> rfl
@[simp] theorem State.post_terminals (b : EventBody) : (s.post b).terminals = s.terminals := by
  unfold State.post; split <;> rfl
@[simp] theorem State.post_bus (b : EventBody) : (s.post b).bus = s.bus := by
  unfold State.post; split <;> rfl
@[simp] theorem State.post_accounts (b : EventBody) : (s.post b).accounts = s.accounts := by
  unfold State.post; split <;> rfl
@[simp] theorem State.post_holds (b : EventBody) : (s.post b).holds = s.holds := by
  unfold State.post; split <;> rfl
@[simp] theorem State.post_settlement (b : EventBody) : (s.post b).settlement = s.settlement := by
  unfold State.post; split <;> rfl
@[simp] theorem State.post_gov (b : EventBody) : (s.post b).gov = s.gov := by
  unfold State.post; split <;> rfl
@[simp] theorem State.post_scanner (b : EventBody) : (s.post b).scanner = s.scanner := by
  unfold State.post; split <;> rfl
@[simp] theorem State.post_faults (b : EventBody) : (s.post b).faults = s.faults := by
  unfold State.post; split <;> rfl
@[simp] theorem State.post_queues (b : EventBody) : (s.post b).queues = s.queues := by
  unfold State.post; split <;> rfl
@[simp] theorem State.post_building (b : EventBody) : (s.post b).building = s.building := by
  unfold State.post; split <;> rfl
@[simp] theorem State.post_service (b : EventBody) : (s.post b).service = s.service := by
  unfold State.post; split <;> rfl
@[simp] theorem State.post_turn (b : EventBody) : (s.post b).turn = s.turn := by
  unfold State.post; split <;> rfl
@[simp] theorem State.post_restart (b : EventBody) : (s.post b).restart = s.restart := by
  unfold State.post; split <;> rfl
@[simp] theorem State.post_store (b : EventBody) : (s.post b).store = s.store := by
  unfold State.post; split <;> rfl
@[simp] theorem State.post_writes (b : EventBody) : (s.post b).writes = s.writes := by
  unfold State.post; split <;> rfl
@[simp] theorem State.post_free (b : EventBody) : (s.post b).free = s.free := by
  unfold State.post; split <;> rfl
@[simp] theorem State.post_pending (b : EventBody) : (s.post b).pending = s.pending := by
  unfold State.post; split <;> rfl

/-! ### `State.setPort` -/

@[simp] theorem State.setPort_life (p : Port) (u : PortUnit) : (s.setPort p u).life = s.life := by cases p <;> rfl
@[simp] theorem State.setPort_clock (p : Port) (u : PortUnit) : (s.setPort p u).clock = s.clock := by cases p <;> rfl
@[simp] theorem State.setPort_elapsed (p : Port) (u : PortUnit) : (s.setPort p u).elapsed = s.elapsed := by cases p <;> rfl
@[simp] theorem State.setPort_unit (p : Port) (u : PortUnit) : (s.setPort p u).unit = s.unit := by cases p <;> rfl
@[simp] theorem State.setPort_strapMarginal (p : Port) (u : PortUnit) : (s.setPort p u).strapMarginal = s.strapMarginal := by cases p <;> rfl
@[simp] theorem State.setPort_settings (p : Port) (u : PortUnit) : (s.setPort p u).settings = s.settings := by cases p <;> rfl
@[simp] theorem State.setPort_room (p : Port) (u : PortUnit) : (s.setPort p u).room = s.room := by cases p <;> rfl
@[simp] theorem State.setPort_slots (p : Port) (u : PortUnit) : (s.setPort p u).slots = s.slots := by cases p <;> rfl
@[simp] theorem State.setPort_terminals (p : Port) (u : PortUnit) : (s.setPort p u).terminals = s.terminals := by cases p <;> rfl
@[simp] theorem State.setPort_bus (p : Port) (u : PortUnit) : (s.setPort p u).bus = s.bus := by cases p <;> rfl
@[simp] theorem State.setPort_accounts (p : Port) (u : PortUnit) : (s.setPort p u).accounts = s.accounts := by cases p <;> rfl
@[simp] theorem State.setPort_holds (p : Port) (u : PortUnit) : (s.setPort p u).holds = s.holds := by cases p <;> rfl
@[simp] theorem State.setPort_settlement (p : Port) (u : PortUnit) : (s.setPort p u).settlement = s.settlement := by cases p <;> rfl
@[simp] theorem State.setPort_gov (p : Port) (u : PortUnit) : (s.setPort p u).gov = s.gov := by cases p <;> rfl
@[simp] theorem State.setPort_scanner (p : Port) (u : PortUnit) : (s.setPort p u).scanner = s.scanner := by cases p <;> rfl
@[simp] theorem State.setPort_faults (p : Port) (u : PortUnit) : (s.setPort p u).faults = s.faults := by cases p <;> rfl
@[simp] theorem State.setPort_queues (p : Port) (u : PortUnit) : (s.setPort p u).queues = s.queues := by cases p <;> rfl
@[simp] theorem State.setPort_turn (p : Port) (u : PortUnit) : (s.setPort p u).turn = s.turn := by cases p <;> rfl
@[simp] theorem State.setPort_restart (p : Port) (u : PortUnit) : (s.setPort p u).restart = s.restart := by cases p <;> rfl
@[simp] theorem State.setPort_events (p : Port) (u : PortUnit) : (s.setPort p u).events = s.events := by cases p <;> rfl
@[simp] theorem State.setPort_store (p : Port) (u : PortUnit) : (s.setPort p u).store = s.store := by cases p <;> rfl
@[simp] theorem State.setPort_writes (p : Port) (u : PortUnit) : (s.setPort p u).writes = s.writes := by cases p <;> rfl
@[simp] theorem State.setPort_free (p : Port) (u : PortUnit) : (s.setPort p u).free = s.free := by cases p <;> rfl
@[simp] theorem State.setPort_pending (p : Port) (u : PortUnit) : (s.setPort p u).pending = s.pending := by cases p <;> rfl

/-! ### `State.setActivity` -/

@[simp] theorem State.setActivity_life (p : Port) (a : Activity) : (s.setActivity p a).life = s.life := by cases p <;> rfl
@[simp] theorem State.setActivity_clock (p : Port) (a : Activity) : (s.setActivity p a).clock = s.clock := by cases p <;> rfl
@[simp] theorem State.setActivity_elapsed (p : Port) (a : Activity) : (s.setActivity p a).elapsed = s.elapsed := by cases p <;> rfl
@[simp] theorem State.setActivity_unit (p : Port) (a : Activity) : (s.setActivity p a).unit = s.unit := by cases p <;> rfl
@[simp] theorem State.setActivity_strapMarginal (p : Port) (a : Activity) : (s.setActivity p a).strapMarginal = s.strapMarginal := by cases p <;> rfl
@[simp] theorem State.setActivity_settings (p : Port) (a : Activity) : (s.setActivity p a).settings = s.settings := by cases p <;> rfl
@[simp] theorem State.setActivity_room (p : Port) (a : Activity) : (s.setActivity p a).room = s.room := by cases p <;> rfl
@[simp] theorem State.setActivity_slots (p : Port) (a : Activity) : (s.setActivity p a).slots = s.slots := by cases p <;> rfl
@[simp] theorem State.setActivity_terminals (p : Port) (a : Activity) : (s.setActivity p a).terminals = s.terminals := by cases p <;> rfl
@[simp] theorem State.setActivity_bus (p : Port) (a : Activity) : (s.setActivity p a).bus = s.bus := by cases p <;> rfl
@[simp] theorem State.setActivity_accounts (p : Port) (a : Activity) : (s.setActivity p a).accounts = s.accounts := by cases p <;> rfl
@[simp] theorem State.setActivity_holds (p : Port) (a : Activity) : (s.setActivity p a).holds = s.holds := by cases p <;> rfl
@[simp] theorem State.setActivity_settlement (p : Port) (a : Activity) : (s.setActivity p a).settlement = s.settlement := by cases p <;> rfl
@[simp] theorem State.setActivity_gov (p : Port) (a : Activity) : (s.setActivity p a).gov = s.gov := by cases p <;> rfl
@[simp] theorem State.setActivity_scanner (p : Port) (a : Activity) : (s.setActivity p a).scanner = s.scanner := by cases p <;> rfl
@[simp] theorem State.setActivity_faults (p : Port) (a : Activity) : (s.setActivity p a).faults = s.faults := by cases p <;> rfl
@[simp] theorem State.setActivity_queues (p : Port) (a : Activity) : (s.setActivity p a).queues = s.queues := by cases p <;> rfl
@[simp] theorem State.setActivity_turn (p : Port) (a : Activity) : (s.setActivity p a).turn = s.turn := by cases p <;> rfl
@[simp] theorem State.setActivity_restart (p : Port) (a : Activity) : (s.setActivity p a).restart = s.restart := by cases p <;> rfl
@[simp] theorem State.setActivity_events (p : Port) (a : Activity) : (s.setActivity p a).events = s.events := by cases p <;> rfl
@[simp] theorem State.setActivity_store (p : Port) (a : Activity) : (s.setActivity p a).store = s.store := by cases p <;> rfl
@[simp] theorem State.setActivity_writes (p : Port) (a : Activity) : (s.setActivity p a).writes = s.writes := by cases p <;> rfl
@[simp] theorem State.setActivity_free (p : Port) (a : Activity) : (s.setActivity p a).free = s.free := by cases p <;> rfl
@[simp] theorem State.setActivity_pending (p : Port) (a : Activity) : (s.setActivity p a).pending = s.pending := by cases p <;> rfl

/-! ### `State.setFrame` -/

@[simp] theorem State.setFrame_life (p : Port) (f : Option (Byte × List Byte)) : (s.setFrame p f).life = s.life := by cases p <;> rfl
@[simp] theorem State.setFrame_clock (p : Port) (f : Option (Byte × List Byte)) : (s.setFrame p f).clock = s.clock := by cases p <;> rfl
@[simp] theorem State.setFrame_elapsed (p : Port) (f : Option (Byte × List Byte)) : (s.setFrame p f).elapsed = s.elapsed := by cases p <;> rfl
@[simp] theorem State.setFrame_unit (p : Port) (f : Option (Byte × List Byte)) : (s.setFrame p f).unit = s.unit := by cases p <;> rfl
@[simp] theorem State.setFrame_strapMarginal (p : Port) (f : Option (Byte × List Byte)) : (s.setFrame p f).strapMarginal = s.strapMarginal := by cases p <;> rfl
@[simp] theorem State.setFrame_settings (p : Port) (f : Option (Byte × List Byte)) : (s.setFrame p f).settings = s.settings := by cases p <;> rfl
@[simp] theorem State.setFrame_room (p : Port) (f : Option (Byte × List Byte)) : (s.setFrame p f).room = s.room := by cases p <;> rfl
@[simp] theorem State.setFrame_slots (p : Port) (f : Option (Byte × List Byte)) : (s.setFrame p f).slots = s.slots := by cases p <;> rfl
@[simp] theorem State.setFrame_terminals (p : Port) (f : Option (Byte × List Byte)) : (s.setFrame p f).terminals = s.terminals := by cases p <;> rfl
@[simp] theorem State.setFrame_bus (p : Port) (f : Option (Byte × List Byte)) : (s.setFrame p f).bus = s.bus := by cases p <;> rfl
@[simp] theorem State.setFrame_accounts (p : Port) (f : Option (Byte × List Byte)) : (s.setFrame p f).accounts = s.accounts := by cases p <;> rfl
@[simp] theorem State.setFrame_holds (p : Port) (f : Option (Byte × List Byte)) : (s.setFrame p f).holds = s.holds := by cases p <;> rfl
@[simp] theorem State.setFrame_settlement (p : Port) (f : Option (Byte × List Byte)) : (s.setFrame p f).settlement = s.settlement := by cases p <;> rfl
@[simp] theorem State.setFrame_gov (p : Port) (f : Option (Byte × List Byte)) : (s.setFrame p f).gov = s.gov := by cases p <;> rfl
@[simp] theorem State.setFrame_scanner (p : Port) (f : Option (Byte × List Byte)) : (s.setFrame p f).scanner = s.scanner := by cases p <;> rfl
@[simp] theorem State.setFrame_faults (p : Port) (f : Option (Byte × List Byte)) : (s.setFrame p f).faults = s.faults := by cases p <;> rfl
@[simp] theorem State.setFrame_queues (p : Port) (f : Option (Byte × List Byte)) : (s.setFrame p f).queues = s.queues := by cases p <;> rfl
@[simp] theorem State.setFrame_turn (p : Port) (f : Option (Byte × List Byte)) : (s.setFrame p f).turn = s.turn := by cases p <;> rfl
@[simp] theorem State.setFrame_restart (p : Port) (f : Option (Byte × List Byte)) : (s.setFrame p f).restart = s.restart := by cases p <;> rfl
@[simp] theorem State.setFrame_events (p : Port) (f : Option (Byte × List Byte)) : (s.setFrame p f).events = s.events := by cases p <;> rfl
@[simp] theorem State.setFrame_store (p : Port) (f : Option (Byte × List Byte)) : (s.setFrame p f).store = s.store := by cases p <;> rfl
@[simp] theorem State.setFrame_writes (p : Port) (f : Option (Byte × List Byte)) : (s.setFrame p f).writes = s.writes := by cases p <;> rfl
@[simp] theorem State.setFrame_free (p : Port) (f : Option (Byte × List Byte)) : (s.setFrame p f).free = s.free := by cases p <;> rfl
@[simp] theorem State.setFrame_pending (p : Port) (f : Option (Byte × List Byte)) : (s.setFrame p f).pending = s.pending := by cases p <;> rfl

/-! ### `State.modCounts` -/

@[simp] theorem State.modCounts_life (p : Port) (f : PortCounts → PortCounts) : (s.modCounts p f).life = s.life := by cases p <;> rfl
@[simp] theorem State.modCounts_clock (p : Port) (f : PortCounts → PortCounts) : (s.modCounts p f).clock = s.clock := by cases p <;> rfl
@[simp] theorem State.modCounts_elapsed (p : Port) (f : PortCounts → PortCounts) : (s.modCounts p f).elapsed = s.elapsed := by cases p <;> rfl
@[simp] theorem State.modCounts_unit (p : Port) (f : PortCounts → PortCounts) : (s.modCounts p f).unit = s.unit := by cases p <;> rfl
@[simp] theorem State.modCounts_strapMarginal (p : Port) (f : PortCounts → PortCounts) : (s.modCounts p f).strapMarginal = s.strapMarginal := by cases p <;> rfl
@[simp] theorem State.modCounts_settings (p : Port) (f : PortCounts → PortCounts) : (s.modCounts p f).settings = s.settings := by cases p <;> rfl
@[simp] theorem State.modCounts_room (p : Port) (f : PortCounts → PortCounts) : (s.modCounts p f).room = s.room := by cases p <;> rfl
@[simp] theorem State.modCounts_slots (p : Port) (f : PortCounts → PortCounts) : (s.modCounts p f).slots = s.slots := by cases p <;> rfl
@[simp] theorem State.modCounts_terminals (p : Port) (f : PortCounts → PortCounts) : (s.modCounts p f).terminals = s.terminals := by cases p <;> rfl
@[simp] theorem State.modCounts_bus (p : Port) (f : PortCounts → PortCounts) : (s.modCounts p f).bus = s.bus := by cases p <;> rfl
@[simp] theorem State.modCounts_accounts (p : Port) (f : PortCounts → PortCounts) : (s.modCounts p f).accounts = s.accounts := by cases p <;> rfl
@[simp] theorem State.modCounts_holds (p : Port) (f : PortCounts → PortCounts) : (s.modCounts p f).holds = s.holds := by cases p <;> rfl
@[simp] theorem State.modCounts_settlement (p : Port) (f : PortCounts → PortCounts) : (s.modCounts p f).settlement = s.settlement := by cases p <;> rfl
@[simp] theorem State.modCounts_gov (p : Port) (f : PortCounts → PortCounts) : (s.modCounts p f).gov = s.gov := by cases p <;> rfl
@[simp] theorem State.modCounts_scanner (p : Port) (f : PortCounts → PortCounts) : (s.modCounts p f).scanner = s.scanner := by cases p <;> rfl
@[simp] theorem State.modCounts_faults (p : Port) (f : PortCounts → PortCounts) : (s.modCounts p f).faults = s.faults := by cases p <;> rfl
@[simp] theorem State.modCounts_queues (p : Port) (f : PortCounts → PortCounts) : (s.modCounts p f).queues = s.queues := by cases p <;> rfl
@[simp] theorem State.modCounts_turn (p : Port) (f : PortCounts → PortCounts) : (s.modCounts p f).turn = s.turn := by cases p <;> rfl
@[simp] theorem State.modCounts_restart (p : Port) (f : PortCounts → PortCounts) : (s.modCounts p f).restart = s.restart := by cases p <;> rfl
@[simp] theorem State.modCounts_events (p : Port) (f : PortCounts → PortCounts) : (s.modCounts p f).events = s.events := by cases p <;> rfl
@[simp] theorem State.modCounts_store (p : Port) (f : PortCounts → PortCounts) : (s.modCounts p f).store = s.store := by cases p <;> rfl
@[simp] theorem State.modCounts_writes (p : Port) (f : PortCounts → PortCounts) : (s.modCounts p f).writes = s.writes := by cases p <;> rfl
@[simp] theorem State.modCounts_free (p : Port) (f : PortCounts → PortCounts) : (s.modCounts p f).free = s.free := by cases p <;> rfl
@[simp] theorem State.modCounts_pending (p : Port) (f : PortCounts → PortCounts) : (s.modCounts p f).pending = s.pending := by cases p <;> rfl

/-! ### Reading back -/

theorem State.slot_setSlot (n m : Fin 24) (x : Slot) :
    (s.setSlot n x).slot m = if n = m then x else s.slot m := by
  simp only [State.setSlot, State.slot, Vector.getElem_set, Fin.ext_iff]

@[simp] theorem State.slot_setSlot_same (n : Fin 24) (x : Slot) : (s.setSlot n x).slot n = x := by
  simp [State.slot_setSlot]

theorem State.slot_modSlot (n m : Fin 24) (f : Slot → Slot) :
    (s.modSlot n f).slot m = if n = m then f (s.slot n) else s.slot m := State.slot_setSlot s n m _

@[simp] theorem State.slot_modSlot_same (n : Fin 24) (f : Slot → Slot) : (s.modSlot n f).slot n = f (s.slot n) := by
  simp [State.slot_modSlot]

theorem State.slot_modSlot_ne {n m : Fin 24} (h : n ≠ m) (f : Slot → Slot) : (s.modSlot n f).slot m = s.slot m := by
  simp [State.slot_modSlot, h]

theorem State.hold_setHold (n m : Fin 24) (h : Option Hold) :
    (s.setHold n h).hold m = if n = m then h else s.hold m := by
  simp only [State.setHold, State.hold, Vector.getElem_set, Fin.ext_iff]

theorem State.queue_setQueue (c d : Fin 4) (q : List WaitEntry) :
    (s.setQueue c q).queue d = if c = d then q else s.queue d := by
  simp only [State.setQueue, State.queue, Vector.getElem_set, Fin.ext_iff]

theorem State.terminal_modTerminal (t u : Fin 16) (f : Terminal → Terminal) :
    (s.modTerminal t f).terminal u = if t = u then f (s.terminal t) else s.terminal u := by
  simp only [State.modTerminal, State.setTerminal, State.terminal, Vector.getElem_set, Fin.ext_iff]

@[simp] theorem Restarts.of_set_same (r : Restarts) (p : Port) (x : RestartStage) : (r.set p x).of p = x := by cases p <;> rfl

@[simp] theorem Restarts.of_set_other (r : Restarts) (p : Port) (x : RestartStage) :
    (r.set p x).of (otherPort p) = r.of (otherPort p) := by cases p <;> rfl

@[simp] theorem Restarts.of_start (p : Port) : Restarts.start.of p = .none := by cases p <;> rfl

@[simp] theorem State.port_setPort_same (p : Port) (u : PortUnit) : (s.setPort p u).port p = u := by cases p <;> rfl

@[simp] theorem State.port_setPort_other (p : Port) (u : PortUnit) :
    (s.setPort p u).port (otherPort p) = s.port (otherPort p) := by cases p <;> rfl

@[simp] theorem State.setPort_setPort (p : Port) (u v : PortUnit) : (s.setPort p u).setPort p v = s.setPort p v := by cases p <;> rfl

@[simp] theorem State.setPort_self (p : Port) : s.setPort p (s.port p) = s := by cases p <;> rfl

end Sys2Proof.Machine
end

