-- ==== Sys2Proof/Laws/Records.lean ====
section
/-!
SUPPORT. The laws of the tables: the account table's reads and writes and its canonical form (R60), the event queue (R198),
the open-fault table and the history ring (R142, R143, R145, R151).
-/

namespace Sys2Proof.Machine

/-! ### The account table -/

theorem Accounts.find_put (t : List (Nat × Account)) (i j : Nat) (a : Account) :
    Accounts.find (Accounts.put t i a) j = if i = j then some a else Accounts.find t j := by
  induction t with
  | nil => simp [Accounts.put, Accounts.find]
  | cons e t ih =>
    obtain ⟨k, b⟩ := e
    simp only [Accounts.put]
    split
    · simp only [Accounts.find]
    · split
      · subst_vars
        simp only [Accounts.find]
        split <;> rfl
      · simp only [Accounts.find, ih]
        split <;> split <;> first | rfl | (exfalso; omega)

theorem Accounts.find_erase (t : List (Nat × Account)) (i j : Nat) :
    Accounts.find (Accounts.erase t i) j = if i = j then none else Accounts.find t j := by
  induction t with
  | nil => simp [Accounts.erase, Accounts.find]
  | cons e t ih =>
    obtain ⟨k, b⟩ := e
    simp only [Accounts.erase]
    split
    · subst_vars
      rw [ih]
      simp only [Accounts.find]
      split <;> rfl
    · simp only [Accounts.find, ih]
      split <;> split <;> first | rfl | (exfalso; omega)

/-- A read after a write gives the record written, and every other index reads as before. -/
theorem Accounts.read_write (t : List (Nat × Account)) (i j : Nat) (a : Account) :
    Accounts.read (Accounts.write t i a) j = if i = j then a else Accounts.read t j := by
  unfold Accounts.read Accounts.write
  split
  · rw [Accounts.find_erase]
    split
    · subst_vars; rfl
    · rfl
  · rw [Accounts.find_put]
    split <;> rfl

@[simp] theorem State.account_setAccount_same (s : State) (i : Nat) (a : Account) :
    (s.setAccount i a).account i = a := by
  simp [State.account, State.setAccount, Accounts.read_write]

theorem State.account_setAccount (s : State) (i j : Nat) (a : Account) :
    (s.setAccount i a).account j = if i = j then a else s.account j := by
  simp [State.account, State.setAccount, Accounts.read_write]

/-- An index above a bound. -/
def Accounts.beyond : Option Nat → Nat → Prop
  | none, _ => True
  | some i, k => i < k

theorem Accounts.above_cons (low : Option Nat) (k : Nat) (a : Account) (t : List (Nat × Account)) :
    Accounts.above low ((k, a) :: t) = true ↔
      Accounts.beyond low k ∧ a ≠ .free ∧ k < 512 ∧ Accounts.above (some k) t = true := by
  cases low <;> simp [Accounts.above, Accounts.beyond, and_assoc]

theorem Accounts.above_put {low : Option Nat} {t : List (Nat × Account)} {i : Nat} {a : Account}
    (h : Accounts.above low t = true) (ho : Accounts.beyond low i) (ha : a ≠ .free) (hi : i < 512) :
    Accounts.above low (Accounts.put t i a) = true := by
  induction t generalizing low with
  | nil =>
    rw [Accounts.put, Accounts.above_cons]
    exact ⟨ho, ha, hi, rfl⟩
  | cons e t ih =>
    obtain ⟨k, b⟩ := e
    rw [Accounts.above_cons] at h
    simp only [Accounts.put]
    split
    · rw [Accounts.above_cons, Accounts.above_cons]
      exact ⟨ho, ha, hi, ‹_›, h.2.1, h.2.2.1, h.2.2.2⟩
    · split
      · subst_vars
        rw [Accounts.above_cons]
        exact ⟨ho, ha, hi, h.2.2.2⟩
      · rw [Accounts.above_cons]
        exact ⟨h.1, h.2.1, h.2.2.1, ih h.2.2.2 (show k < i by omega)⟩

theorem Accounts.above_weaken {low : Option Nat} {k : Nat} {t : List (Nat × Account)}
    (h : Accounts.above (some k) t = true) (ho : Accounts.beyond low k) : Accounts.above low t = true := by
  cases t with
  | nil => rfl
  | cons e t =>
    obtain ⟨j, b⟩ := e
    rw [Accounts.above_cons] at h ⊢
    refine ⟨?_, h.2⟩
    cases low with
    | none => trivial
    | some i => exact Nat.lt_trans ho h.1

theorem Accounts.above_erase {low : Option Nat} {t : List (Nat × Account)} (i : Nat)
    (h : Accounts.above low t = true) : Accounts.above low (Accounts.erase t i) = true := by
  induction t generalizing low with
  | nil => rfl
  | cons e t ih =>
    obtain ⟨k, b⟩ := e
    rw [Accounts.above_cons] at h
    simp only [Accounts.erase]
    split
    · exact Accounts.above_weaken (ih h.2.2.2) h.1
    · rw [Accounts.above_cons]
      exact ⟨h.1, h.2.1, h.2.2.1, ih h.2.2.2⟩

/-- Every account write keeps the canonical form. -/
theorem Accounts.write_wf {t : List (Nat × Account)} {i : Nat} (a : Account) (h : Accounts.wf t = true) (hi : i < 512) :
    Accounts.wf (Accounts.write t i a) = true := by
  unfold Accounts.wf Accounts.write at *
  split
  · exact Accounts.above_erase i h
  · exact Accounts.above_put h trivial ‹_› hi

/-- An index with a record that is not FREE in every field is one of the table's. -/
theorem Accounts.above_find {low : Option Nat} {t : List (Nat × Account)} {i : Nat} {a : Account}
    (h : Accounts.above low t = true) (e : (i, a) ∈ t) : i < 512 ∧ Accounts.beyond low i ∧ Accounts.find t i = some a := by
  induction t generalizing low with
  | nil => cases e
  | cons x t ih =>
    obtain ⟨k, b⟩ := x
    rw [Accounts.above_cons] at h
    rcases List.mem_cons.1 e with e | e
    · cases e; exact ⟨h.2.2.1, h.1, by simp [Accounts.find]⟩
    · obtain ⟨h1, h2, h3⟩ := ih h.2.2.2 e
      refine ⟨h1, ?_, ?_⟩
      · cases low with
        | none => trivial
        | some j => exact Nat.lt_trans h.1 h2
      · have : k < i := h2
        simp only [Accounts.find, if_neg (Nat.ne_of_lt this), h3]

theorem Accounts.find_mem {t : List (Nat × Account)} {i : Nat} {a : Account} (h : Accounts.find t i = some a) :
    (i, a) ∈ t := by
  induction t with
  | nil => cases h
  | cons e t ih =>
    obtain ⟨k, b⟩ := e
    simp only [Accounts.find] at h
    split at h
    · next e => cases h; subst e; exact List.mem_cons_self
    · exact List.mem_cons_of_mem _ (ih h)

/-- A listed record reads as it is listed, at an index of the table. -/
theorem Accounts.read_mem {t : List (Nat × Account)} {i : Nat} {a : Account} (h : Accounts.wf t = true) (e : (i, a) ∈ t) :
    i < 512 ∧ Accounts.read t i = a := by
  obtain ⟨h1, -, h3⟩ := Accounts.above_find h e
  exact ⟨h1, by rw [Accounts.read, h3]; rfl⟩

theorem Accounts.mem_read {t : List (Nat × Account)} {i : Nat} (h : Accounts.read t i ≠ .free) :
    (i, Accounts.read t i) ∈ t := by
  unfold Accounts.read at *
  cases e : Accounts.find t i with
  | none => rw [e] at h; exact absurd rfl h
  | some x => exact Accounts.find_mem e

/-- A write keeps the canonical form also beyond the table's indexes when the record written is FREE. -/
theorem Accounts.write_canon {t : List (Nat × Account)} {i : Nat} {a : Account} (h : Accounts.wf t = true)
    (hi : i < 512 ∨ a = .free) : Accounts.wf (Accounts.write t i a) = true := by
  rcases hi with hi | hi
  · exact Accounts.write_wf a h hi
  · unfold Accounts.wf Accounts.write at *
    rw [if_pos hi]; exact Accounts.above_erase i h

theorem reset_accounts_wf : Accounts.wf State.reset.accounts = true := rfl

/-! ### The event queue -/

theorem EventQueue.empty_ok : EventQueue.ok ⟨[], 0, 0⟩ := by
  refine ⟨by simp, by simp, by simp, ?_⟩
  intro i h
  simp at h

/-- Queueing an event keeps the queue's laws (R198). -/
theorem State.post_ok {s : State} (b : EventBody) (h : s.events.ok) : (s.post b).events.ok := by
  obtain ⟨h1, h2, h3, h4⟩ := h
  unfold State.post
  split
  · refine ⟨by simpa using by omega, h2, Nat.mod_lt _ (by decide), ?_⟩
    intro i hi
    simp only [List.length_append, List.length_cons, List.length_nil] at hi ⊢
    by_cases hlt : i < s.events.queue.length
    · have := h4 i hlt
      simp only [List.getElem_append_left hlt]
      omega
    · have : i = s.events.queue.length := by omega
      subst this
      simp only [List.getElem_concat_length]
      omega
  · exact ⟨h1, by simp, h3, h4⟩

/-- Taking the oldest events keeps the queue's laws (R199). -/
theorem EventQueue.drop_ok {q : EventQueue} (k : Nat) (h : q.ok) : EventQueue.ok { q with queue := q.queue.drop k, lost := 0 } := by
  obtain ⟨h1, h2, h3, h4⟩ := h
  refine ⟨by simp only [List.length_drop]; omega, by simp, h3, ?_⟩
  intro i hi
  simp only [List.length_drop] at hi ⊢
  have := h4 (k + i) (by omega)
  simp only [List.getElem_drop]
  refine ⟨this.1, ?_⟩
  rw [← this.2]
  congr 1
  omega

/-! ### The open-fault table and the history ring -/

theorem Faults.empty_ok : Faults.ok ⟨[], [], 0⟩ := by
  simp [Faults.ok]

/-- Rewriting entries without touching their keys or taking their occurrences out of range keeps the table's laws. -/
theorem Faults.map_ok {f : Faults} (g : FaultEntry → FaultEntry) (h : f.ok)
    (hk : ∀ e, (g e).source = e.source ∧ (g e).code = e.code)
    (ho : ∀ e, 1 ≤ e.occurrences → e.occurrences ≤ 255 → 1 ≤ (g e).occurrences ∧ (g e).occurrences ≤ 255) :
    Faults.ok { f with table := f.table.map g } := by
  obtain ⟨h1, h2, h3, h4, h5⟩ := h
  refine ⟨by simpa using h1, ?_, ?_, h4, h5⟩
  · simpa [List.map_map, Function.comp_def, hk] using h2
  · intro e he
    obtain ⟨x, hx, rfl⟩ := List.mem_map.1 he
    exact ho x (h3 x hx).1 (h3 x hx).2

theorem Faults.latch_ok {f : Faults} (src : Option (Fin 24)) (c : FaultCode) (h : f.ok) : (f.latch src c).ok := by
  refine Faults.map_ok _ h ?_ ?_
  · intro e; split <;> exact ⟨rfl, rfl⟩
  · intro e; split <;> exact fun a b => ⟨a, b⟩

/-- Filtering the table keeps its laws. -/
theorem Faults.filter_ok {f : Faults} (p : FaultEntry → Bool) (h : f.ok) : Faults.ok { f with table := f.table.filter p } := by
  obtain ⟨h1, h2, h3, h4, h5⟩ := h
  refine ⟨Nat.le_trans (List.length_filter_le _ _) h1, ?_, ?_, h4, h5⟩
  · exact List.Nodup.sublist ((List.filter_sublist).map _) h2
  · intro e he
    exact h3 e (List.mem_filter.1 he).1

theorem Faults.remove_ok {f : Faults} (src : Option (Fin 24)) (c : FaultCode) (h : f.ok) : (f.remove src c).ok :=
  Faults.filter_ok _ h

/-- The ring keeps its 32 newest closed entries (R151). -/
theorem Faults.close_ok {f : Faults} (e : FaultEntry) (r : Closing) (now : Clock) (h : f.ok) : (f.close e r now).ok := by
  obtain ⟨h1, h2, h3, h4, h5⟩ := h
  refine ⟨h1, h2, h3, ?_, Nat.mod_lt _ (by decide)⟩
  simp only [Faults.close, List.length_drop, List.length_append, List.length_cons, List.length_nil]
  omega

theorem FaultEntry.hasKey_iff {e : FaultEntry} {src : Option (Fin 24)} {c : FaultCode} :
    e.hasKey src c = true ↔ e.source = src ∧ e.code = c := by
  simp [FaultEntry.hasKey]

/-- A new entry whose key the table lacks joins at its end. -/
theorem Faults.append_ok {f : Faults} (e : FaultEntry) (h : f.ok) (hl : f.table.length < 32)
    (hn : ∀ x ∈ f.table, ¬ (x.source = e.source ∧ x.code = e.code)) (ho : e.occurrences = 1) :
    Faults.ok { f with table := f.table ++ [e] } := by
  obtain ⟨h1, h2, h3, h4, h5⟩ := h
  refine ⟨by simpa using by omega, ?_, ?_, h4, h5⟩
  · simp only [List.map_append, List.map_cons, List.map_nil]
    refine List.Nodup.append h2 (by simp) ?_
    intro k hk hk'
    obtain ⟨x, hx, rfl⟩ := List.mem_map.1 hk
    simp only [List.mem_singleton, Prod.mk.injEq] at hk'
    exact hn x hx hk'
  · intro x hx
    rcases List.mem_append.1 hx with hx | hx
    · exact h3 x hx
    · rw [List.mem_singleton.1 hx, ho]
      exact ⟨Nat.le_refl _, by decide⟩

theorem Faults.find_none {f : Faults} {src : Option (Fin 24)} {c : FaultCode} (h : f.find src c = none) :
    ∀ x ∈ f.table, ¬ (x.source = src ∧ x.code = c) := by
  intro x hx hk
  have := List.find?_eq_none.1 h x hx
  exact this (FaultEntry.hasKey_iff.2 hk)

/-- Stage 1 of a raise keeps the table's and the ring's laws (R142, R143, R145). -/
theorem Faults.enter_ok {f : Faults} (src : Option (Fin 24)) (c : FaultCode) (err : Option Nat) (now : Clock) (h : f.ok) :
    (f.enter src c err now).1.ok := by
  unfold Faults.enter
  split
  · refine Faults.map_ok _ h ?_ ?_
    · intro e; split <;> exact ⟨rfl, rfl⟩
    · intro e a b
      split
      · simp only [FaultEntry.again]; omega
      · exact ⟨a, b⟩
  · next hf =>
    have hn := Faults.find_none hf
    split
    · exact Faults.append_ok _ h ‹_› hn rfl
    · next hfull =>
      split
      · next old hold =>
        have hmem := List.mem_of_find?_eq_some hold
        have hk := Faults.filter_ok (fun x => !x.hasKey old.source old.code) (Faults.close_ok old .displaced now h)
        refine Faults.append_ok (f := { f.close old .displaced now with
          table := (f.close old .displaced now).table.filter fun x => !x.hasKey old.source old.code }) _ hk ?_ ?_ rfl
        · have : ((f.table.filter fun x => !x.hasKey old.source old.code)).length < f.table.length :=
            List.length_filter_lt_length_iff_exists.2 ⟨old, hmem, by simp [FaultEntry.hasKey]⟩
          exact Nat.lt_of_lt_of_le this h.1
        · intro x hx
          exact hn x (List.mem_filter.1 hx).1
      · exact Faults.close_ok _ _ _ h

end Sys2Proof.Machine
end

