-- ==== Sys2Proof/Laws/Acts.lean ====
section
/-!
SUPPORT. What the shared operations can do, said once: every act at the slots leaves the rest of the state alone
(`State.outside`) and every slot's configuration, and keeps the outputs of R3, the event queue of R198 and the fault table of
R142. One lemma per operation, each continuing a chain of acts from a first state.
-/

namespace Sys2Proof.Machine

/-- From state `a` acts have led to state `s`. -/
structure Acts (a s : State) : Prop where
  outside : s.outside = a.outside
  cfg : ∀ n, (s.slot n).cfg = (a.slot n).cfg
  agree : a.outputsAgree → s.outputsAgree
  events : a.events.ok → s.events.ok
  faults : a.faults.ok → s.faults.ok

variable {a s : State}

theorem Acts.refl (a : State) : Acts a a := ⟨rfl, fun _ => rfl, id, id, id⟩

theorem Acts.trans {b c : State} (h : Acts a b) (k : Acts b c) : Acts a c :=
  ⟨k.outside.trans h.outside, fun n => (k.cfg n).trans (h.cfg n), k.agree ∘ h.agree, k.events ∘ h.events,
    k.faults ∘ h.faults⟩

/-- A condition chooses between two chains. -/
theorem Acts.ite {c : Prop} [Decidable c] {t u : State} (ht : Acts a t) (hu : Acts a u) : Acts a (if c then t else u) := by
  split <;> assumption

/-- An operation repeated over a list. -/
theorem Acts.foldl {α : Type} {f : State → α → State} (hf : ∀ a s x, Acts a s → Acts a (f s x)) (l : List α) (s : State)
    (h : Acts a s) : Acts a (l.foldl f s) := by
  induction l generalizing s with
  | nil => exact h
  | cons x l ih => exact ih _ (hf _ _ _ h)

theorem Acts.overSlots {f : Fin 24 → State → State} (h : Acts a s) (hf : ∀ n a s, Acts a s → Acts a (f n s)) :
    Acts a (overSlots f s) := Acts.foldl (fun a s n => hf n a s) _ _ h

/-! ### The primitive updates -/

/-- A change of fields that no law speaks of. -/
theorem Acts.change {t : State} (h : Acts a s) (ho : t.outside = s.outside) (hs : t.slots = s.slots)
    (he : t.events = s.events) (hf : t.faults = s.faults) : Acts a t := by
  refine h.trans ⟨ho, fun n => ?_, fun k n => ?_, fun k => he ▸ k, fun k => hf ▸ k⟩
  · simp only [State.slot, hs]
  · have := k n
    simpa only [State.slot, hs] using this

theorem Acts.post (h : Acts a s) (b : EventBody) : Acts a (s.post b) := by
  refine h.trans ⟨?_, fun n => ?_, fun k n => ?_, State.post_ok b, fun k => ?_⟩
  · unfold State.post; split <;> rfl
  · simp [State.slot]
  · simpa [State.slot] using k n
  · simpa using k

/-- A slot changed with its configuration kept and its outputs those of R3. -/
theorem Acts.setSlot (h : Acts a s) (n : Fin 24) (x : Slot) (hc : x.cfg = (s.slot n).cfg)
    (ha : (s.slot n).agrees → x.agrees) : Acts a (s.setSlot n x) := by
  refine h.trans ⟨rfl, fun m => ?_, fun k m => ?_, id, id⟩
  · rw [State.slot_setSlot]; split
    · next e => rw [hc, e]
    · rfl
  · rw [State.slot_setSlot]; split
    · exact ha (k n)
    · exact k m

/-- A change of a slot's fields other than its configuration, state, outputs and grant flag. -/
theorem Acts.modSlot (h : Acts a s) (n : Fin 24) (f : Slot → Slot)
    (hf : ∀ x, (f x).cfg = x.cfg ∧ (f x).state = x.state ∧ (f x).outputs = x.outputs ∧ (f x).heatGrant = x.heatGrant) :
    Acts a (s.modSlot n f) := by
  obtain ⟨h1, h2, h3, h4⟩ := hf (s.slot n)
  refine h.setSlot n _ h1 ?_
  unfold Slot.agrees
  rw [h2, h3, h4]
  exact id

theorem Acts.write (h : Acts a s) (ws : List StoreWrite) : Acts a (s.write ws) := h.change rfl rfl rfl rfl
theorem Acts.modGov (h : Acts a s) (f : Governor → Governor) : Acts a (s.modGov f) := h.change rfl rfl rfl rfl
theorem Acts.setQueue (h : Acts a s) (c : Fin 4) (q : List WaitEntry) : Acts a (s.setQueue c q) := h.change rfl rfl rfl rfl
theorem Acts.setHold (h : Acts a s) (n : Fin 24) (x : Option Hold) : Acts a (s.setHold n x) := h.change rfl rfl rfl rfl
theorem Acts.setAccount (h : Acts a s) (i : Nat) (x : Account) : Acts a (s.setAccount i x) := h.change rfl rfl rfl rfl
theorem Acts.setQueues (h : Acts a s) (q : Vector (List WaitEntry) 4) : Acts a { s with queues := q } :=
  h.change rfl rfl rfl rfl
theorem Acts.setSettlement (h : Acts a s) (q : SettlementQueue) : Acts a { s with settlement := q } :=
  h.change rfl rfl rfl rfl
theorem Acts.setBroadcast (h : Acts a s) (b : Bool) : Acts a { s with bus := { s.bus with broadcast := b } } :=
  h.change rfl rfl rfl rfl
theorem Acts.setRoomState (h : Acts a s) (r : RoomState) : Acts a { s with room := { s.room with state := r } } :=
  h.change rfl rfl rfl rfl

theorem Acts.setFaults (h : Acts a s) (f : Faults) (hf : s.faults.ok → f.ok) : Acts a { s with faults := f } :=
  h.trans ⟨rfl, fun _ => rfl, id, id, hf⟩

theorem Acts.latch (h : Acts a s) (src : Option (Fin 24)) (c : FaultCode) : Acts a (s.latch src c) :=
  h.setFaults _ (Faults.latch_ok src c)

theorem Acts.latchAll (h : Acts a s) (n : Fin 24) : Acts a (s.latchAll n) := by
  refine h.setFaults _ fun k => Faults.map_ok _ k ?_ ?_
  · intro e; split <;> exact ⟨rfl, rfl⟩
  · intro e; split <;> exact fun a b => ⟨a, b⟩

/-- A terminal's displays changed. -/
theorem Acts.modTerminal (h : Acts a s) (t : Fin 16) (f : Terminal → Terminal) (hf : ∀ x, (f x).bare = x.bare) :
    Acts a (s.modTerminal t f) := by
  refine h.change ?_ rfl rfl rfl
  unfold State.outside
  simp only [State.modTerminal, State.setTerminal, State.mk.injEq, and_true, true_and]
  ext1 i hi
  simp only [Vector.getElem_map, Vector.getElem_set]
  split
  · next e => subst e; exact hf _
  · rfl

theorem Acts.modHalf (h : Acts a s) (t : Fin 16) (k : Half) (f : HalfEntry → HalfEntry)
    (hf : ∀ e, (f e).report = e.report) : Acts a (s.modHalf t k f) := by
  refine h.modTerminal t _ fun x => ?_
  cases k <;> simp [Terminal.bare, Terminal.setHalf, Terminal.half, HalfEntry.bare, hf]

/-! ### Displays, events, slots (Ops) -/

theorem Acts.setLasting (h : Acts a s) (t : Fin 16) (k : Half) (d : Display) : Acts a (s.setLasting t k d) :=
  h.modHalf t k _ fun e => by unfold HalfEntry.setLasting; split <;> (try split) <;> rfl

theorem Acts.showLasting (h : Acts a s) (n : Fin 24) (d : Display) : Acts a (s.showLasting n d) := by
  unfold State.showLasting; split
  · exact h.setLasting _ _ _
  · exact h

theorem Acts.showBrief (h : Acts a s) (n : Fin 24) (c : DisplayCode) (p : Nat) : Acts a (s.showBrief n c p) := by
  unfold State.showBrief; split
  · exact h.modHalf _ _ _ fun e => rfl
  · exact h

theorem Acts.postSlot (h : Acts a s) (n : Fin 24) : Acts a (s.postSlot n) := h.post _

theorem Acts.enter (h : Acts a s) (n : Fin 24) (st : SlotState) : Acts a (s.enter n st) := by
  unfold State.enter
  have k : Acts a (s.modSlot n fun x => { x with
      state := st, outputs := outputsOf st x.heatGrant, sense := x.sense.disturb,
      timer := (s.stateSeconds st).map (s.elapsed + ·) }) := h.setSlot n _ rfl fun _ => rfl
  refine Acts.ite (k.postSlot n) ?_
  split
  · exact (k.postSlot n).showLasting _ _
  · exact k.postSlot n

theorem Acts.setGrant (h : Acts a s) (n : Fin 24) (g : Bool) : Acts a (s.setGrant n g) := h.setSlot n _ rfl fun _ => rfl

theorem Acts.setCause (h : Acts a s) (n : Fin 24) (m : Cause) (v : Bool) : Acts a (s.setCause n m v) :=
  h.modSlot n _ fun _ => ⟨rfl, rfl, rfl, rfl⟩

theorem Acts.writeCauses (h : Acts a s) (n : Fin 24) (m : Cause) : Acts a (s.writeCauses n m) := by
  unfold State.writeCauses; exact Acts.ite h (h.write _)

/-! ### The governor -/

theorem Acts.grantSlot (h : Acts a s) (n : Fin 24) : Acts a (s.grantSlot n) := by
  unfold State.grantSlot
  exact Acts.ite ((h.setGrant n true).enter _ _) (h.setGrant n true)

theorem Acts.revokeSlot (h : Acts a s) (n : Fin 24) : Acts a (s.revokeSlot n) := (h.setGrant n false).enter _ _

theorem Acts.tidyStamp (h : Acts a s) : Acts a s.tidyStamp := by
  unfold State.tidyStamp; exact Acts.ite (h.modGov _) h

theorem Acts.revoke (h : Acts a s) (fell : Bool) : Acts a (s.revoke fell).1 :=
  Acts.foldl (fun _ _ x k => k.revokeSlot x.slot) _ _ (h.modGov _)

theorem Acts.grantPass (h : Acts a s) (r : List (Fin 24)) : Acts a (s.grantPass r) :=
  Acts.foldl (fun _ _ x k => k.grantSlot x.slot) _ _ (h.modGov _)

/-- What a reckoning can do (R106). -/
theorem Acts.reckon (h : Acts a s) (x y z : Bool) : Acts a (s.reckon x y z) := by
  unfold State.reckon
  refine Acts.tidyStamp (Acts.ite (Acts.grantPass (Acts.revoke ?_ _) _) (Acts.revoke ?_ _)) <;>
    exact (h.modGov _).modGov _

theorem Acts.placeNew (h : Acts a s) (n : Fin 24) : Acts a (s.placeNew n) := by
  unfold State.placeNew
  split
  · exact h
  · exact h
  · exact Acts.ite (h.modGov _) ((h.modGov _).modGov _)

theorem Acts.askHeat (h : Acts a s) (ns : List (Fin 24)) : Acts a (s.askHeat ns) := by
  unfold State.askHeat
  refine Acts.ite h (Acts.foldl (fun _ _ n k => Acts.ite k (k.enter n _)) _ _ (Acts.reckon ?_ _ _ _))
  exact Acts.foldl (fun _ _ n k => k.placeNew n) _ _ h

theorem Acts.removeRequest (h : Acts a s) (n : Fin 24) : Acts a (s.removeRequest n) := h.modGov _
theorem Acts.dropGrant (h : Acts a s) (n : Fin 24) : Acts a (s.dropGrant n) := (h.removeRequest n).setGrant n false
theorem Acts.giveUpGrant (h : Acts a s) (n : Fin 24) : Acts a (s.giveUpGrant n) := (h.dropGrant n).reckon _ _ _
theorem Acts.withdraw (h : Acts a s) (n : Fin 24) : Acts a (s.withdraw n) := (h.removeRequest n).tidyStamp
theorem Acts.clearGovernor (h : Acts a s) : Acts a s.clearGovernor :=
  (h.modGov _).overSlots fun n _ _ k => Acts.ite (k.setGrant n false) k
theorem Acts.enterTold (h : Acts a s) (n : Fin 24) (st : SlotState) : Acts a (s.enterTold n st) :=
  (h.enter n st).reckon _ _ _

theorem Acts.dropHeat (h : Acts a s) (n : Fin 24) (b : Bool := true) : Acts a (s.dropHeat n b) := by
  unfold State.dropHeat
  have k := h.modSlot n (fun x => { x with heatReq := false }) fun _ => ⟨rfl, rfl, rfl, rfl⟩
  exact Acts.ite (Acts.ite (k.giveUpGrant n) (k.dropGrant n)) (k.withdraw n)

/-! ### The waitlist -/

theorem Acts.reserve (h : Acts a s) (n : Fin 24) (c : Fin 4) (e : WaitEntry) (q : List WaitEntry) :
    Acts a (s.reserve n c e q) := by
  unfold State.reserve
  have k := (h.setQueue c q).modSlot n (fun x => { x with
    reservation := some ⟨e.card, e.account, e.joined, (s.setQueue c q).settings.room.window * 60⟩ })
    fun _ => ⟨rfl, rfl, rfl, rfl⟩
  exact ((Acts.ite (k.postSlot n) (k.enter n _)).post _).showLasting _ _

theorem Acts.offer (h : Acts a s) (n : Fin 24) : Acts a (s.offer n) := by
  unfold State.offer; split
  · exact h
  · split
    · exact h
    · exact h.reserve _ _ _ _

theorem Acts.enterIdle (h : Acts a s) (n : Fin 24) : Acts a (s.enterIdle n) := (h.enter n _).offer n

theorem Acts.dropReservation (h : Acts a s) (n : Fin 24) : Acts a (s.dropReservation n) :=
  h.modSlot n _ fun _ => ⟨rfl, rfl, rfl, rfl⟩

theorem Acts.handOn (h : Acts a s) (n : Fin 24) : Acts a (s.handOn n) := by
  unfold State.handOn
  have k := h.dropReservation n
  dsimp only
  split
  · exact k.enterIdle n
  · split
    · exact k.enterIdle n
    · exact k.reserve _ _ _ _

theorem Acts.giveBack (h : Acts a s) (c : Fin 4) (r : Reservation) : Acts a (s.giveBack c r) := by
  unfold State.giveBack
  dsimp only
  have k : Acts a (if 8 ≤ (s.queue c).length then
      match (s.queue c).getLast? with
      | some e => (s.setQueue c (s.queue c).dropLast).post (.waitlistDropped e.card c)
      | none => s
    else s) := by
    refine Acts.ite ?_ h
    split
    · exact (h.setQueue _ _).post _
    · exact h
  split
  · exact (k.setQueue _ _).offer _
  · exact k.setQueue _ _

theorem Acts.earlyNotice (h : Acts a s) (c : Fin 4) (n : Fin 24) (m : Nat) : Acts a (s.earlyNotice c n m) := by
  unfold State.earlyNotice; split
  · exact h
  · exact (h.setQueue _ _).post _

theorem Acts.join (h : Acts a s) (c : Fin 4) (card : Nat) : Acts a (s.join c card).1 := by
  unfold State.join
  split
  · exact h
  · dsimp only
    split
    · exact h
    · split
      · exact h
      · split
        · exact h
        · split
          · exact h
          · exact h.setQueue _ _

theorem Acts.losePlaces (h : Acts a s) (card : Nat) : Acts a (s.losePlaces card) :=
  (Acts.foldl (fun _ _ c k => k.setQueue c _) _ _ h).overSlots fun n _ _ k => Acts.ite (k.handOn n) k

theorem Acts.clearWaitlist (h : Acts a s) : Acts a s.clearWaitlist :=
  (h.setQueues _).overSlots fun n _ _ k => Acts.ite ((k.dropReservation n).enterIdle n) k

theorem Acts.toldOfStart (h : Acts a s) (c : Fin 4) (card : Nat) : Acts a (s.toldOfStart c card) := by
  unfold State.toldOfStart
  dsimp only
  split
  · exact (h.setQueue _ _).handOn _
  · exact h.setQueue _ _

theorem Acts.waitSecond (h : Acts a s) : Acts a s.waitSecond :=
  (Acts.foldl (fun _ _ c k => k.setQueue c _) _ _ h).overSlots
    fun n _ _ k => k.modSlot n _ fun _ => ⟨rfl, rfl, rfl, rfl⟩

/-! ### The payment unit -/

theorem Acts.rollAccount (h : Acts a s) (i : Nat) : Acts a (s.rollAccount i) := by
  unfold State.rollAccount; exact Acts.ite h ((h.setAccount _ _).write _)

theorem Acts.settle (h : Acts a s) (n : Fin 24) (r : Reason) (f : Option (FaultCode × Option Nat)) :
    Acts a (s.settle n r f) := by
  unfold State.settle; split
  · exact h
  · exact (((h.setAccount _ _).setHold _ _).setSettlement _).write _

theorem Acts.placeHold (h : Acts a s) (n : Fin 24) (c : Fin 4) (i : Nat) (x : Account) (card : Nat) :
    Acts a (s.placeHold n c i x card) := by
  unfold State.placeHold
  refine ((Acts.enter (Acts.modSlot (((h.setHold n _).setAccount i _).write _) n _ ?_) n _).showLasting n _).toldOfStart
    c card
  exact fun _ => ⟨rfl, rfl, rfl, rfl⟩

theorem Acts.startTap (h : Acts a s) (n : Fin 24) (card : Nat) : Acts a (s.startTap n card) := by
  unfold State.startTap
  split
  · exact h
  · split
    · exact h.showBrief _ _ _
    · dsimp only
      have k : ∀ i, Acts a (if (s.account i).cap = 0 then s else s.rollAccount i) := fun i => Acts.ite h (h.rollAccount i)
      refine Acts.ite (h.showBrief _ _ _) (Acts.ite (h.showBrief _ _ _) (Acts.ite (h.showBrief _ _ _)
        (Acts.ite ((k _).showBrief _ _ _) (Acts.ite ((k _).showBrief _ _ _) (h.placeHold _ _ _ _ _)))))

theorem Acts.takeTopUp (h : Acts a s) (n : Fin 24) (x : Hold) (i : Nat) (y : Account) : Acts a (s.takeTopUp n x i y) := by
  unfold State.takeTopUp
  dsimp only
  refine Acts.ite (Acts.showLasting ?_ _ _) ?_ <;> refine (Acts.modSlot ?_ n _ ?_).showBrief _ _ _ <;> first
    | with_reducible exact ((h.setHold _ _).setAccount _ _).write _
    | with_reducible exact fun _ => ⟨rfl, rfl, rfl, rfl⟩

theorem Acts.topUpTap (h : Acts a s) (n : Fin 24) (card : Nat) : Acts a (s.topUpTap n card) := by
  unfold State.topUpTap
  split
  · exact h
  · split
    · exact h.showBrief _ _ _
    · dsimp only
      have k : ∀ i, Acts a (if (s.account i).cap = 0 then s else s.rollAccount i) := fun i => Acts.ite h (h.rollAccount i)
      refine Acts.ite (h.showBrief _ _ _) (Acts.ite (h.showBrief _ _ _) (Acts.ite (h.showBrief _ _ _)
        (Acts.ite (h.showBrief _ _ _) (Acts.ite ((k _).showBrief _ _ _) (h.takeTopUp _ _ _ _)))))

theorem Acts.storeRun (h : Acts a s) (n : Fin 24) : Acts a (s.storeRun n) := by
  unfold State.storeRun; split
  · exact h
  · exact Acts.ite ((h.setHold _ _).write _) h

/-! ### The room and the cycle -/

theorem Acts.displayAll (h : Acts a s) (d : Display) : Acts a (s.displayAll d) :=
  Acts.foldl (fun _ _ t k =>
    k.modTerminal t (fun x => { x with halfA := x.halfA.setRoom d, halfB := x.halfB.setRoom d }) fun _ => rfl) _ _ h

theorem Acts.roomDisplay (h : Acts a s) (r : RoomState) : Acts a (s.roomDisplay r) := by
  unfold State.roomDisplay; split
  · exact h.setBroadcast _
  · exact Acts.ite h ((h.displayAll _).setBroadcast _)

theorem Acts.changeRoom (h : Acts a s) (r : RoomState) (c : RoomCause) : Acts a (s.changeRoom r c) :=
  ((h.setRoomState r).post _).roomDisplay _

theorem Acts.openDisplays (h : Acts a s) : Acts a s.openDisplays :=
  Acts.foldl (fun _ _ t k => (k.setLasting t .a _).setLasting t .b _) _ _ h

theorem Acts.enterRoom (h : Acts a s) (r : RoomState) (c : RoomCause) : Acts a (s.enterRoom r c) := by
  unfold State.enterRoom
  exact Acts.ite (h.changeRoom r c).openDisplays (h.changeRoom r c).clearWaitlist

theorem Acts.followMode (h : Acts a s) (c : RoomCause) : Acts a (s.followMode c) := by
  unfold State.followMode
  split <;> first | with_reducible exact h | with_reducible exact Acts.ite h (h.enterRoom _ _)

theorem Acts.holdsEnded (h : Acts a s) : Acts a s.holdsEnded := by
  unfold State.holdsEnded; exact Acts.ite (h.enterRoom _ _) h

theorem Acts.enterEnded (h : Acts a s) (n : Fin 24) (st : SlotState) (b : Bool) : Acts a (s.enterEnded n st b) := by
  unfold State.enterEnded; exact Acts.ite (h.enterTold n st) (h.enter n st)

/-- What a cycle end can do (R6). -/
theorem Acts.cycleEnd (h : Acts a s) (n : Fin 24) (r : Reason) (f : Option (FaultCode × Option Nat)) (st : SlotState)
    (b : Bool := true) : Acts a (s.cycleEnd n r f st b) := by
  unfold State.cycleEnd
  split
  · exact h
  · have k := Acts.modSlot (((h.settle n r f).post (.cycleEnd n s.settlement.next)).dropHeat n b) n
      (fun x => { x with warning := false, resume := none }) fun _ => ⟨rfl, rfl, rfl, rfl⟩
    exact Acts.holdsEnded (Acts.ite (k.enterIdle n) (k.enterEnded n st b))

theorem Acts.pointA (h : Acts a s) (n : Fin 24) : Acts a (s.pointA n) := by
  unfold State.pointA; split
  · exact h
  · exact Acts.ite h ((h.modSlot n (fun x => { x with warning := true }) fun _ => ⟨rfl, rfl, rfl, rfl⟩).earlyNotice _ _ _)

theorem Acts.startRunning (h : Acts a s) (n : Fin 24) : Acts a (s.startRunning n) := by
  unfold State.startRunning
  refine Acts.pointA (Acts.enter ?_ n _) n
  split <;> exact h.modSlot n _ fun _ => ⟨rfl, rfl, rfl, rfl⟩

theorem Acts.askIfWanted (h : Acts a s) (n : Fin 24) : Acts a (s.askIfWanted n) := by
  unfold State.askIfWanted; exact Acts.ite (h.askHeat _) h

theorem Acts.enterRunning (h : Acts a s) (n : Fin 24) : Acts a (s.enterRunning n) := (h.startRunning n).askIfWanted n

theorem Acts.recoverCounters (h : Acts a s) (n : Fin 24) : Acts a (s.recoverCounters n) := by
  unfold State.recoverCounters
  dsimp only
  split <;> exact h.modSlot n _ fun _ => ⟨rfl, rfl, rfl, rfl⟩

theorem Acts.recoverRunning (h : Acts a s) (n : Fin 24) : Acts a (s.recoverRunning n) := by
  unfold State.recoverRunning
  have k := h.recoverCounters n
  have m := (k.modSlot n (fun x => { x with resume := some .running }) fun _ => ⟨rfl, rfl, rfl, rfl⟩).enter n .suspended
  exact Acts.ite (Acts.ite (m.cycleEnd _ _ _ _) m) ((k.enter n _).askIfWanted n)

theorem Acts.recover (h : Acts a s) (n : Fin 24) : Acts a (s.recover n) := by
  unfold State.recover
  dsimp only
  split <;> first | with_reducible exact Acts.ite (h.recoverRunning n) (h.cycleEnd _ _ _ _) | with_reducible exact h.cycleEnd _ _ _ _

theorem Acts.confirmUnlock (h : Acts a s) (n : Fin 24) : Acts a (s.confirmUnlock n) := by
  unfold State.confirmUnlock
  exact Acts.ite (Acts.ite ((h.enterTold n _).enterIdle n) (h.enterTold n _)) (h.enterTold n _)

theorem Acts.haltSlot (h : Acts a s) (n : Fin 24) (r : Resume) : Acts a (s.haltSlot n r) :=
  ((h.modSlot n (fun x => { x with heatReq := false, resume := some r }) fun _ => ⟨rfl, rfl, rfl, rfl⟩).setGrant n
    false).enter n _

theorem Acts.suspendSlot (h : Acts a s) (n : Fin 24) : Acts a (s.suspendSlot n) := by
  unfold State.suspendSlot
  split <;> first | with_reducible exact h | with_reducible exact h.haltSlot _ _ | with_reducible exact h.cycleEnd _ _ _ _

theorem Acts.limitSlot (h : Acts a s) (n : Fin 24) : Acts a (s.limitSlot n) := by
  unfold State.limitSlot; exact Acts.ite (h.cycleEnd _ _ _ _) h

theorem Acts.resumeRunning (h : Acts a s) (n : Fin 24) : Acts a (s.resumeRunning n) := by
  unfold State.resumeRunning
  refine (h.modSlot n _ ?_).enter n _
  exact fun _ => ⟨rfl, rfl, rfl, rfl⟩

theorem Acts.resumeSlot (h : Acts a s) (n : Fin 24) : Acts a (s.resumeSlot n) := by
  unfold State.resumeSlot
  dsimp only
  have k := h.modSlot n (fun x => { x with resume := none }) fun _ => ⟨rfl, rfl, rfl, rfl⟩
  refine Acts.ite h ?_
  split
  · exact Acts.ite (k.startRunning n) (k.enter n _)
  · exact Acts.ite (h.cycleEnd _ _ _ _) (h.resumeRunning n)
  · exact Acts.ite (h.cycleEnd _ _ _ _) (h.resumeRunning n)

theorem Acts.resumeSlots (h : Acts a s) : Acts a s.resumeSlots :=
  Acts.askHeat (Acts.foldl (fun _ _ n k => k.resumeSlot n) _ _ h) _

/-! ### Faults -/

theorem Acts.takeOut (h : Acts a s) (n : Fin 24) : Acts a (s.takeOut n) := by
  unfold State.takeOut; split
  · exact ((h.dropReservation n).enter n _).giveBack _ _
  · exact h.enter n _

theorem Acts.followJoin (h : Acts a s) (n : Fin 24) : Acts a (s.followJoin n) := by
  unfold State.followJoin
  split <;> first | with_reducible exact h.takeOut n | with_reducible exact h.postSlot n

theorem Acts.joinCause (h : Acts a s) (n : Fin 24) (m : Cause) : Acts a (s.joinCause n m) := by
  unfold State.joinCause; exact Acts.ite h (((h.setCause n m true).writeCauses n m).followJoin n)

theorem Acts.joinLost (h : Acts a s) (n : Fin 24) : Acts a (s.joinLost n) := by
  unfold State.joinLost
  have k := h.setCause n .lost true
  refine Acts.ite h ?_
  dsimp only
  split <;> first | with_reducible exact k | with_reducible exact k.postSlot n | with_reducible exact k.takeOut n | with_reducible exact k.cycleEnd _ _ _ _ _

theorem Acts.removeCause (h : Acts a s) (n : Fin 24) (m : Cause) : Acts a (s.removeCause n m) := by
  unfold State.removeCause
  have k := ((h.setCause n m false).writeCauses n m).postSlot n
  exact Acts.ite h (Acts.ite (k.enterIdle n) k)

theorem Acts.faultEnd (h : Acts a s) (n : Fin 24) (c : FaultCode) (e : Option Nat) : Acts a (s.faultEnd n c e) := by
  unfold State.faultEnd; exact Acts.ite (h.cycleEnd _ _ _ _) h

theorem Acts.unlockFailed (h : Acts a s) (n : Fin 24) : Acts a (s.unlockFailed n) := by
  unfold State.unlockFailed
  exact (Acts.ite h ((h.setCause n _ true).writeCauses n _)).enterTold n _

theorem Acts.faultAct (h : Acts a s) (n : Fin 24) (c : FaultCode) (e : Option Nat) (v : Severity) :
    Acts a (s.faultAct n c e v) := by
  unfold State.faultAct
  split
  · exact h
  · exact h.faultEnd _ _ _
  · exact Acts.ite (h.unlockFailed n) ((h.faultEnd _ _ _).joinCause n _)
  · exact h.joinLost n

/-- What a raise can do (R137). -/
theorem Acts.raise (h : Acts a s) (src : Option (Fin 24)) (c : FaultCode) (e : Option Nat) : Acts a (s.raise src c e) := by
  unfold State.raise
  dsimp only
  have k := (h.setFaults _ (Faults.enter_ok src c e s.clock)).post (.faultRaised src c
    (s.faults.enter src c e s.clock).2.1.errorCode (s.faults.enter src c e s.clock).2.1.occurrences
    (s.faults.enter src c e s.clock).2.1.severity (s.faults.enter src c e s.clock).2.2)
  cases src with
  | none => exact Acts.ite (k.latch _ _) k
  | some n => exact Acts.ite ((k.faultAct n c e _).latch _ _) (k.faultAct n c e _)

theorem Acts.releaseLockout (h : Acts a s) (n : Fin 24) : Acts a (s.releaseLockout n) := by
  unfold State.releaseLockout; exact Acts.ite (h.removeCause n _) h

theorem Acts.loseSlots (h : Acts a s) (t : Fin 16) : Acts a (s.loseSlots t) := by
  unfold State.loseSlots State.reckonAfter
  exact (Acts.foldl (fun _ _ n k => k.raise (some n) _ _) _ _ h).reckon _ _ _

theorem Acts.regainSlot (h : Acts a s) (n : Fin 24) : Acts a (s.regainSlot n) := (h.latch _ _).removeCause n _

theorem Acts.regainSlots (h : Acts a s) (t : Fin 16) : Acts a (s.regainSlots t) :=
  (Acts.foldl (fun _ _ n k => k.regainSlot n) _ _ h).reckon _ _ _

/-! ### Reports and latched events -/

theorem Acts.takeView (h : Acts a s) (n : Fin 24) (v : View) : Acts a (s.takeView n v) := by
  unfold State.takeView
  refine h.modSlot n _ ?_
  exact fun _ => ⟨rfl, rfl, rfl, rfl⟩

theorem Acts.latchReport (h : Acts a s) (n : Fin 24) (v : View) : Acts a (s.latchReport n v) := by
  unfold State.latchReport
  dsimp only
  generalize (if (s.slot n).outputs.locked = true then LockView.locked else LockView.unlocked) = wanted
  have k1 := Acts.ite (c := v.lock = wanted) (h.latch (some n) .lockFail) h
  have k2 := Acts.ite (c := v.lock = .unlocked) (k1.latch (some n) .unlockFail) k1
  have k3 := Acts.ite (c := v.forced = true) k2 (k2.latch (some n) .doorForced)
  exact Acts.ite k3 (k3.latch _ _)

theorem Acts.reportFaults (h : Acts a s) (n : Fin 24) (b v : View) : Acts a (s.reportFaults n b v) := by
  unfold State.reportFaults
  have k := Acts.ite (c := v.forced ∧ !b.forced ∧ (s.slot n).state.forcible) (h.raise (some n) .doorForced none) h
  exact Acts.ite (k.raise _ _ _) k

theorem Acts.heatChange (h : Acts a s) (n : Fin 24) (w : Bool) : Acts a (s.heatChange n w) := by
  unfold State.heatChange
  dsimp only
  split
  · exact h.askHeat _
  · exact Acts.ite (h.giveUpGrant n) h
  · exact (h.withdraw n).enter n _
  · exact h

theorem Acts.lockingReport (h : Acts a s) (n : Fin 24) (v : View) : Acts a (s.lockingReport n v) := by
  unfold State.lockingReport
  split <;> first | with_reducible exact h | with_reducible exact h.enterRunning n | with_reducible exact (h.enterTold n _).showLasting _ _

theorem Acts.reportAct (h : Acts a s) (n : Fin 24) (w : Bool) (v : View) : Acts a (s.reportAct n w v) := by
  unfold State.reportAct
  split <;> first
    | with_reducible exact h
    | with_reducible exact h.lockingReport n v
    | with_reducible exact Acts.ite (Acts.ite (h.cycleEnd _ _ _ _) (h.heatChange n w)) h
    | with_reducible exact Acts.ite (h.confirmUnlock n) h
    | with_reducible exact Acts.ite (h.enterIdle n) h

theorem Acts.actOn (h : Acts a s) (n : Fin 24) (w : Bool) (b v : View) : Acts a (s.actOn n w b v) := by
  unfold State.actOn
  exact Acts.ite ((h.reportFaults n b v).reportAct n w v) (h.reportFaults n b v)

/-- What a report can do (R41). -/
theorem Acts.report (h : Acts a s) (n : Fin 24) (b v : View) : Acts a (s.report n b v) := by
  unfold State.report
  have k := (h.takeView n v).latchReport n v
  exact Acts.ite ((k.recover n).actOn n _ b v) (k.actOn n _ b v)

theorem Acts.stopPress (h : Acts a s) (n : Fin 24) : Acts a (s.stopPress n) := by
  unfold State.stopPress
  split <;> first | with_reducible exact h | with_reducible exact h.cycleEnd _ _ _ _

theorem Acts.startPress (h : Acts a s) (n : Fin 24) : Acts a (s.startPress n) := by
  unfold State.startPress
  refine Acts.ite h (Acts.ite (h.showBrief _ _ _) (Acts.ite (h.showBrief _ _ _) ?_))
  split
  · exact h
  · exact Acts.ite (h.enterTold n _) (h.showBrief _ _ _)

theorem Acts.busyPath (h : Acts a s) (n : Fin 24) (card : Nat) : Acts a (s.busyPath n card) := by
  unfold State.busyPath
  split
  · exact h
  · split
    · exact h.showBrief _ _ _
    · split
      · exact h.showBrief _ _ _
      · exact (h.join _ _).showBrief _ _ _

theorem Acts.ownTap (h : Acts a s) (n : Fin 24) (card : Nat) : Acts a (s.ownTap n card) := by
  unfold State.ownTap
  split <;> first
    | with_reducible exact h.topUpTap n card
    | with_reducible exact h.showBrief _ _ _
    | with_reducible exact Acts.ite (h.topUpTap n card) (h.showBrief _ _ _)

theorem Acts.tap (h : Acts a s) (n : Fin 24) (card : Nat) : Acts a (s.tap n card) := by
  unfold State.tap
  refine Acts.ite (h.showBrief _ _ _) ?_
  split <;> first
    | with_reducible exact h
    | with_reducible exact h.startTap n card
    | with_reducible exact h.showBrief _ _ _
    | with_reducible exact Acts.ite (h.startTap n card) (h.showBrief _ _ _)
    | with_reducible exact Acts.ite (h.ownTap n card) (h.busyPath n card)

/-- What a half's latched events can do (R42). -/
theorem Acts.takeEvents (h : Acts a s) (n : Fin 24) (r : HalfReply) : Acts a (s.takeEvents n r) := by
  unfold State.takeEvents
  have k := Acts.ite (c := r.stop = true) (h.stopPress n) h
  have m := Acts.ite (c := r.start = true) (k.startPress n) k
  exact Acts.ite (m.tap n _) m

theorem Acts.handReport (h : Acts a s) (t : Fin 16) (k : Half) (b : Option View) (v : View) :
    Acts a (s.handReport t k b v) := by
  unfold State.handReport; split
  · exact h.report _ _ _
  · exact h

theorem Acts.handEvents (h : Acts a s) (t : Fin 16) (k : Half) (r : HalfReply) : Acts a (s.handEvents t k r) := by
  unfold State.handEvents; split
  · exact h.takeEvents _ _
  · exact h

end Sys2Proof.Machine
end

