-- ==== Sys2Proof/Laws/Ports.lean ====
section
/-!
SUPPORT. What stands on a host port's line (R57, R185 to R187, R196), said once: a frame broken off, discarded or opened changes
its port alone, and a command that gives a frame changes its port alone or acts on such a state.
-/

namespace Sys2Proof.Machine

variable (s : State) (p : Port)

theorem setFrame_port (f : Option (Byte × List Byte)) : ∃ u, s.setFrame p f = s.setPort p u := ⟨_, rfl⟩

theorem discardFrame_port (a : Byte) : ∃ u, s.discardFrame p a = s.setPort p u := by
  unfold State.discardFrame
  split
  · exact ⟨_, (s.setPort_self p).symm⟩
  · exact ⟨_, rfl⟩
  all_goals split <;> exact ⟨_, rfl⟩

/-- A frame that ended, and was open or not, is discarded. -/
theorem frameDropped_port (f : Option (Byte × List Byte)) (a : Byte) :
    ∃ u, (s.setFrame p f).discardFrame p a = s.setPort p u := by
  obtain ⟨u, e⟩ := discardFrame_port (s.setFrame p f) p a
  exact ⟨u, by rw [e, State.setFrame, State.setPort_setPort]⟩

theorem breakOff_port : ∃ u, s.breakOff p = s.setPort p u := by
  unfold State.breakOff
  split
  · exact ⟨_, (s.setPort_self p).symm⟩
  · exact frameDropped_port s p _ _

theorem countOverrun_breakOff_port : ∃ u, (s.breakOff p).countOverrun p = s.setPort p u := by
  obtain ⟨u, e⟩ := breakOff_port s p
  exact ⟨_, by rw [e, State.countOverrun, State.modCounts, State.setPort_setPort]⟩

theorem leaveOpen_port (b : Bool) (f : Option (Byte × List Byte)) : ∃ u, s.leaveOpen p b f = s.setPort p u := by
  have self : ∃ u, s = s.setPort p u := ⟨_, (s.setPort_self p).symm⟩
  unfold State.leaveOpen
  split
  · exact self
  · split
    · exact ⟨_, rfl⟩
    · split
      · exact self
      · split
        · exact self
        · exact ⟨_, rfl⟩
        all_goals split <;> exact ⟨_, rfl⟩

/-- A command that gives a frame changes its port alone, or acts where its port alone has changed. -/
theorem frameArrives_cases (k : FrameClass) (act : State → State) :
    ∃ u, s.frameArrives p k act = s.setPort p u ∨ s.frameArrives p k act = act (s.setPort p u) := by
  unfold State.frameArrives
  split
  · exact ⟨_, .inl (s.setPort_self p).symm⟩
  · split
    · exact ⟨_, .inr rfl⟩
    · obtain ⟨u, e⟩ := breakOff_port s p
      obtain ⟨v, f⟩ := countOverrun_breakOff_port s p
      dsimp only
      split
      · exact ⟨u, .inl e⟩
      · split
        · exact ⟨v, .inl f⟩
        · exact ⟨u, .inr (by rw [e])⟩

/-- All that the end of a reply does about RESTARTs (R196). -/
theorem replyEnded_cases : s.replyEnded p = s ∨ s.replyEnded p = { s with life := .restartDue } ∨
    s.replyEnded p = { s with restart := s.restart.set p .ended } := by
  unfold State.replyEnded
  split
  · exact .inr (.inl rfl)
  · split
    · exact .inl rfl
    · split
      · exact .inr (.inr rfl)
      · exact .inr (.inl rfl)

/-! ### With no frame open -/

variable {s : State} {p : Port}

theorem breakOff_none (h : (s.port p).frame = none) : s.breakOff p = s := by simp only [State.breakOff, h]

theorem setFrame_none (h : (s.port p).frame = none) : s.setFrame p none = s := by
  unfold State.setFrame
  have : ({ s.port p with frame := none } : PortUnit) = s.port p := by rw [← h]
  rw [this, State.setPort_self]

theorem frameArrives_none (hh : s.hears p = true) (hf : (s.port p).frame = none) (k : FrameClass) (act : State → State) :
    s.frameArrives p k act = if s.portBusy p then s.countOverrun p else act s := by
  simp only [State.hears, Bool.and_eq_true, Bool.not_eq_true'] at hh
  simp [State.frameArrives, hh, State.frameIs, hf, breakOff_none hf]

end Sys2Proof.Machine
end

