-- ==== Sys2Proof/Laws/Keeps.lean ====
section
/-!
SUPPORT. What the commands' own operations keep, beyond the shared ones of Laws/Acts.lean: the outputs of R3, the event queue of
R198, the fault table of R142, the ranges of the clock (R172), and that nothing but a start-up begins a strap reading. One lemma
per operation, each continuing a chain of operations from a first state.
-/

namespace Sys2Proof.Machine

/-- From state `a` operations of a running part have led to state `s`. -/
structure Keeps (a s : State) : Prop where
  agree : a.outputsAgree → s.outputsAgree
  events : a.events.ok → s.events.ok
  faults : a.faults.ok → s.faults.ok
  clock : a.clock.ok → s.clock.ok
  strap : (∀ k, a.life ≠ .strap k) → ∀ k, s.life ≠ .strap k

variable {a s : State}

theorem Keeps.refl (a : State) : Keeps a a := ⟨id, id, id, id, id⟩

theorem Keeps.trans {b c : State} (h : Keeps a b) (k : Keeps b c) : Keeps a c :=
  ⟨k.agree ∘ h.agree, k.events ∘ h.events, k.faults ∘ h.faults, k.clock ∘ h.clock, k.strap ∘ h.strap⟩

theorem State.outside_clock {s t : State} (h : s.outside = t.outside) : s.clock = t.clock := by
  have := congrArg State.clock h; exact this
theorem State.outside_life {s t : State} (h : s.outside = t.outside) : s.life = t.life := by
  have := congrArg State.life h; exact this

theorem Acts.keeps (h : Acts a s) : Keeps a s :=
  ⟨h.agree, h.events, h.faults, fun k => (State.outside_clock h.outside) ▸ k, fun k => (State.outside_life h.outside) ▸ k⟩

/-- A shared operation continues a chain. -/
theorem Keeps.act {t : State} (h : Keeps a s) (k : Acts s t) : Keeps a t := h.trans k.keeps

theorem Keeps.ite {c : Prop} [Decidable c] {t u : State} (ht : Keeps a t) (hu : Keeps a u) :
    Keeps a (if c then t else u) := by
  split <;> assumption

/-- A change of fields that no law speaks of. -/
theorem Keeps.change {t : State} (h : Keeps a s) (hs : t.slots = s.slots) (he : t.events = s.events)
    (hf : t.faults = s.faults) (hc : t.clock = s.clock) (hl : t.life = s.life) : Keeps a t := by
  refine h.trans ⟨fun k n => ?_, fun k => he ▸ k, fun k => hf ▸ k, fun k => hc ▸ k, fun k => hl ▸ k⟩
  simpa only [State.slot, hs] using k n

theorem Keeps.setPort (h : Keeps a s) (p : Port) (u : PortUnit) : Keeps a (s.setPort p u) := by
  cases p <;> exact h.change rfl rfl rfl rfl rfl

theorem Keeps.setActivity (h : Keeps a s) (p : Port) (x : Activity) : Keeps a (s.setActivity p x) := h.setPort _ _
theorem Keeps.modCounts (h : Keeps a s) (p : Port) (f : PortCounts → PortCounts) : Keeps a (s.modCounts p f) := h.setPort _ _
theorem Keeps.answer (h : Keeps a s) (p : Port) (k : Nat) (r : Status) (b : ReplyBody) : Keeps a (s.answer p k r b) :=
  h.setPort _ _
theorem Keeps.modSettings (h : Keeps a s) (f : Settings → Settings) : Keeps a (s.modSettings f) :=
  h.change rfl rfl rfl rfl rfl
theorem Keeps.modScanner (h : Keeps a s) (f : Scanner → Scanner) : Keeps a (s.modScanner f) :=
  h.change rfl rfl rfl rfl rfl
theorem Keeps.setTerminal (h : Keeps a s) (t : Fin 16) (x : Terminal) : Keeps a (s.setTerminal t x) :=
  h.change rfl rfl rfl rfl rfl
theorem Keeps.modTerminal (h : Keeps a s) (t : Fin 16) (f : Terminal → Terminal) : Keeps a (s.modTerminal t f) :=
  h.setTerminal _ _
theorem Keeps.modHalf (h : Keeps a s) (t : Fin 16) (k : Half) (f : HalfEntry → HalfEntry) : Keeps a (s.modHalf t k f) :=
  h.setTerminal _ _
theorem Keeps.setBus (h : Keeps a s) (b : Bus) : Keeps a { s with bus := b } := h.change rfl rfl rfl rfl rfl
theorem Keeps.write (h : Keeps a s) (ws : List StoreWrite) : Keeps a (s.write ws) := h.change rfl rfl rfl rfl rfl
theorem Keeps.setRoom (h : Keeps a s) (r : Room) : Keeps a { s with room := r } := h.change rfl rfl rfl rfl rfl

theorem Keeps.setFaults (h : Keeps a s) (f : Faults) (hf : s.faults.ok → f.ok) : Keeps a { s with faults := f } :=
  h.act ((Acts.refl s).setFaults f hf)

/-- A slot whose outputs stay those of R3, whatever becomes of its configuration. -/
theorem Keeps.setSlot (h : Keeps a s) (n : Fin 24) (x : Slot) (ha : (s.slot n).agrees → x.agrees) :
    Keeps a (s.setSlot n x) := by
  refine h.trans ⟨fun k m => ?_, id, id, id, id⟩
  rw [State.slot_setSlot]; split
  · exact ha (k n)
  · exact k m

theorem Keeps.modSlot (h : Keeps a s) (n : Fin 24) (f : Slot → Slot)
    (hf : ∀ x, (f x).state = x.state ∧ (f x).outputs = x.outputs ∧ (f x).heatGrant = x.heatGrant) :
    Keeps a (s.modSlot n f) := by
  obtain ⟨h1, h2, h3⟩ := hf (s.slot n)
  refine h.setSlot n _ ?_
  unfold Slot.agrees
  rw [h1, h2, h3]
  exact id

theorem Keeps.modSense (h : Keeps a s) (n : Fin 24) (f : SlotSense → SlotSense) : Keeps a (s.modSense n f) :=
  h.modSlot n _ fun _ => ⟨rfl, rfl, rfl⟩

theorem Keeps.foldl {α : Type} {f : State → α → State} (hf : ∀ a s x, Keeps a s → Keeps a (f s x)) (l : List α)
    (s : State) (h : Keeps a s) : Keeps a (l.foldl f s) := by
  induction l generalizing s with
  | nil => exact h
  | cons x l ih => exact ih _ (hf _ _ _ h)

theorem Keeps.overSlots {f : Fin 24 → State → State} (h : Keeps a s) (hf : ∀ n a s, Keeps a s → Keeps a (f n s)) :
    Keeps a (overSlots f s) := Keeps.foldl (fun a s n => hf n a s) _ _ h

/-! ### The bus -/

theorem Keeps.miss (h : Keeps a s) (t : Fin 16) : Keeps a (s.miss t) := by
  unfold State.miss
  refine Keeps.ite h (Keeps.ite (h.modTerminal _ _) ?_)
  exact Keeps.act ((h.modTerminal _ _).modTerminal _ _) (((Acts.refl _).post _).loseSlots _)

theorem Keeps.missExchange (h : Keeps a s) : Keeps a s.missExchange := by
  unfold State.missExchange
  split
  · exact (h.miss _).setBus _
  · exact h
  · exact h

theorem Keeps.poll (h : Keeps a s) (b : Bus) (t : Fin 16) (k : PollKind) : Keeps a (s.poll b t k) :=
  (h.modTerminal _ _).setBus _

theorem Keeps.hearTerminal (h : Keeps a s) (t : Fin 16) : Keeps a (s.hearTerminal t) := by
  unfold State.hearTerminal
  have k := h.modTerminal t fun x => { x with misses := 0, presence := .present }
  refine Keeps.ite k (Keeps.ite ?_ ?_)
  · exact k.act (((Acts.refl _).post _).regainSlots t)
  · exact k.act ((Acts.refl _).post _)

theorem Keeps.goodReply (h : Keeps a s) (t : Fin 16) (r : TerminalReply) : Keeps a (s.goodReply t r) := by
  unfold State.goodReply
  have k : Keeps a ((s.hearTerminal t).takeReports t r) := by
    unfold State.takeReports
    exact ((h.hearTerminal t).modTerminal t _).act (((Acts.refl _).handReport _ _ _ _).handReport _ _ _ _)
  unfold State.takeTagged
  refine Keeps.ite k (Keeps.ite k ?_)
  exact (k.modTerminal t _).act (((Acts.refl _).handEvents _ _ _).handEvents _ _ _)

/-! ### Time at the slots -/

theorem Acts.counted (h : Acts a s) (n : Fin 24) (k : Kind) : Acts a (s.modSlot n (Slot.counted k)) := by
  refine h.modSlot n _ fun x => ?_
  unfold Slot.counted
  split <;> exact ⟨rfl, rfl, rfl, rfl⟩

theorem Acts.slotSecond (h : Acts a s) (n : Fin 24) : Acts a (s.slotSecond n) := by
  unfold State.slotSecond
  have k := h.counted n (s.kind n)
  have m := Acts.ite (c := ((s.modSlot n (Slot.counted (s.kind n))).slot n).run = (s.slot n).run) k (k.storeRun n)
  exact Acts.ite h (Acts.ite (m.pointA n) ((m.pointA n).showLasting n _))

theorem Keeps.runSecond (h : Keeps a s) : Keeps a
    (let s := Machine.overSlots (fun n s => s.slotSecond n) { s with elapsed := s.elapsed + 1 }
     if s.room.state = .openRoom then s.waitSecond else s) := by
  have k : Keeps a { s with elapsed := s.elapsed + 1 } := h.change rfl rfl rfl rfl rfl
  have m := k.act ((Acts.refl _).overSlots fun n _ _ k => k.slotSecond n)
  exact Keeps.ite (m.act (Acts.waitSecond (Acts.refl _))) m

theorem Acts.reload (h : Acts a s) (n : Fin 24) : Acts a (s.reload n) :=
  h.modSlot n (fun x => { x with remaining := x.topUp * 60, topUp := 0 }) fun _ => ⟨rfl, rfl, rfl, rfl⟩

theorem Acts.coolDown (h : Acts a s) (n : Fin 24) : Acts a (s.coolDown n) := by
  unfold State.coolDown
  refine Acts.dropHeat ?_ n
  refine h.modSlot n _ ?_
  exact fun _ => ⟨rfl, rfl, rfl, rfl⟩

/-! ### Sensing -/

theorem Acts.modSense (h : Acts a s) (n : Fin 24) (f : SlotSense → SlotSense) : Acts a (s.modSense n f) :=
  h.modSlot n _ fun _ => ⟨rfl, rfl, rfl, rfl⟩

theorem Keeps.startNext (h : Keeps a s) : Keeps a s.startNext := by
  unfold State.startNext
  split
  · exact h
  · exact h.modScanner _
  · dsimp only
    split
    · exact (h.modScanner _).modSense _ _
    · exact h.modScanner _
  · exact h

theorem Keeps.clearMarks (h : Keeps a s) : Keeps a s.clearMarks := h.overSlots fun n _ _ k => k.modSense n _

theorem Keeps.markScan (h : Keeps a s) : Keeps a s.markScan := h.overSlots fun n _ _ k => k.modSense n _

theorem Keeps.beginScan (h : Keeps a s) : Keeps a s.beginScan := by
  unfold State.beginScan
  exact (h.markScan.modScanner _).startNext

theorem Keeps.holdResult (h : Keeps a s) (n : Fin 24) (c : Nat) : Keeps a (s.holdResult n c) := by
  unfold State.holdResult; exact h.modScanner _
theorem Keeps.holdFeed (h : Keeps a s) (c : Nat) : Keeps a (s.holdFeed c) := by
  unfold State.holdFeed; exact h.modScanner _

theorem Acts.endCondition (h : Acts a s) (n : Fin 24) (t : SenseTest) : Acts a (s.endCondition n t) := by
  unfold State.endCondition
  exact Acts.ite ((h.modSense n _).latch _ _) h

theorem Acts.strikeTrue (h : Acts a s) (n : Fin 24) (t : SenseTest) : Acts a (s.strikeTrue n t) := by
  unfold State.strikeTrue
  exact Acts.ite ((h.modSense n _).raise _ _ _) (h.modSense n _)

theorem Acts.strikeTest (h : Acts a s) (n : Fin 24) (w : Nat) (t : SenseTest) : Acts a (s.strikeTest n w t) := by
  unfold State.strikeTest
  exact Acts.ite (h.strikeTrue n t) ((h.modSense n _).endCondition n t)

theorem Acts.strikeTests (h : Acts a s) (r : ScanResult) : Acts a (s.strikeTests r) := by
  unfold State.strikeTests
  refine Acts.ite h ?_
  have k := Acts.foldl (a := a) (fun _ _ t k => k.strikeTest r.slot r.watts t) SenseTest.all s h
  refine k.modSlot _ _ ?_
  exact fun _ => ⟨rfl, rfl, rfl, rfl⟩

theorem Acts.endedTests (h : Acts a s) (r : ScanResult) : Acts a (s.endedTests r) := by
  unfold State.endedTests
  exact Acts.ite h (Acts.foldl (fun _ _ t k => Acts.ite k (k.endCondition r.slot t)) _ _ h)

theorem Acts.takeDraws (h : Acts a s) (rs : List ScanResult) : Acts a (s.takeDraws rs) :=
  Acts.foldl (fun _ _ r k => k.modSense r.slot _) _ _ h

theorem Acts.feedOver (h : Acts a s) (feed : Nat) : Acts a (s.feedOver feed) := by
  unfold State.feedOver
  exact Acts.ite (Acts.ite (Acts.ite ((h.modGov _).raise _ _ _) (h.modGov _)) (h.modGov _))
    (Acts.ite ((h.modGov _).latch _ _) (h.modGov _))

theorem Acts.takeFigures (h : Acts a s) (rs : List ScanResult) : Acts a (s.takeFigures rs) :=
  ((h.modGov _).reckon _ _ _).feedOver _

theorem Keeps.validScan (h : Keeps a s) : Keeps a s.validScan := by
  unfold State.validScan
  have k : Keeps a (if s.scanner.refFault then
      (s.modScanner fun c => { c with refFault := false }).latch none .senseReference else s) :=
    Keeps.ite ((h.modScanner _).act ((Acts.refl _).latch _ _)) h
  have l := k.modScanner fun c => { c with valid := true, feedWatts := c.feed }
  exact l.act (Acts.foldl (fun _ _ r k => k.strikeTests r) _ _
    (Acts.foldl (fun _ _ r k => k.endedTests r) _ _ (((Acts.refl _).takeDraws _).takeFigures _)))

theorem Keeps.invalidScan (h : Keeps a s) : Keeps a s.invalidScan := by
  unfold State.invalidScan
  exact Keeps.ite (h.modScanner _) (((h.modScanner _).modScanner _).act ((Acts.refl _).raise _ _ _))

theorem Keeps.endScan (h : Keeps a s) (c : Nat) : Keeps a (s.endScan c) := by
  unfold State.endScan
  have k := h.modScanner fun c => { c with converter := none, active := false, ended := c.number }
  have m := Keeps.ite (c := referenceValid c = true) k.validScan k.invalidScan
  exact (m.clearMarks.modScanner _).startNext

theorem Keeps.answerSense (h : Keeps a s) (p : Port) (i c : Nat) : Keeps a (s.answerSense p i c) :=
  (h.modScanner _).setActivity _ _

/-! ### The room and the clock -/

/-- The room's entry to SUSPENDED, up to its timer, and what follows (R179, R181). -/
theorem suspend_acts (s : State) : ∃ t : State, Acts s t ∧ ∃ u : State, Acts u s.suspend ∧
    u = if s.room.state != .held then
      { t with room := { t.room with timer := .running (s.elapsed + s.settings.room.limit * 60) } } else t := by
  refine ⟨s.changeRoom .suspended .interlockActive, (Acts.refl s).changeRoom _ _, _, ?_, rfl⟩
  have e := ((Acts.refl s).changeRoom .suspended .interlockActive).outside
  have e1 : (s.changeRoom .suspended .interlockActive).elapsed = s.elapsed := by
    have := congrArg State.elapsed e; exact this
  have e2 : (s.changeRoom .suspended .interlockActive).settings = s.settings := by
    have := congrArg State.settings e; exact this
  unfold State.suspend
  rw [← e1, ← e2]
  exact (Acts.refl _).clearGovernor.overSlots fun n _ _ m => m.suspendSlot n

theorem Keeps.suspend (h : Keeps a s) : Keeps a s.suspend := by
  obtain ⟨t, ht, u, hu, rfl⟩ := suspend_acts s
  exact (Keeps.ite ((h.act ht).setRoom _) (h.act ht)).act hu

theorem suspensionLimit_acts (s : State) :
    Acts { s with room := { s.room with timer := .reached } } s.suspensionLimit :=
  (Acts.refl _).overSlots fun n _ _ k => k.limitSlot n

theorem Keeps.suspensionLimit (h : Keeps a s) : Keeps a s.suspensionLimit := (h.setRoom _).act (suspensionLimit_acts s)

theorem resumeRoom_acts (s : State) : Acts { s with room := { s.room with timer := .idle } } s.resumeRoom := by
  unfold State.resumeRoom
  have k := ((Acts.refl { s with room := { s.room with timer := .idle } }).changeRoom ({ s with room := { s.room with timer := .idle } } : State).modeState
    .resume).resumeSlots
  exact Acts.ite k.openDisplays k.clearWaitlist

theorem Keeps.resumeRoom (h : Keeps a s) : Keeps a s.resumeRoom := (h.setRoom _).act (resumeRoom_acts s)

theorem Clock.tick_ok {c : Clock} (h : c.ok) : c.tick.ok := by
  unfold Clock.tick Clock.ok at *
  split
  · exact ⟨‹_›, h.2⟩
  · exact ⟨Nat.zero_lt_succ _, Nat.mod_lt _ (by decide)⟩

theorem Keeps.interlockOn (h : Keeps a s) : Keeps a s.interlockOn := by
  unfold State.interlockOn
  exact Keeps.ite (h.setRoom _) (h.setRoom _).suspend

theorem Keeps.interlockOff (h : Keeps a s) : Keeps a s.interlockOff := by
  unfold State.interlockOff
  exact Keeps.ite ((h.setRoom _).act ((Acts.refl _).changeRoom _ _)) (h.setRoom _)

theorem Keeps.setClock (h : Keeps a s) (d c : Nat) (hok : clockOk d c = true) : Keeps a (s.setClock d c) := by
  unfold State.setClock
  simp only [clockOk, Bool.and_eq_true, decide_eq_true_eq] at hok
  have k : Keeps a { s with clock := ⟨c, d, true⟩ } := h.trans ⟨id, id, id, fun _ => ⟨hok.2, hok.1⟩, id⟩
  exact Keeps.ite (k.act ((Acts.refl _).followMode _)) k

/-! ### The ports -/

theorem Keeps.portStored (h : Keeps a s) (p : Port) : Keeps a (s.portStored p) := by
  unfold State.portStored
  exact Keeps.ite ((h.setActivity p _).change rfl rfl rfl rfl rfl) (h.setActivity p _)

theorem Keeps.writeDone (h : Keeps a s) : Keeps a s.writeDone := by
  unfold State.writeDone
  split
  · exact h
  · refine Keeps.portStored (Keeps.portStored ?_ _) _
    exact h.change rfl rfl rfl rfl rfl

theorem Keeps.replyEnded (h : Keeps a s) (p : Port) : Keeps a (s.replyEnded p) := by
  rcases replyEnded_cases s p with e | e | e <;> rw [e]
  · exact h
  · exact h.trans ⟨id, id, id, id, fun _ _ => by simp⟩
  · exact h.change rfl rfl rfl rfl rfl

/-- What changes a port alone. -/
theorem Keeps.port {t : State} (h : Keeps a s) {p : Port} (k : ∃ u, t = s.setPort p u) : Keeps a t := by
  obtain ⟨u, rfl⟩ := k
  exact h.setPort p u

/-- A command that gives a frame keeps what its own rule keeps. -/
theorem Keeps.frameArrives (h : Keeps a s) (p : Port) (k : FrameClass) (f : State → State)
    (hf : ∀ t, Keeps a t → Keeps a (f t)) : Keeps a (s.frameArrives p k f) := by
  obtain ⟨u, e | e⟩ := frameArrives_cases s p k f <;> rw [e]
  · exact h.setPort p u
  · exact hf _ (h.setPort p u)

theorem Keeps.setBudget (h : Keeps a s) (w : Nat) : Keeps a (s.setBudget w) := by
  unfold State.setBudget
  refine Keeps.act (Keeps.write ?_ _) ((Acts.refl _).reckon _ _ _)
  exact h.change rfl rfl rfl rfl rfl

theorem Keeps.finish {x : Answer} (h : Keeps a x.state) (p : Port) (k w : Nat) : Keeps a (x.finish p k w) := by
  unfold Answer.finish
  exact Keeps.ite (h.answer _ _ _ _) ((h.setActivity _ _).change rfl rfl rfl rfl rfl)

theorem Keeps.take {α : Type} (h : Keeps a s) (p : Port) (k : Nat) (e : Except Status α) (go : α → State → State)
    (hg : ∀ x t, Keeps a t → Keeps a (go x t)) : Keeps a (s.take p k e go) := by
  refine h.frameArrives p _ _ fun t h => ?_
  have m : Keeps a (t.countTaken p) := h.modCounts _ _
  refine Keeps.ite (m.answer _ _ _ _) ?_
  split
  · exact m.answer _ _ _ _
  · exact Keeps.ite (m.answer _ _ _ _) (hg _ _ m)

/-- A request keeps what its own rule keeps. -/
theorem Keeps.request {α : Type} (h : Keeps a s) (p : Port) (k : Nat) (e : Except Status α) (act : α → State → Answer)
    (ha : ∀ x t, Keeps a t → Keeps a (act x t).state) : Keeps a (s.request p k e act) :=
  h.take p k e _ fun x t m => Keeps.finish (ha x t m) p k _

/-! ### The requests' own rules -/

theorem Keeps.readEvents (h : Keeps a s) (n : Nat) : Keeps a (s.readEvents n).state :=
  h.trans ⟨id, fun k => EventQueue.drop_ok n k, id, id, id⟩

theorem Keeps.askConversion (h : Keeps a s) (p : Port) (i : Nat) : Keeps a (s.askConversion p i) :=
  ((h.setActivity _ _).modScanner _).startNext

theorem Keeps.rephase (h : Keeps a s) (c : Fin 4) (k : Kind) : Keeps a (s.rephase c k) := by
  unfold State.rephase
  exact h.overSlots fun n _ _ k => Keeps.ite (k.modSlot n _ fun _ => ⟨rfl, rfl, rfl⟩) k

theorem Keeps.classSet (h : Keeps a s) (f : Nat × Nat × Nat × Nat) : Keeps a (s.classSet f).state := by
  unfold State.classSet
  split
  · split
    · exact h
    · split
      · exact h
      · exact ((h.rephase _ _).modSettings _).write _
  · exact h

theorem Keeps.priceEntrySet (h : Keeps a s) (c b : Nat) (e : PriceEntry) : Keeps a (s.priceEntrySet c b e).state := by
  unfold State.priceEntrySet
  split
  · split
    · exact h
    · exact (h.modSettings _).write _
  · exact h

theorem Keeps.priceGeneralSet (h : Keeps a s) (f : Nat × Nat × Nat × Nat) : Keeps a (s.priceGeneralSet f).state := by
  unfold State.priceGeneralSet
  split
  · exact h
  · exact (h.modSettings _).write _

theorem Keeps.leaveHalf (h : Keeps a s) (o : Option SlotCfg) (m : Option (Fin 16 × Half)) : Keeps a (s.leaveHalf o m) := by
  unfold State.leaveHalf
  split
  · exact Keeps.ite h (h.modHalf _ _ _)
  · exact h

theorem Keeps.removeClass (h : Keeps a s) (n : Fin 24) : Keeps a (s.removeClass n) := by
  unfold State.removeClass
  dsimp only
  have k : Keeps a (((s.latchAll n).modSlot n fun x => { x with cfg := none, causes := .empty, run := 0, phase := .none }).write
      [.slot n none, .causes n none]) :=
    ((h.act ((Acts.refl _).latchAll n)).modSlot n (fun x => { x with cfg := none, causes := .empty, run := 0, phase := .none })
      fun _ => ⟨rfl, rfl, rfl⟩).write _
  refine (Keeps.modSlot (Keeps.ite (k.act ((Acts.refl _).enterTold n _)) k) n _ ?_).leaveHalf _ _
  exact fun _ => ⟨rfl, rfl, rfl⟩

theorem Keeps.followTerminal (h : Keeps a s) (n : Fin 24) (t : Fin 16) : Keeps a (s.followTerminal n t) := by
  unfold State.followTerminal
  exact Keeps.ite (h.act ((Acts.refl _).raise _ _ _)) (Keeps.ite (h.act ((Acts.refl _).regainSlot n)) h)

theorem Acts.showMoved (h : Acts a s) (n : Fin 24) : Acts a (s.showMoved n) := h.showLasting n _

theorem Keeps.assignClass (h : Keeps a s) (n : Fin 24) (c : SlotCfg) : Keeps a (s.assignClass n c) := by
  unfold State.assignClass
  dsimp only
  generalize phaseFor (s.cls c.cls).kind ((s.slot n).cfg.map fun o => (s.cls o.cls).kind) = f
  have k := ((Keeps.modSlot h n (fun x => { x with cfg := some c, phase := f x.phase }) fun _ => ⟨rfl, rfl, rfl⟩).leaveHalf
    (s.slot n).cfg (some (c.term, c.half))).write [.slot n (some c)]
  generalize ((s.modSlot n _).leaveHalf _ _).write _ = u at *
  refine Keeps.act ?_ ((Acts.refl _).reckon _ _ _)
  cases (s.slot n).cfg with
  | none => exact (k.act ((Acts.refl _).enterIdle n)).followTerminal n _
  | some o =>
    dsimp only
    have k1 := Keeps.ite (c := (!(o.term == c.term && o.half == c.half)) = true) (k.act ((Acts.refl _).showMoved n)) k
    generalize (if (!(o.term == c.term && o.half == c.half)) = true then u.showMoved n else u) = v at *
    have k2 := Keeps.ite (c := o.cls ≠ c.cls ∧ (v.slot n).state = .idle) (k1.act ((Acts.refl _).offer n)) k1
    exact Keeps.ite (k2.followTerminal n _) k2

theorem Keeps.slotSet (h : Keeps a s) (f : Nat × Nat × Nat × Nat) : Keeps a (s.slotSet f).state := by
  unfold State.slotSet
  split
  · exact h
  · split
    · split
      · exact h.removeClass _
      · exact h
    · split
      · exact h
      · split
        · exact h
        · split
          · split
            · exact h
            · dsimp only [State.ok]; exact h.assignClass _ _
          · exact h

theorem Keeps.terminalSet (h : Keeps a s) (t : Fin 16) (m : TermMode) : Keeps a (s.terminalSet t m).state := by
  unfold State.terminalSet
  split
  · exact h
  · split
    · exact h
    · split
      · exact h
      · exact (h.modTerminal _ _).write _

theorem Keeps.governorGeneralSet (h : Keeps a s) (f : Nat × Nat) : Keeps a (s.governorGeneralSet f).state := by
  unfold State.governorGeneralSet
  split
  · exact h
  · dsimp only [State.ok]
    exact ((h.modSettings _).write _).act ((Acts.refl _).reckon _ _ _)

theorem Keeps.governorClassSet (h : Keeps a s) (f : Nat × GovClass) : Keeps a (s.governorClassSet f).state := by
  unfold State.governorClassSet
  split
  · exact h
  · split
    · exact h
    · split
      · exact h
      · dsimp only [State.ok]
        exact Keeps.ite (((h.modSettings _).write _).overSlots fun n _ _ k => Keeps.ite (k.modSense n _) k)
          ((h.modSettings _).write _)

theorem Keeps.senseInputSet (h : Keeps a s) (f : Nat × Calibration) : Keeps a (s.senseInputSet f).state := by
  unfold State.senseInputSet
  split
  · split
    · exact h
    · split
      · exact h
      · dsimp only [State.ok]
        split
        · exact ((h.modSettings _).write _).modSense _ _
        · exact (h.modSettings _).write _
  · exact h

theorem Keeps.senseGeneralSet (h : Keeps a s) (v : Nat) : Keeps a (s.senseGeneralSet v).state := by
  unfold State.senseGeneralSet
  split
  · exact h
  · split
    · exact h
    · dsimp only [State.ok]
      exact ((h.modSettings _).write _).overSlots fun n _ _ k => k.modSense n _

theorem Keeps.roomSet (h : Keeps a s) (f : Nat × Nat × Nat × Nat × Nat × Nat) : Keeps a (s.roomSet f).state := by
  unfold State.roomSet
  dsimp only
  split
  · exact h
  · dsimp only [State.ok]
    exact ((h.modSettings _).write _).act ((Acts.refl _).followMode _)

theorem Keeps.roomMode (h : Keeps a s) (m : Mode) : Keeps a (s.roomMode m).state := by
  unfold State.roomMode
  split
  · exact h
  · dsimp only [State.ok]
    exact ((h.modSettings _).write _).act ((Acts.refl _).followMode _)

theorem Keeps.cardLost (h : Keeps a s) (c : Nat) : Keeps a (s.cardLost c) := by
  unfold State.cardLost
  exact Keeps.ite h (h.act ((Acts.refl _).losePlaces c))

theorem Keeps.putAccount (h : Keeps a s) (i : Nat) (x : Account) : Keeps a (s.putAccount i x) :=
  h.change rfl rfl rfl rfl rfl

theorem Keeps.accountPut (h : Keeps a s) (f : Nat × Nat × Nat × Nat × Nat) : Keeps a (s.accountPut f).state := by
  unfold State.accountPut
  dsimp only
  split
  · split
    · exact h
    · split
      · exact h
      · split
        · exact h
        · exact (h.putAccount _ _).cardLost _
  · exact h

theorem Keeps.accountCredit (h : Keeps a s) (i m : Nat) : Keeps a (s.accountCredit i m).state := by
  unfold State.accountCredit
  split
  · exact h
  · split
    · exact h
    · split
      · exact h
      · exact h.putAccount _ _

theorem Keeps.accountState (h : Keeps a s) (i c : Nat) : Keeps a (s.accountState i c).state := by
  unfold State.accountState
  split
  · split
    · exact h
    · split
      · exact h
      · exact Keeps.ite ((h.putAccount _ _).cardLost _) (h.putAccount _ _)
  · exact h

theorem Keeps.accountRemove (h : Keeps a s) (i : Nat) : Keeps a (s.accountRemove i).state := by
  unfold State.accountRemove
  dsimp only
  split
  · exact h
  · split
    · exact h
    · split
      · exact h
      · exact (h.putAccount _ _).cardLost _

theorem Keeps.accountRead (h : Keeps a s) (i : Nat) : Keeps a (s.accountRead i).state := by
  unfold State.accountRead
  split
  · exact h
  · exact Keeps.ite h (h.act ((Acts.refl _).rollAccount i))

theorem Keeps.settlementRelease (h : Keeps a s) (k : Nat) : Keeps a (s.settlementRelease k).state := by
  unfold State.settlementRelease
  dsimp only
  split
  · exact h
  · exact h.change rfl rfl rfl rfl rfl

theorem Keeps.serviceTake (h : Keeps a s) (p : Port) (n : Fin 24) (f : Bool) : Keeps a (s.serviceTake p n f).state := by
  unfold State.serviceTake
  dsimp only
  split
  · exact h
  · split
    · exact h
    · split
      · exact h
      · have k := Keeps.ite (c := (s.slot n).state.busy = true)
          (h.act ((Acts.refl s).cycleEnd n .abandoned none .faulted)) h
        exact k.act ((Acts.refl _).joinCause n _)

theorem Keeps.serviceReturn (h : Keeps a s) (p : Port) (n : Fin 24) : Keeps a (s.serviceReturn p n).state := by
  unfold State.serviceReturn
  split
  · exact h
  · exact h.act ((Acts.refl _).removeCause n _)

theorem Keeps.slotStop (h : Keeps a s) (n : Fin 24) : Keeps a (s.slotStop n).state := by
  unfold State.slotStop
  split
  · exact h.act ((Acts.refl _).cycleEnd n _ _ _)
  · exact h

theorem Keeps.clearTaken (h : Keeps a s) (p : Port) (src : Option (Fin 24)) (c : FaultCode) (e : Option FaultEntry) :
    Keeps a (s.clearTaken p src c e).state := by
  unfold State.clearTaken
  cases src with
  | none => exact h.act ((Acts.refl _).post _)
  | some n => exact h.act (((Acts.refl _).post _).releaseLockout n)

theorem Keeps.faultClear (h : Keeps a s) (p : Port) (src : Option (Fin 24)) (c : FaultCode) :
    Keeps a (s.faultClear p src c).state := by
  unfold State.faultClear
  split
  · split
    · exact h.clearTaken _ _ _ _
    · exact h
  · split
    · exact h
    · split
      · exact h
      · exact (h.setFaults _ fun k => Faults.close_ok _ _ _ (Faults.remove_ok _ _ k)).clearTaken _ _ _ _

theorem Keeps.waitlistRemove (h : Keeps a s) (c : Fin 4) (k : Nat) : Keeps a (s.waitlistRemove c k).state := by
  unfold State.waitlistRemove
  split
  · exact h.act ((Acts.refl _).setQueue c _)
  · split
    · exact h.act ((Acts.refl _).handOn _)
    · exact h

/-! ### Start-up -/

/-- A start-up in which nothing has been built yet: no fault entry (R142, R205). -/
theorem suspectRecord_faults (s : State) (r : RecordId)
    (h : s.faults.table = [] ∨ ∃ e, s.faults.table = [e] ∧ e.hasKey none .storeIntegrity = true ∧ 1 ≤ e.occurrences ∧
      e.occurrences ≤ 255) :
    (∃ e, (s.suspectRecord r).faults.table = [e] ∧ e.hasKey none .storeIntegrity = true ∧ 1 ≤ e.occurrences ∧
      e.occurrences ≤ 255) ∧ (s.suspectRecord r).faults.history = s.faults.history ∧
      (s.suspectRecord r).faults.next = s.faults.next := by
  rcases h with h | ⟨e, h, k, l, m⟩
  · refine ⟨⟨{ FaultEntry.new none .storeIntegrity none s.clock with condition := .latched }, ?_⟩, ?_⟩ <;>
      simp [State.suspectRecord, Faults.enter, Faults.find, h, Faults.latch, FaultEntry.new, FaultEntry.hasKey]
  · refine ⟨⟨{ e.again none s.clock with condition := .latched }, ?_⟩, ?_⟩ <;>
      simp [State.suspectRecord, Faults.enter, Faults.find, h, Faults.latch, FaultEntry.again, FaultEntry.hasKey,
        FaultEntry.hasKey_iff.1 k]

/-- The table that the store check leaves: at most the entry of DEVICE's STORE_INTEGRITY. -/
structure Checked (f : Faults) : Prop where
  table : f.table = [] ∨ ∃ e, f.table = [e] ∧ e.hasKey none .storeIntegrity = true ∧ 1 ≤ e.occurrences ∧
    e.occurrences ≤ 255
  history : f.history = []
  next : f.next = 0

theorem suspects_checked (rs : List RecordId) (s : State) (h : Checked s.faults) :
    Checked (rs.foldl State.suspectRecord s).faults := by
  induction rs generalizing s with
  | nil => exact h
  | cons r rs ih =>
    obtain ⟨x, y, z⟩ := suspectRecord_faults s r h.table
    exact ih _ ⟨.inr x, y.trans h.history, z.trans h.next⟩

theorem suspects_events (rs : List RecordId) (s : State) (h : s.events.ok) :
    (rs.foldl State.suspectRecord s).events.ok := by
  induction rs generalizing s with
  | nil => exact h
  | cons r rs ih => exact ih _ (State.post_ok (s := { s with faults := _ }) _ h)

theorem suspects_rest (rs : List RecordId) (s : State) :
    (rs.foldl State.suspectRecord s).clock = s.clock ∧ (rs.foldl State.suspectRecord s).store = s.store := by
  induction rs generalizing s with
  | nil => exact ⟨rfl, rfl⟩
  | cons r rs ih =>
    obtain ⟨x, y⟩ := ih (s.suspectRecord r)
    refine ⟨x.trans ?_, y.trans ?_⟩ <;> simp [State.suspectRecord]

/-- The RESTORED_LOCKOUT entries, one for each of the listed slots, join a table that has none (R157). -/
theorem restored_ok (s : State) (f : Faults) (h : Checked f) (ns : List (Fin 24)) (hn : ns.Nodup) :
    Faults.ok { f with table := f.table ++ ns.map s.restoredLockout } := by
  have hl : ns.length ≤ 24 := by simpa using hn.length_le_card
  have hd : ((ns.map s.restoredLockout).map fun e => (e.source, e.code)).Nodup := by
    rw [List.map_map]
    exact hn.map fun a b k => by simpa [State.restoredLockout] using k
  obtain ⟨ht, hh, hx⟩ := h
  refine ⟨?_, ?_, ?_, by simp [hh], by simp [hx]⟩
  · rcases ht with ht | ⟨e, ht, -⟩ <;> simp [ht] <;> omega
  · rcases ht with ht | ⟨e, ht, hk, -⟩
    · simpa [ht] using hd
    · simp only [ht, List.map_cons, List.singleton_append, List.nodup_cons]
      refine ⟨?_, hd⟩
      obtain ⟨h1, h2⟩ := FaultEntry.hasKey_iff.1 hk
      simp [h1, State.restoredLockout]
  · intro e he
    rcases List.mem_append.1 he with he | he
    · rcases ht with ht | ⟨x, ht, -, ho⟩
      · simp [ht] at he
      · rw [ht, List.mem_singleton] at he; exact he ▸ ho
    · obtain ⟨n, -, rfl⟩ := List.mem_map.1 he
      exact ⟨Nat.le_refl _, by simp [State.restoredLockout]⟩

theorem posts_faults (l : List (Fin 24)) (s : State) :
    (l.foldl (fun s n => s.post (.storeSuspect 1 n.val)) s).faults = s.faults := by
  induction l generalizing s with
  | nil => rfl
  | cons x l ih => exact (ih _).trans (by simp)

theorem posts_events (l : List (Fin 24)) (s : State) (h : s.events.ok) :
    (l.foldl (fun s n => s.post (.storeSuspect 1 n.val)) s).events.ok := by
  induction l generalizing s with
  | nil => exact h
  | cons x l ih => exact ih _ (State.post_ok _ h)

theorem posts_clock (l : List (Fin 24)) (s : State) :
    (l.foldl (fun s n => s.post (.storeSuspect 1 n.val)) s).clock = s.clock := by
  induction l generalizing s with
  | nil => rfl
  | cons x l ih => exact (ih _).trans (by simp)

theorem checkStore_keeps (s : State) (l : List RecordId) (hf : Checked s.faults) (he : s.events.ok) :
    Checked (s.checkStore l).faults ∧ (s.checkStore l).events.ok ∧ (s.checkStore l).clock = s.clock := by
  unfold State.checkStore
  refine ⟨?_, ?_, ?_⟩
  · dsimp only
    rw [posts_faults]
    exact suspects_checked _ _ hf
  · dsimp only
    exact posts_events _ _ (suspects_events _ _ he)
  · dsimp only
    rw [posts_clock, (suspects_rest _ _).1]

/-- Stage 3 of start-up (R157). -/
theorem eraseCauses_keeps (v : State) (h : Checked v.faults) :
    v.eraseCauses.faults.ok ∧ v.eraseCauses.events = v.events ∧ v.eraseCauses.clock = v.clock := by
  unfold State.eraseCauses
  exact ⟨restored_ok v v.faults h _ ((List.nodup_finRange 24).filter _), rfl, rfl⟩

/-- Stage 4 of start-up (R209). -/
theorem startSlots_keeps (w : State) :
    w.startSlots.outputsAgree ∧ w.startSlots.events = w.events ∧ w.startSlots.faults = w.faults ∧
      w.startSlots.clock = w.clock := by
  unfold State.startSlots State.modGov
  dsimp only
  refine ⟨fun n => ?_, rfl, rfl, rfl⟩
  simp [State.slot, Slot.agrees, State.startSlot, Slot.start]

/-- The last stage of start-up (R183). -/
theorem startRoom_keeps (u : State) (b : Bool) :
    Keeps u (u.startRoom b) ∧ (u.startRoom b).clock = u.clock := by
  have k : Keeps u { u with
      room := ⟨u.modeState, false, .idle⟩,
      terminals := Vector.ofFn fun t => .start ((u.store.terminals[t]).getD .single)
        (({ u with room := ⟨u.modeState, false, .idle⟩ } : State).startDisplay t .a)
        (({ u with room := ⟨u.modeState, false, .idle⟩ } : State).startDisplay t .b),
      bus := .start u.modeState.display.isSome } := (Keeps.refl u).change rfl rfl rfl rfl rfl
  have m := k.act ((Acts.refl _).post (.roomState u.modeState u.modeState u.settings.room.mode false .startUp))
  unfold State.startRoom
  constructor
  · exact Keeps.ite (m.setRoom _).suspend m
  · dsimp only
    split
    · obtain ⟨t, ht, u, hu, rfl⟩ := suspend_acts _
      rw [State.outside_clock hu.outside]
      split <;> exact (State.outside_clock ht.outside).trans (by simp)
    · simp

/-- What the stages after the strap reading leave (R205 to R209). -/
theorem startStages_keeps (s : State) (i : StartInput) (hf : Checked s.faults) (he : s.events.ok) :
    (s.startStages i).outputsAgree ∧ (s.startStages i).events.ok ∧ (s.startStages i).faults.ok ∧
      (s.startStages i).clock = s.clock ∧ (s.startStages i).life = .running := by
  obtain ⟨h1, h2, h3⟩ := checkStore_keeps s i.failed hf he
  obtain ⟨g1, g2, g3⟩ := eraseCauses_keeps _ h1
  obtain ⟨k1, k2, k3, k4⟩ := startSlots_keeps (s.checkStore i.failed).eraseCauses
  obtain ⟨x, y⟩ := startRoom_keeps (s.checkStore i.failed).eraseCauses.startSlots i.interlock
  unfold State.startStages
  refine ⟨x.agree k1, x.events ?_, x.faults ?_, ?_, rfl⟩
  · rw [k2, g2]; exact h2
  · rw [k3]; exact g1
  · rw [← h3, ← g3, ← k4, ← y]

end Sys2Proof.Machine
end

