-- ==== Sys2Proof/Laws/Heat.lean ====
section
/-!
SUPPORT. The heat requests and the holds against the slots' states (R18, R72, R109): what each shared operation does to the law
that a slot's heat grant flag, its request and its state agree, and that it is busy exactly while it holds a hold.
-/

namespace Sys2Proof.Machine

variable {a s : State}

/-! ### Operations that neither law looks at -/

/-- From `a` to `s` no slot's state or grant flag, no heat request and no hold entry's being full has changed. -/
structure Quiet (a s : State) : Prop where
  state : ∀ n, (s.slot n).state = (a.slot n).state
  flag : ∀ n, (s.slot n).heatGrant = (a.slot n).heatGrant
  granted : s.granted = a.granted
  waiting : s.waiting = a.waiting
  hold : ∀ n, (s.hold n).isSome = (a.hold n).isSome

theorem Quiet.refl (a : State) : Quiet a a := ⟨fun _ => rfl, fun _ => rfl, rfl, rfl, fun _ => rfl⟩

theorem Quiet.trans {b c : State} (h : Quiet a b) (k : Quiet b c) : Quiet a c :=
  ⟨fun n => (k.state n).trans (h.state n), fun n => (k.flag n).trans (h.flag n), k.granted.trans h.granted,
    k.waiting.trans h.waiting, fun n => (k.hold n).trans (h.hold n)⟩

theorem Quiet.ite {c : Prop} [Decidable c] {t u : State} (ht : Quiet a t) (hu : Quiet a u) :
    Quiet a (if c then t else u) := by
  split <;> assumption

theorem Quiet.change {t : State} (h : Quiet a s) (hs : t.slots = s.slots) (hg : t.gov = s.gov) (hh : t.holds = s.holds) :
    Quiet a t := by
  refine h.trans ⟨fun n => ?_, fun n => ?_, ?_, ?_, fun n => ?_⟩
  · simp only [State.slot, hs]
  · simp only [State.slot, hs]
  · simp only [State.granted, hg]
  · simp only [State.waiting, hg]
  · simp only [State.hold, hh]

theorem Quiet.foldl {α : Type} {f : State → α → State} (hf : ∀ a s x, Quiet a s → Quiet a (f s x)) (l : List α) (s : State)
    (h : Quiet a s) : Quiet a (l.foldl f s) := by
  induction l generalizing s with
  | nil => exact h
  | cons x l ih => exact ih _ (hf _ _ _ h)

theorem Quiet.modSlot (h : Quiet a s) (n : Fin 24) (f : Slot → Slot)
    (hf : ∀ x, (f x).state = x.state ∧ (f x).heatGrant = x.heatGrant) : Quiet a (s.modSlot n f) := by
  refine h.trans ⟨fun m => ?_, fun m => ?_, rfl, rfl, fun _ => rfl⟩ <;> rw [State.slot_modSlot] <;> split <;> simp [*]

theorem Quiet.post (h : Quiet a s) (b : EventBody) : Quiet a (s.post b) := h.change (by simp) (by simp) (by simp)
theorem Quiet.write (h : Quiet a s) (ws : List StoreWrite) : Quiet a (s.write ws) := h.change rfl rfl rfl
theorem Quiet.setQueue (h : Quiet a s) (c : Fin 4) (q : List WaitEntry) : Quiet a (s.setQueue c q) := h.change rfl rfl rfl
theorem Quiet.setAccount (h : Quiet a s) (i : Nat) (x : Account) : Quiet a (s.setAccount i x) := h.change rfl rfl rfl
theorem Quiet.modTerminal (h : Quiet a s) (t : Fin 16) (f : Terminal → Terminal) : Quiet a (s.modTerminal t f) :=
  h.change rfl rfl rfl
theorem Quiet.modHalf (h : Quiet a s) (t : Fin 16) (k : Half) (f : HalfEntry → HalfEntry) : Quiet a (s.modHalf t k f) :=
  h.change rfl rfl rfl
theorem Quiet.setLasting (h : Quiet a s) (t : Fin 16) (k : Half) (d : Display) : Quiet a (s.setLasting t k d) :=
  h.modHalf _ _ _
theorem Quiet.latch (h : Quiet a s) (src : Option (Fin 24)) (c : FaultCode) : Quiet a (s.latch src c) := h.change rfl rfl rfl
theorem Quiet.modScanner (h : Quiet a s) (f : Scanner → Scanner) : Quiet a (s.modScanner f) := h.change rfl rfl rfl
theorem Quiet.modSettings (h : Quiet a s) (f : Settings → Settings) : Quiet a (s.modSettings f) := h.change rfl rfl rfl
theorem Quiet.setPort (h : Quiet a s) (p : Port) (u : PortUnit) : Quiet a (s.setPort p u) := by
  cases p <;> exact h.change rfl rfl rfl

/-- A governor's change that leaves both lists. -/
theorem Quiet.modGov (h : Quiet a s) (f : Governor → Governor) (hf : ∀ g, (f g).grants = g.grants ∧ (f g).waits = g.waits) :
    Quiet a (s.modGov f) := by
  refine h.trans ⟨fun _ => rfl, fun _ => rfl, ?_, ?_, fun _ => rfl⟩
  · simp only [State.granted, State.modGov, hf]
  · simp only [State.waiting, State.modGov, hf]

/-- A full hold entry filled anew. -/
theorem Quiet.setHold (h : Quiet a s) (n : Fin 24) (x : Hold) (hx : (s.hold n).isSome) : Quiet a (s.setHold n (some x)) := by
  refine h.trans ⟨fun _ => rfl, fun _ => rfl, rfl, rfl, fun m => ?_⟩
  rw [State.hold_setHold]; split
  · next e => rw [← e, hx]; rfl
  · rfl

theorem Quiet.showLasting (h : Quiet a s) (n : Fin 24) (d : Display) : Quiet a (s.showLasting n d) := by
  unfold State.showLasting; split
  · exact h.setLasting _ _ _
  · exact h

theorem Quiet.showBrief (h : Quiet a s) (n : Fin 24) (c : DisplayCode) (p : Nat) : Quiet a (s.showBrief n c p) := by
  unfold State.showBrief; split
  · exact h.modHalf _ _ _
  · exact h

theorem Quiet.postSlot (h : Quiet a s) (n : Fin 24) : Quiet a (s.postSlot n) := h.post _

theorem Quiet.setCause (h : Quiet a s) (n : Fin 24) (m : Cause) (v : Bool) : Quiet a (s.setCause n m v) :=
  h.modSlot n (fun x => { x with causes := x.causes.set m v }) fun _ => ⟨rfl, rfl⟩

theorem Quiet.writeCauses (h : Quiet a s) (n : Fin 24) (m : Cause) : Quiet a (s.writeCauses n m) := by
  unfold State.writeCauses; exact Quiet.ite h (h.write _)

theorem Quiet.tidyStamp (h : Quiet a s) : Quiet a s.tidyStamp := by
  unfold State.tidyStamp; exact Quiet.ite (h.modGov _ fun _ => ⟨rfl, rfl⟩) h

theorem Quiet.dropReservation (h : Quiet a s) (n : Fin 24) : Quiet a (s.dropReservation n) :=
  h.modSlot n (fun x => { x with reservation := none }) fun _ => ⟨rfl, rfl⟩

theorem Quiet.earlyNotice (h : Quiet a s) (c : Fin 4) (n : Fin 24) (m : Nat) : Quiet a (s.earlyNotice c n m) := by
  unfold State.earlyNotice; split
  · exact h
  · exact (h.setQueue _ _).post _

theorem Quiet.join (h : Quiet a s) (c : Fin 4) (card : Nat) : Quiet a (s.join c card).1 := by
  unfold State.join
  split
  · exact h
  · dsimp only
    split
    · exact h
    · split
      · exact h
      · split
        · exact h
        · split
          · exact h
          · exact h.setQueue _ _

theorem Quiet.waitSecond (h : Quiet a s) : Quiet a s.waitSecond := by
  unfold State.waitSecond Machine.overSlots
  refine Quiet.foldl (fun _ _ n k => k.modSlot n (fun x =>
    { x with reservation := x.reservation.map fun r => { r with window := r.window - 1 } }) fun _ => ⟨rfl, rfl⟩) _ _ ?_
  exact Quiet.foldl (fun _ _ c k => k.setQueue c _) _ _ h

theorem Quiet.rollAccount (h : Quiet a s) (i : Nat) : Quiet a (s.rollAccount i) := by
  unfold State.rollAccount; exact Quiet.ite h ((h.setAccount _ _).write _)

theorem Quiet.takeTopUp (h : Quiet a s) (n : Fin 24) (x : Hold) (i : Nat) (y : Account) (hx : (s.hold n).isSome) :
    Quiet a (s.takeTopUp n x i y) := by
  unfold State.takeTopUp
  dsimp only
  refine Quiet.ite (Quiet.showLasting ?_ _ _) ?_ <;> refine (Quiet.modSlot ?_ n _ ?_).showBrief _ _ _ <;> first
    | exact ((h.setHold _ _ hx).setAccount _ _).write _
    | exact fun _ => ⟨rfl, rfl⟩

theorem Quiet.topUpTap (h : Quiet a s) (n : Fin 24) (card : Nat) : Quiet a (s.topUpTap n card) := by
  unfold State.topUpTap
  split
  · exact h
  · next x hx =>
    have hx : (s.hold n).isSome := by simp [hx]
    split
    · exact h.showBrief _ _ _
    · dsimp only
      have k : ∀ i, Quiet a (if (s.account i).cap = 0 then s else s.rollAccount i) := fun i => Quiet.ite h (h.rollAccount i)
      refine Quiet.ite (h.showBrief _ _ _) (Quiet.ite (h.showBrief _ _ _) (Quiet.ite (h.showBrief _ _ _)
        (Quiet.ite (h.showBrief _ _ _) (Quiet.ite ((k _).showBrief _ _ _) (h.takeTopUp _ _ _ _ hx)))))

theorem Quiet.storeRun (h : Quiet a s) (n : Fin 24) : Quiet a (s.storeRun n) := by
  unfold State.storeRun; split
  · exact h
  · next x hx => exact Quiet.ite ((h.setHold _ _ (by simp [hx])).write _) h

theorem Quiet.displayAll (h : Quiet a s) (d : Display) : Quiet a (s.displayAll d) :=
  Quiet.foldl (fun _ _ t k => k.modTerminal t _) _ _ h

theorem Quiet.setBus (h : Quiet a s) (b : Bus) : Quiet a { s with bus := b } := h.change rfl rfl rfl
theorem Quiet.setRoom (h : Quiet a s) (r : Room) : Quiet a { s with room := r } := h.change rfl rfl rfl

theorem Quiet.roomDisplay (h : Quiet a s) (r : RoomState) : Quiet a (s.roomDisplay r) := by
  unfold State.roomDisplay; split
  · exact h.setBus _
  · exact Quiet.ite h ((h.displayAll _).setBus _)

theorem Quiet.changeRoom (h : Quiet a s) (r : RoomState) (c : RoomCause) : Quiet a (s.changeRoom r c) :=
  ((h.setRoom _).post _).roomDisplay _

theorem Quiet.openDisplays (h : Quiet a s) : Quiet a s.openDisplays :=
  Quiet.foldl (fun _ _ t k => (k.setLasting t .a _).setLasting t .b _) _ _ h

theorem Quiet.pointA (h : Quiet a s) (n : Fin 24) : Quiet a (s.pointA n) := by
  unfold State.pointA; split
  · exact h
  · exact Quiet.ite h ((h.modSlot n (fun x => { x with warning := true }) fun _ => ⟨rfl, rfl⟩).earlyNotice _ _ _)

theorem Quiet.recoverCounters (h : Quiet a s) (n : Fin 24) : Quiet a (s.recoverCounters n) := by
  unfold State.recoverCounters
  dsimp only
  split <;> exact h.modSlot n _ fun _ => ⟨rfl, rfl⟩

theorem Quiet.takeView (h : Quiet a s) (n : Fin 24) (v : View) : Quiet a (s.takeView n v) := by
  unfold State.takeView
  refine h.modSlot n _ ?_
  exact fun _ => ⟨rfl, rfl⟩

theorem Quiet.latchReport (h : Quiet a s) (n : Fin 24) (v : View) : Quiet a (s.latchReport n v) := by
  unfold State.latchReport
  dsimp only
  generalize (if (s.slot n).outputs.locked = true then LockView.locked else LockView.unlocked) = wanted
  have k1 := Quiet.ite (c := v.lock = wanted) (h.latch (some n) .lockFail) h
  have k2 := Quiet.ite (c := v.lock = .unlocked) (k1.latch (some n) .unlockFail) k1
  have k3 := Quiet.ite (c := v.forced = true) k2 (k2.latch (some n) .doorForced)
  exact Quiet.ite k3 (k3.latch _ _)

theorem Quiet.modSense (h : Quiet a s) (n : Fin 24) (f : SlotSense → SlotSense) : Quiet a (s.modSense n f) :=
  h.modSlot n _ fun _ => ⟨rfl, rfl⟩

theorem Quiet.startNext (h : Quiet a s) : Quiet a s.startNext := by
  unfold State.startNext
  split
  · exact h
  · exact h.modScanner _
  · dsimp only
    split
    · exact (h.modScanner _).modSense _ _
    · exact h.modScanner _
  · exact h

theorem Quiet.slotSecond (h : Quiet a s) (n : Fin 24) : Quiet a (s.slotSecond n) := by
  unfold State.slotSecond
  have k : Quiet a (s.modSlot n (Slot.counted (s.kind n))) := by
    refine h.modSlot n _ fun x => ?_
    unfold Slot.counted; split <;> exact ⟨rfl, rfl⟩
  have m := Quiet.ite (c := ((s.modSlot n (Slot.counted (s.kind n))).slot n).run = (s.slot n).run) k (k.storeRun n)
  exact Quiet.ite h (Quiet.ite (m.pointA n) ((m.pointA n).showLasting n _))

/-! ### The laws, with slots left out of them for the length of an operation -/

/-- Both laws, but for the slots that `x` names. -/
structure Law (x : Fin 24 → Prop) (s : State) : Prop where
  once : s.oneRequest
  heat : ∀ n, ¬ x n → s.heatAt n
  busy : ∀ n, ¬ x n → (s.hold n).isSome = (s.slot n).state.busy

/-- Both laws, at every slot. -/
abbrev Whole (s : State) : Prop := Law (fun _ => False) s

theorem whole_iff : Whole s ↔ s.heatLaw ∧ s.busyLaw :=
  ⟨fun h => ⟨⟨h.once, fun n => h.heat n id⟩, fun n => h.busy n id⟩,
    fun h => ⟨h.1.1, fun n _ => h.1.2 n, fun n _ => h.2 n⟩⟩

theorem Quiet.asked (h : Quiet a s) (n : Fin 24) : s.asked n ↔ a.asked n := by
  simp only [State.asked, h.granted, h.waiting]

theorem Law.quiet {x : Fin 24 → Prop} (h : Law x a) (k : Quiet a s) : Law x s := by
  refine ⟨?_, fun n hn => ?_, fun n hn => ?_⟩
  · simpa only [State.oneRequest, k.granted, k.waiting] using h.once
  · have := h.heat n hn
    simpa only [State.heatAt, k.granted, k.waiting, k.state, k.flag] using this
  · rw [k.hold, k.state]; exact h.busy n hn

/-- Slots may be left out. -/
theorem Law.weaken {x y : Fin 24 → Prop} (h : Law x s) (hxy : ∀ n, x n → y n) : Law y s :=
  ⟨h.once, fun n hn => h.heat n (mt (hxy n) hn), fun n hn => h.busy n (mt (hxy n) hn)⟩

/-- A slot left out that keeps the laws need not be. -/
theorem Law.restore {x : Fin 24 → Prop} (n : Fin 24) (h : Law (fun m => x m ∨ m = n) s) (hh : s.heatAt n)
    (hb : (s.hold n).isSome = (s.slot n).state.busy) : Law x s := by
  refine ⟨h.once, fun m hm => ?_, fun m hm => ?_⟩
  · by_cases e : m = n
    · exact e ▸ hh
    · exact h.heat m (by simp [hm, e])
  · by_cases e : m = n
    · exact e ▸ hb
    · exact h.busy m (by simp [hm, e])

/-! ### A slot's state and its grant flag -/

theorem State.enter_slot (n : Fin 24) (st : SlotState) (m : Fin 24) : ((s.enter n st).slot m) =
    if n = m then { s.slot n with
      state := st, outputs := outputsOf st (s.slot n).heatGrant, sense := (s.slot n).sense.disturb,
      timer := (s.stateSeconds st).map (s.elapsed + ·) } else s.slot m := by
  have k (t : State) (b : EventBody) : ∀ m, (t.post b).slot m = t.slot m := fun m => by simp [State.slot]
  have l (t : State) (d : Display) : ∀ m, (t.showLasting n d).slot m = t.slot m := fun m => by
    unfold State.showLasting; split <;> rfl
  unfold State.enter State.postSlot
  dsimp only
  split
  · rw [k, State.slot_modSlot]
  · split
    · rw [l, k, State.slot_modSlot]
    · rw [k, State.slot_modSlot]

theorem State.enter_state (n : Fin 24) (st : SlotState) (m : Fin 24) :
    ((s.enter n st).slot m).state = if n = m then st else (s.slot m).state := by
  rw [State.enter_slot]; split <;> rfl

theorem State.enter_flag (n : Fin 24) (st : SlotState) (m : Fin 24) :
    ((s.enter n st).slot m).heatGrant = (s.slot m).heatGrant := by
  rw [State.enter_slot]; split
  · next e => rw [← e]
  · rfl

theorem State.enter_rest (n : Fin 24) (st : SlotState) : (s.enter n st).gov = s.gov ∧ (s.enter n st).holds = s.holds := by
  unfold State.enter State.postSlot State.showLasting
  dsimp only
  split
  · simp
  · split
    · split <;> simp [State.setLasting]
    · simp

theorem State.enter_granted (n : Fin 24) (st : SlotState) : (s.enter n st).granted = s.granted := by
  simp only [State.granted, (State.enter_rest n st).1]

theorem State.enter_waiting (n : Fin 24) (st : SlotState) : (s.enter n st).waiting = s.waiting := by
  simp only [State.waiting, (State.enter_rest n st).1]

theorem State.enter_hold (n : Fin 24) (st : SlotState) (m : Fin 24) : (s.enter n st).hold m = s.hold m := by
  simp only [State.hold, (State.enter_rest n st).2]

theorem State.setGrant_state (n : Fin 24) (g : Bool) (m : Fin 24) : ((s.setGrant n g).slot m).state = (s.slot m).state := by
  unfold State.setGrant
  rw [State.slot_modSlot]; split
  · next e => rw [← e]
  · rfl

theorem State.setGrant_flag (n : Fin 24) (g : Bool) (m : Fin 24) :
    ((s.setGrant n g).slot m).heatGrant = if n = m then g else (s.slot m).heatGrant := by
  unfold State.setGrant
  rw [State.slot_modSlot]; split <;> rfl

theorem State.setGrant_rest (n : Fin 24) (g : Bool) : (s.setGrant n g).gov = s.gov ∧ (s.setGrant n g).holds = s.holds :=
  ⟨rfl, rfl⟩

/-! ### The governor's lists -/

/-- The slots of a list of requests. -/
def slotsOf (l : List HeatRequest) : List (Fin 24) := l.map fun r => r.slot

theorem revokeNewest_split (h : Fin 4 → Nat) (b : Int) (l : List HeatRequest) :
    (revokeNewest h b l).2 ++ (revokeNewest h b l).1 = l := by
  induction l with
  | nil => rfl
  | cons r rest ih =>
    unfold revokeNewest
    split
    · rfl
    · simp [ih]

theorem placeRequest_perm (p : Fin 4 → Nat) (r : HeatRequest) (l : List HeatRequest) :
    (placeRequest p r l).Perm (r :: l) := by
  induction l with
  | nil => exact List.Perm.refl _
  | cons q l ih =>
    unfold placeRequest
    split
    · exact List.Perm.refl _
    · exact (ih.cons q).trans (List.Perm.swap _ _ _)

theorem placeBack_perm (p : Fin 4 → Nat) (l q : List HeatRequest) :
    (slotsOf (l.foldl (fun q x => placeRequest p x.cleared q) q)).Perm (slotsOf l ++ slotsOf q) := by
  induction l generalizing q with
  | nil => exact List.Perm.refl _
  | cons r l ih =>
    refine (ih _).trans ?_
    have k : (slotsOf (placeRequest p r.cleared q)).Perm (r.slot :: slotsOf q) := (placeRequest_perm p r.cleared q).map _
    exact (k.append_left _).trans (List.perm_middle)

theorem walk_perm (h : Fin 4 → Nat) (v : List (Fin 24)) (room : Int) (l : List HeatRequest) :
    (slotsOf (newGrants (walk h v room l)) ++ slotsOf (leftWaiting (walk h v room l))).Perm (slotsOf l) := by
  have unreached (l : List HeatRequest) : newGrants (l.map fun q => (q, Reach.unreached)) = [] ∧
      leftWaiting (l.map fun q => (q, Reach.unreached)) = l := by
    induction l with
    | nil => exact ⟨rfl, rfl⟩
    | cons q l ih => exact ⟨by simp [newGrants], by simpa [leftWaiting] using ih.2⟩
  have skip (r : HeatRequest) (b : Bool) : (if b then r.passed else r).slot = r.slot := by cases b <;> rfl
  induction l generalizing room with
  | nil => exact List.Perm.refl _
  | cons r l ih =>
    unfold walk
    split
    · have k := ih room
      simp only [newGrants, leftWaiting, slotsOf, List.map_cons] at *
      exact (List.perm_middle).trans (k.cons _)
    · split
      · have k := ih (room - h r.cls)
        simp only [newGrants, leftWaiting, slotsOf] at *
        simpa [HeatRequest.cleared] using k
      · split
        · obtain ⟨k1, k2⟩ := unreached l
          simp only [newGrants] at k1
          simp [newGrants, leftWaiting, slotsOf, k1, k2]
        · have k := ih room
          simp only [newGrants, leftWaiting, slotsOf, List.map_cons] at *
          refine (List.perm_middle).trans ?_
          rw [skip]
          exact k.cons _

/-! ### The reckoning -/

/-- What a reckoning can do to the slots' states, flags and requests. -/
structure Reckoned (a s : State) : Prop where
  law : ∀ x, Law x a → Law x s
  asked : ∀ n, s.asked n ↔ a.asked n
  state : ∀ n, ¬ a.asked n → (s.slot n).state = (a.slot n).state
  flag : ∀ n, ¬ a.asked n → (s.slot n).heatGrant = (a.slot n).heatGrant
  hold : ∀ n, (s.hold n).isSome = (a.hold n).isSome

theorem Reckoned.refl (a : State) : Reckoned a a :=
  ⟨fun _ h => h, fun _ => Iff.rfl, fun _ _ => rfl, fun _ _ => rfl, fun _ => rfl⟩

theorem Reckoned.trans {b c : State} (h : Reckoned a b) (k : Reckoned b c) : Reckoned a c :=
  ⟨fun x l => k.law x (h.law x l), fun n => (k.asked n).trans (h.asked n),
    fun n l => (k.state n (mt (h.asked n).1 l)).trans (h.state n l),
    fun n l => (k.flag n (mt (h.asked n).1 l)).trans (h.flag n l), fun n => (k.hold n).trans (h.hold n)⟩

theorem Quiet.reckoned (h : Quiet a s) : Reckoned a s :=
  ⟨fun _ l => l.quiet h, h.asked, fun n _ => h.state n, fun n _ => h.flag n, h.hold⟩

theorem revokeSlots (l : List HeatRequest) (s : State) :
    (∀ n, ((l.foldl (fun s x => s.revokeSlot x.slot) s).slot n).state =
      if n ∈ slotsOf l then .awaitPower else (s.slot n).state) ∧
    (∀ n, ((l.foldl (fun s x => s.revokeSlot x.slot) s).slot n).heatGrant =
      if n ∈ slotsOf l then false else (s.slot n).heatGrant) ∧
    (l.foldl (fun s x => s.revokeSlot x.slot) s).gov = s.gov ∧
    (l.foldl (fun s x => s.revokeSlot x.slot) s).holds = s.holds := by
  induction l generalizing s with
  | nil => simp [slotsOf]
  | cons r l ih =>
    obtain ⟨h1, h2, h3, h4⟩ := ih (s.revokeSlot r.slot)
    refine ⟨fun n => ?_, fun n => ?_, ?_, ?_⟩
    · rw [List.foldl_cons, h1]
      unfold State.revokeSlot
      rw [State.enter_state, State.setGrant_state]
      by_cases e : n ∈ slotsOf l <;> by_cases k : r.slot = n <;> simp [slotsOf, eq_comm (a := n), k] at *
    · rw [List.foldl_cons, h2]
      unfold State.revokeSlot
      rw [State.enter_flag, State.setGrant_flag]
      by_cases e : n ∈ slotsOf l <;> by_cases k : r.slot = n <;> simp [slotsOf, eq_comm (a := n), k] at *
    · rw [List.foldl_cons, h3]
      unfold State.revokeSlot
      rw [(State.enter_rest _ _).1]; rfl
    · rw [List.foldl_cons, h4]
      unfold State.revokeSlot
      rw [(State.enter_rest _ _).2]; rfl

theorem State.grantSlot_state (n m : Fin 24) : ((s.grantSlot n).slot m).state =
    if n = m ∧ (s.slot n).state = .awaitPower then .running else (s.slot m).state := by
  unfold State.grantSlot
  dsimp only
  rw [State.setGrant_state]
  by_cases k : (s.slot n).state = .awaitPower
  · simp only [k, if_true, and_true]
    rw [State.enter_state, State.setGrant_state]
  · simp only [k, if_false, and_false]
    rw [State.setGrant_state]

theorem State.grantSlot_flag (n m : Fin 24) : ((s.grantSlot n).slot m).heatGrant =
    if n = m then true else (s.slot m).heatGrant := by
  unfold State.grantSlot
  dsimp only
  split <;> simp only [State.enter_flag, State.setGrant_flag]

theorem State.grantSlot_rest (n : Fin 24) : (s.grantSlot n).gov = s.gov ∧ (s.grantSlot n).holds = s.holds := by
  unfold State.grantSlot
  dsimp only
  split
  · exact State.enter_rest _ _
  · exact ⟨rfl, rfl⟩

theorem grantSlots (l : List HeatRequest) (s : State) :
    (∀ n, ((l.foldl (fun s x => s.grantSlot x.slot) s).slot n).state =
      if n ∈ slotsOf l ∧ (s.slot n).state = .awaitPower then .running else (s.slot n).state) ∧
    (∀ n, ((l.foldl (fun s x => s.grantSlot x.slot) s).slot n).heatGrant =
      if n ∈ slotsOf l then true else (s.slot n).heatGrant) ∧
    (l.foldl (fun s x => s.grantSlot x.slot) s).gov = s.gov ∧
    (l.foldl (fun s x => s.grantSlot x.slot) s).holds = s.holds := by
  induction l generalizing s with
  | nil => simp [slotsOf]
  | cons r l ih =>
    obtain ⟨h1, h2, h3, h4⟩ := ih (s.grantSlot r.slot)
    refine ⟨fun n => ?_, fun n => ?_, ?_, ?_⟩
    · rw [List.foldl_cons, h1, State.grantSlot_state]
      by_cases k : r.slot = n
      · subst k
        by_cases e : (s.slot r.slot).state = .awaitPower <;> simp [slotsOf, e]
      · simp [slotsOf, eq_comm (a := n), k]
    · rw [List.foldl_cons, h2, State.grantSlot_flag]
      by_cases e : n ∈ slotsOf l <;> by_cases k : r.slot = n <;> simp [slotsOf, eq_comm (a := n), k] at *
    · rw [List.foldl_cons, h3, (State.grantSlot_rest _).1]
    · rw [List.foldl_cons, h4, (State.grantSlot_rest _).2]

theorem granted_eq (s : State) : s.granted = slotsOf s.gov.grants := rfl
theorem waiting_eq (s : State) : s.waiting = slotsOf s.gov.waits := rfl

theorem slotsOf_append (l k : List HeatRequest) : slotsOf (l ++ k) = slotsOf l ++ slotsOf k := List.map_append

/-- The grants kept and those revoked are the grants (R114). -/
theorem revocation_split (s : State) (fell : Bool) :
    (slotsOf (s.revocation fell).1 ++ slotsOf (s.revocation fell).2).Perm s.granted := by
  unfold State.revocation
  split
  · have k := revokeNewest_split (fun c => (s.govClass c).heat) s.gov.heat s.gov.grants.reverse
    dsimp only
    rw [granted_eq, ← slotsOf_append]
    refine List.Perm.map _ ?_
    refine (((List.reverse_perm _).append_right _).trans List.perm_append_comm).trans ?_
    rw [k]
    exact List.reverse_perm _
  · simp [granted_eq, slotsOf]

/-- Stage 2 of a reckoning (R114). -/
theorem revoke_reckoned (s : State) (fell : Bool) : Reckoned s (s.revoke fell).1 := by
  have hs := revocation_split s fell
  unfold State.revoke
  generalize s.revocation fell = r at *
  dsimp only
  have e : (s.modGov fun g => { g with
      grants := r.1,
      waits := r.2.foldl (fun q x => placeRequest (fun c => (s.govClass c).priority) x.cleared q) g.waits }) =
    s.modGov fun g => { g with
      grants := r.1,
      waits := r.2.foldl (fun q x => placeRequest (fun c => (s.govClass c).priority) x.cleared q) s.gov.waits } := rfl
  rw [e]
  have hp := placeBack_perm (fun c => (s.govClass c).priority) r.2 s.gov.waits
  generalize r.2.foldl (fun q x => placeRequest (fun c => (s.govClass c).priority) x.cleared q) s.gov.waits = w at *
  obtain ⟨h1, h2, h3, h4⟩ := revokeSlots r.2 (s.modGov fun g => { g with grants := r.1, waits := w })
  generalize r.2.foldl (fun s x => s.revokeSlot x.slot) (s.modGov fun g => { g with grants := r.1, waits := w }) = u at *
  have hg : u.granted = slotsOf r.1 := by rw [granted_eq, h3]; rfl
  have hv : u.waiting = slotsOf w := by rw [waiting_eq, h3]; rfl
  have hh : ∀ n, u.hold n = s.hold n := fun n => by simp only [State.hold, h4]; rfl
  have hall : (u.granted ++ u.waiting).Perm (s.granted ++ s.waiting) := by
    rw [hg, hv]
    refine (hp.append_left _).trans ?_
    rw [← List.append_assoc]
    exact hs.append_right _
  have hask : ∀ n, u.asked n ↔ s.asked n := fun n => by
    have := hall.mem_iff (a := n)
    simpa only [State.asked, List.mem_append] using this
  have hmem : ∀ n, n ∈ slotsOf r.2 → n ∈ s.granted := fun n hn => hs.mem_iff.1 (by simp [hn])
  have hslot : ∀ n, (s.modGov fun g => { g with grants := r.1, waits := w }).slot n = s.slot n := fun _ => rfl
  simp only [hslot] at h1 h2
  refine ⟨fun x l => ⟨?_, fun n hn => ?_, fun n hn => ?_⟩, hask, fun n hn => ?_, fun n hn => ?_, fun n => by rw [hh]⟩
  · exact hall.nodup_iff.2 l.once
  · obtain ⟨a1, a2, a3⟩ := l.heat n hn
    have hnd := List.nodup_append.1 l.once
    have hsn : (slotsOf r.1 ++ slotsOf r.2).Nodup := hs.nodup_iff.2 hnd.1
    have hk : n ∈ s.granted ↔ n ∈ slotsOf r.1 ∨ n ∈ slotsOf r.2 := by
      rw [← hs.mem_iff]; simp
    by_cases e : n ∈ slotsOf r.2
    · have hnot : n ∉ slotsOf r.1 := fun k => (List.nodup_append.1 hsn).2.2 _ k _ e rfl
      refine ⟨?_, ?_, ?_⟩
      · rw [h2, hg]; simp [e, hnot]
      · rw [hg]; exact fun k => absurd k hnot
      · rw [h1]; simp [e]
    · refine ⟨?_, ?_, ?_⟩
      · rw [h2, hg]; simp only [e, if_false]; rw [a1, hk]; simp [e]
      · rw [hg, h1]; simp only [e, if_false]; exact fun k => a2 (hk.2 (.inl k))
      · rw [hv, h1]; simp only [e, if_false]
        intro k
        have := hp.mem_iff.1 k
        rw [List.mem_append] at this
        exact a3 (this.resolve_left e)
  · rw [hh, h1, l.busy n hn]
    split
    · next e => rw [(l.heat n hn).2.1 (hmem n e)]; rfl
    · rfl
  · rw [h1, if_neg]
    exact fun k => hn (.inl (hmem n k))
  · rw [h2, if_neg]
    exact fun k => hn (.inl (hmem n k))

/-- Stage 3 of a reckoning (R112). -/
theorem grantPass_reckoned (s : State) (v : List (Fin 24)) : Reckoned s (s.grantPass v) := by
  unfold State.grantPass
  have hp := walk_perm (fun c => (s.govClass c).heat) v (s.gov.heat - s.grantedHeat) s.gov.waits
  generalize walk (fun c => (s.govClass c).heat) v (s.gov.heat - s.grantedHeat) s.gov.waits = w at *
  dsimp only
  obtain ⟨h1, h2, h3, h4⟩ := grantSlots (newGrants w)
    (s.modGov fun g => { g with waits := leftWaiting w, grants := g.grants ++ newGrants w })
  generalize (newGrants w).foldl (fun s x => s.grantSlot x.slot)
    (s.modGov fun g => { g with waits := leftWaiting w, grants := g.grants ++ newGrants w }) = u at *
  have hg : u.granted = s.granted ++ slotsOf (newGrants w) := by
    rw [granted_eq, h3, granted_eq, ← slotsOf_append]; rfl
  have hv : u.waiting = slotsOf (leftWaiting w) := by rw [waiting_eq, h3]; rfl
  have hh : ∀ n, u.hold n = s.hold n := fun n => by simp only [State.hold, h4]; rfl
  have hall : (u.granted ++ u.waiting).Perm (s.granted ++ s.waiting) := by
    rw [hg, hv, List.append_assoc]
    exact hp.append_left _
  have hask : ∀ n, u.asked n ↔ s.asked n := fun n => by
    have := hall.mem_iff (a := n)
    simpa only [State.asked, List.mem_append] using this
  have hmem : ∀ n, n ∈ slotsOf (newGrants w) → n ∈ s.waiting := fun n hn => hp.mem_iff.1 (by simp [hn])
  have hslot : ∀ n, (s.modGov fun g => { g with waits := leftWaiting w, grants := g.grants ++ newGrants w }).slot n =
    s.slot n := fun _ => rfl
  simp only [hslot] at h1 h2
  refine ⟨fun x l => ⟨?_, fun n hn => ?_, fun n hn => ?_⟩, hask, fun n hn => ?_, fun n hn => ?_, fun n => by rw [hh]⟩
  · exact hall.nodup_iff.2 l.once
  · obtain ⟨a1, a2, a3⟩ := l.heat n hn
    have hnd : (slotsOf (newGrants w) ++ slotsOf (leftWaiting w)).Nodup := hp.nodup_iff.2 (List.nodup_append.1 l.once).2.1
    by_cases e : n ∈ slotsOf (newGrants w)
    · have hnot : n ∉ slotsOf (leftWaiting w) := fun k => (List.nodup_append.1 hnd).2.2 _ e _ k rfl
      have hst := a3 (hmem n e)
      refine ⟨?_, ?_, ?_⟩
      · rw [h2, hg]; simp [e]
      · rw [h1]; intro _
        rcases hst with k | k <;> simp [e, k]
      · rw [hv]; exact fun k => absurd k hnot
    · refine ⟨?_, ?_, ?_⟩
      · rw [h2, hg]; simp [e, a1]
      · rw [hg, h1]; simpa [e] using a2
      · rw [hv, h1]; simp only [e, false_and, if_false]
        exact fun k => a3 (hp.mem_iff.1 (by simp [k]))
  · rw [hh, h1, l.busy n hn]
    split
    · next e => rw [e.2]; rfl
    · rfl
  · rw [h1, if_neg]
    exact fun k => hn (.inr (hmem n k.1))
  · rw [h2, if_neg]
    exact fun k => hn (.inr (hmem n k))

/-- A reckoning whole (R106). -/
theorem reckon_reckoned (s : State) (x y z : Bool) : Reckoned s (s.reckon x y z) := by
  unfold State.reckon
  dsimp only
  have k1 : Quiet s (s.modGov fun g => { g with motor := s.motorSum }) := (Quiet.refl s).modGov _ fun _ => ⟨rfl, rfl⟩
  generalize s.modGov (fun g => { g with motor := s.motorSum }) = t at *
  have k2 : Quiet s (t.modGov fun g => { g with heat := t.heatBudget }) := k1.modGov _ fun _ => ⟨rfl, rfl⟩
  generalize t.modGov (fun g => { g with heat := t.heatBudget }) = u at *
  have k3 := k2.reckoned.trans (revoke_reckoned u (decide (u.gov.heat < s.gov.heat) || z))
  generalize u.revoke (decide (u.gov.heat < s.gov.heat) || z) = r at *
  split
  · exact (k3.trans (grantPass_reckoned _ _)).trans (Quiet.refl _).tidyStamp.reckoned
  · exact k3.trans (Quiet.refl _).tidyStamp.reckoned

theorem Law.reckon {x : Fin 24 → Prop} (h : Law x s) (p q r : Bool) : Law x (s.reckon p q r) :=
  (reckon_reckoned s p q r).law x h

/-! ### A slot's state changed -/

/-- A slot that is neither RUNNING nor in AWAIT_POWER. -/
def SlotState.cold (st : SlotState) : Prop := st ≠ .running ∧ st ≠ .awaitPower

/-- A cold slot has no request and no grant. -/
theorem Law.unasked {x : Fin 24 → Prop} (h : Law x s) {n : Fin 24} (hn : ¬ x n) (hc : (s.slot n).state.cold) :
    ¬ s.asked n ∧ (s.slot n).heatGrant = false := by
  obtain ⟨h1, h2, h3⟩ := h.heat n hn
  have hg : n ∉ s.granted := fun k => hc.1 (h2 k)
  refine ⟨?_, Bool.eq_false_iff.2 fun k => hg (h1.1 k)⟩
  rintro (k | k)
  · exact hg k
  · exact (h3 k).elim hc.1 hc.2

/-- A slot outside the laws enters a state in which it has no request, and its hold entry is full exactly if that is busy. -/
theorem Law.enter {x : Fin 24 → Prop} {n : Fin 24} {st : SlotState} (h : Law (fun m => x m ∨ m = n) s)
    (hu : ¬ s.asked n) (hf : (s.slot n).heatGrant = false) (hb : (s.hold n).isSome = st.busy) : Law x (s.enter n st) := by
  have k : Law (fun m => x m ∨ m = n) (s.enter n st) := by
    refine ⟨?_, fun m hm => ?_, fun m hm => ?_⟩
    · simpa only [State.oneRequest, State.enter_granted, State.enter_waiting] using h.once
    · have := h.heat m hm
      have e : ¬ n = m := fun e => hm (.inr e.symm)
      simpa only [State.heatAt, State.enter_granted, State.enter_waiting, State.enter_flag, State.enter_state, e, if_false]
        using this
    · have e : ¬ n = m := fun e => hm (.inr e.symm)
      rw [State.enter_hold, State.enter_state, if_neg e]
      exact h.busy m hm
  refine k.restore n ?_ ?_
  · have h1 : n ∉ s.granted := fun k => hu (.inl k)
    have h2 : n ∉ s.waiting := fun k => hu (.inr k)
    simp [State.heatAt, State.enter_granted, State.enter_waiting, State.enter_flag, hf, h1, h2]
  · rw [State.enter_hold, State.enter_state, if_pos rfl, hb]

/-- A cold slot enters another state, busy exactly if the one it leaves is. -/
theorem Law.move (h : Whole s) {n : Fin 24} {st : SlotState} (hc : (s.slot n).state.cold)
    (hb : st.busy = (s.slot n).state.busy) : Whole (s.enter n st) := by
  obtain ⟨h1, h2⟩ := h.unasked id hc
  exact (h.weaken fun _ k => k.elim).enter h1 h2 (by rw [h.busy n id, hb])

theorem Law.told (h : Whole s) {n : Fin 24} {st : SlotState} (hc : (s.slot n).state.cold)
    (hb : st.busy = (s.slot n).state.busy) : Whole (s.enterTold n st) := (h.move hc hb).reckon _ _ _

/-- A slot without a request is in the state it was told to enter. -/
theorem enterTold_state {n : Fin 24} (st : SlotState) (hu : ¬ s.asked n) : ((s.enterTold n st).slot n).state = st := by
  have k : ¬ (s.enter n st).asked n := by
    simpa only [State.asked, State.enter_granted, State.enter_waiting] using hu
  unfold State.enterTold
  rw [(reckon_reckoned _ _ _ _).state n k, State.enter_state, if_pos rfl]

theorem Law.told_state {x : Fin 24 → Prop} (h : Law x s) {n : Fin 24} (hn : ¬ x n) (st : SlotState)
    (hc : (s.slot n).state.cold) : ((s.enterTold n st).slot n).state = st := enterTold_state st (h.unasked hn hc).1

/-! ### Heat asked for, given up and withdrawn -/

theorem State.removeRequest_granted (n m : Fin 24) : m ∈ (s.removeRequest n).granted ↔ m ∈ s.granted ∧ m ≠ n := by
  simp only [State.removeRequest, State.modGov, State.granted, List.mem_map, List.mem_filter, bne_iff_ne]
  constructor
  · rintro ⟨r, ⟨h1, h2⟩, rfl⟩; exact ⟨⟨r, h1, rfl⟩, h2⟩
  · rintro ⟨⟨r, h1, rfl⟩, h2⟩; exact ⟨r, ⟨h1, h2⟩, rfl⟩

theorem State.removeRequest_waiting (n m : Fin 24) : m ∈ (s.removeRequest n).waiting ↔ m ∈ s.waiting ∧ m ≠ n := by
  simp only [State.removeRequest, State.modGov, State.waiting, List.mem_map, List.mem_filter, bne_iff_ne]
  constructor
  · rintro ⟨r, ⟨h1, h2⟩, rfl⟩; exact ⟨⟨r, h1, rfl⟩, h2⟩
  · rintro ⟨⟨r, h1, rfl⟩, h2⟩; exact ⟨r, ⟨h1, h2⟩, rfl⟩

theorem removeRequest_once (n : Fin 24) (h : s.oneRequest) : (s.removeRequest n).oneRequest := by
  unfold State.oneRequest at *
  refine List.Sublist.nodup (List.Sublist.append ?_ ?_) h
  · exact List.filter_sublist.map _
  · exact List.filter_sublist.map _

theorem removeRequest_asked (n : Fin 24) : ¬ (s.removeRequest n).asked n := by
  simp [State.asked, State.removeRequest_granted, State.removeRequest_waiting]

/-- The requests of a slot with no grant are removed. -/
theorem Law.removeRequest {x : Fin 24 → Prop} (h : Law x s) {n : Fin 24} (hf : (s.slot n).heatGrant = false) :
    Law x (s.removeRequest n) := by
  refine ⟨removeRequest_once n h.once, fun m hm => ?_, fun m hm => h.busy m hm⟩
  obtain ⟨h1, h2, h3⟩ := h.heat m hm
  refine ⟨?_, fun k => h2 ((State.removeRequest_granted n m).1 k).1, fun k => h3 ((State.removeRequest_waiting n m).1 k).1⟩
  rw [State.removeRequest_granted]
  show (s.slot m).heatGrant = true ↔ _
  by_cases e : m = n
  · subst e; simp [hf]
  · simp [h1, e]

theorem Law.withdraw {x : Fin 24 → Prop} (h : Law x s) {n : Fin 24} (hf : (s.slot n).heatGrant = false) :
    Law x (s.withdraw n) := (h.removeRequest hf).quiet (Quiet.refl _).tidyStamp

/-- A grant given up: the slot's request is gone and its flag clear, before the reckoning. -/
theorem Law.dropGrant {x : Fin 24 → Prop} (h : Law x s) (n : Fin 24) : Law x (s.dropGrant n) := by
  unfold State.dropGrant
  refine ⟨removeRequest_once n h.once, fun m hm => ?_, fun m hm => ?_⟩
  · obtain ⟨h1, h2, h3⟩ := h.heat m hm
    refine ⟨?_, fun k => ?_, fun k => ?_⟩
    · rw [State.setGrant_flag]
      show _ ↔ m ∈ (s.removeRequest n).granted
      rw [State.removeRequest_granted]
      split
      · next e => simp [e]
      · next e =>
        show (s.slot m).heatGrant = true ↔ _
        simp [h1, Ne.symm e]
    · rw [State.setGrant_state]
      exact h2 ((State.removeRequest_granted n m).1 k).1
    · rw [State.setGrant_state]
      exact h3 ((State.removeRequest_waiting n m).1 k).1
  · rw [State.setGrant_state]
    exact h.busy m hm

theorem Law.giveUpGrant {x : Fin 24 → Prop} (h : Law x s) (n : Fin 24) : Law x (s.giveUpGrant n) := (h.dropGrant n).reckon _ _ _

/-- What dropping a slot's heat leaves of the slot (R6, stage 3). -/
structure Dropped (n : Fin 24) (a s : State) : Prop where
  asked : ¬ s.asked n
  flag : (s.slot n).heatGrant = false
  state : (s.slot n).state = (a.slot n).state
  hold : ∀ m, (s.hold m).isSome = (a.hold m).isSome

theorem dropGrant_dropped (s : State) (n : Fin 24) : Dropped n s (s.dropGrant n) := by
  unfold State.dropGrant
  refine ⟨removeRequest_asked n, ?_, ?_, fun _ => rfl⟩
  · rw [State.setGrant_flag, if_pos rfl]
  · rw [State.setGrant_state]; rfl

theorem giveUpGrant_dropped (s : State) (n : Fin 24) : Dropped n s (s.giveUpGrant n) := by
  have d := dropGrant_dropped s n
  unfold State.giveUpGrant
  have r := reckon_reckoned (s.dropGrant n) true false false
  exact ⟨fun h => d.asked ((r.asked n).1 h), (r.flag n d.asked).trans d.flag, (r.state n d.asked).trans d.state,
    fun m => (r.hold m).trans (d.hold m)⟩

theorem withdraw_dropped (s : State) (n : Fin 24) (hf : (s.slot n).heatGrant = false) : Dropped n s (s.withdraw n) := by
  have q := (Quiet.refl (s.removeRequest n)).tidyStamp
  exact ⟨fun h => removeRequest_asked n ((q.asked n).1 h), (q.flag n).trans hf, q.state n, q.hold⟩

theorem Law.dropHeat {x : Fin 24 → Prop} (h : Law x s) (n : Fin 24) (b : Bool := true) :
    Law x (s.dropHeat n b) ∧ Dropped n s (s.dropHeat n b) := by
  unfold State.dropHeat
  have q : Quiet s (s.modSlot n fun y => { y with heatReq := false }) :=
    (Quiet.refl s).modSlot n (fun y => { y with heatReq := false }) fun _ => ⟨rfl, rfl⟩
  have k := h.quiet q
  generalize s.modSlot n (fun y => { y with heatReq := false }) = t at *
  dsimp only
  split
  · split
    · have d := giveUpGrant_dropped t n
      exact ⟨k.giveUpGrant n, d.asked, d.flag, d.state.trans (q.state n), fun m => (d.hold m).trans (q.hold m)⟩
    · have d := dropGrant_dropped t n
      exact ⟨k.dropGrant n, d.asked, d.flag, d.state.trans (q.state n), fun m => (d.hold m).trans (q.hold m)⟩
  · next hf =>
    have hf : (t.slot n).heatGrant = false := Bool.eq_false_iff.2 hf
    have d := withdraw_dropped t n hf
    exact ⟨k.withdraw hf, d.asked, d.flag, d.state.trans (q.state n), fun m => (d.hold m).trans (q.hold m)⟩

theorem slotsOf_restamped (k : Nat) (l : List HeatRequest) : slotsOf (restamped k l) = slotsOf l := by
  induction l generalizing k with
  | nil => rfl
  | cons r l ih => simpa [restamped, slotsOf] using ih (k + 1)

theorem hasRequest_iff (s : State) (n : Fin 24) : s.hasRequest n = true ↔ s.asked n := by
  simp [State.hasRequest, State.asked, State.granted, State.waiting]

/-- A new request of a RUNNING slot. -/
theorem Law.placeNew (h : Whole s) {n : Fin 24} (hr : (s.slot n).state = .running) :
    Whole (s.placeNew n) ∧ (∀ m, (s.placeNew n).slot m = s.slot m) ∧ (∀ m, (s.placeNew n).hold m = s.hold m) := by
  unfold State.placeNew
  split
  · exact ⟨h, fun _ => rfl, fun _ => rfl⟩
  · exact ⟨h, fun _ => rfl, fun _ => rfl⟩
  · next c hc hq =>
    have hu : ¬ s.asked n := fun k => by
      have := (hasRequest_iff s n).2 k
      simp_all
    dsimp only
    have key (t : State) (hg : t.granted = s.granted) (hw : t.waiting.Perm (n :: s.waiting)) (hs : ∀ m, t.slot m = s.slot m)
        (hh : ∀ m, t.hold m = s.hold m) : Whole t := by
      refine ⟨?_, fun m _ => ?_, fun m _ => ?_⟩
      · unfold State.oneRequest
        rw [hg, ((hw.append_left _).trans List.perm_middle).nodup_iff, List.nodup_cons]
        exact ⟨by simpa [State.asked] using hu, h.once⟩
      · obtain ⟨h1, h2, h3⟩ := h.heat m id
        refine ⟨by rw [hs, hg, h1], by rw [hs, hg]; exact h2, ?_⟩
        rw [hs, hw.mem_iff, List.mem_cons]
        rintro (e | k)
        · exact .inl (e ▸ hr)
        · exact h3 k
      · rw [hs, hh]; exact h.busy m id
    have hp (k : Nat) : (slotsOf (placeRequest (fun c => (s.govClass c).priority) ⟨n, c, k, 0, false⟩ s.gov.waits)).Perm
        (n :: s.waiting) := (placeRequest_perm _ _ _).map _
    split
    · exact ⟨key _ rfl (hp _) (fun _ => rfl) fun _ => rfl, fun _ => rfl, fun _ => rfl⟩
    · refine ⟨key _ ?_ ?_ (fun _ => rfl) fun _ => rfl, fun _ => rfl, fun _ => rfl⟩
      · exact slotsOf_restamped _ _
      · rw [waiting_eq]
        show (slotsOf (restamped 0 _)).Perm _
        rw [slotsOf_restamped]
        exact hp _

/-- Heat asked for by RUNNING slots. -/
theorem Law.askHeat (h : Whole s) (ns : List (Fin 24)) (hr : ∀ n ∈ ns, (s.slot n).state = .running) :
    Whole (s.askHeat ns) := by
  unfold State.askHeat
  split
  · exact h
  · have k : ∀ (l : List (Fin 24)) (t : State), Whole t → (∀ m, t.slot m = s.slot m) → (∀ m, t.hold m = s.hold m) →
        (∀ n ∈ l, (s.slot n).state = .running) → Whole (l.foldl (fun s n => s.placeNew n) t) ∧
          ∀ m, (l.foldl (fun s n => s.placeNew n) t).hold m = s.hold m := by
      intro l
      induction l with
      | nil => exact fun t ht _ hh _ => ⟨ht, hh⟩
      | cons n l ih =>
        intro t ht hs hh hl
        obtain ⟨p1, p2, p3⟩ := Law.placeNew ht (n := n) (by rw [hs]; exact hl n (by simp))
        exact ih _ p1 (fun m => (p2 m).trans (hs m)) (fun m => (p3 m).trans (hh m)) fun m hm => hl m (by simp [hm])
    obtain ⟨k1, k2⟩ := k ns s h (fun _ => rfl) (fun _ => rfl) hr
    dsimp only
    generalize ns.foldl (fun s n => s.placeNew n) s = t at *
    have r := reckon_reckoned t false true false
    have w := r.law _ k1
    generalize t.reckon false true false = u at *
    have hb : ∀ n ∈ ns, (u.hold n).isSome = true := fun n hn => by
      rw [r.hold, k2, h.busy n id, hr n hn]; rfl
    clear k k1 k2 r
    induction ns generalizing u with
    | nil => exact w
    | cons n l ih =>
      have e : Whole (if (u.slot n).heatGrant = true then u else u.enter n .awaitPower) ∧
          ∀ m, ((if (u.slot n).heatGrant = true then u else u.enter n .awaitPower).hold m) = u.hold m := by
        split
        · exact ⟨w, fun _ => rfl⟩
        · next hf =>
          refine ⟨⟨?_, fun m _ => ?_, fun m _ => ?_⟩, fun m => State.enter_hold _ _ _⟩
          · simpa only [State.oneRequest, State.enter_granted, State.enter_waiting] using w.once
          · obtain ⟨h1, h2, h3⟩ := w.heat m id
            simp only [State.heatAt, State.enter_granted, State.enter_waiting, State.enter_flag, State.enter_state]
            by_cases q : n = m
            · subst q
              have hn : n ∉ u.granted := fun k => hf (h1.2 k)
              exact ⟨h1, fun k => absurd k hn, fun _ => .inr (by simp)⟩
            · simp only [q, if_false]; exact ⟨h1, h2, h3⟩
          · rw [State.enter_hold, State.enter_state]
            split
            · next q => rw [← q, hb n (by simp)]; rfl
            · exact w.busy m id
      rw [List.foldl_cons]
      by_cases hl : l.isEmpty = true
      · rw [List.isEmpty_iff.1 hl]; exact e.1
      · exact ih (fun m hm => hr m (by simp [hm])) (by simpa using hl) _ e.1 fun m hm => by
          rw [e.2]; exact hb m (by simp [hm])

end Sys2Proof.Machine
end

