-- ==== Sys2Proof/Laws/Cycles.lean ====
section
/-!
SUPPORT. Every act at the slots keeps the two laws of Laws/Heat.lean at every slot (`Whole`): the waitlist, a start, the cycle end, a
run, suspension and resumption, faults, reports and latched events. One lemma per operation.
-/

namespace Sys2Proof.Machine

variable {s : State}

theorem Whole.ite {c : Prop} [Decidable c] {t u : State} (ht : c → Whole t) (hu : ¬ c → Whole u) :
    Whole (if c then t else u) := by
  split
  · exact ht ‹_›
  · exact hu ‹_›

theorem Whole.foldl {α : Type} {f : State → α → State} (hf : ∀ s x, Whole s → Whole (f s x)) (l : List α) (s : State)
    (h : Whole s) : Whole (l.foldl f s) := by
  induction l generalizing s with
  | nil => exact h
  | cons x l ih => exact ih _ (hf _ _ h)

theorem Whole.overSlots {f : Fin 24 → State → State} (h : Whole s) (hf : ∀ n s, Whole s → Whole (f n s)) :
    Whole (overSlots f s) := Whole.foldl (fun s n => hf n s) _ _ h

/-- A slot that is neither running heat nor busy. -/
def SlotState.spare (st : SlotState) : Prop := st.cold ∧ st.busy = false

theorem spare_idle : SlotState.idle.spare := by simp [SlotState.spare, SlotState.cold, SlotState.busy]
theorem spare_reserved : SlotState.reserved.spare := by simp [SlotState.spare, SlotState.cold, SlotState.busy]
theorem spare_outOfService : SlotState.outOfService.spare := by simp [SlotState.spare, SlotState.cold, SlotState.busy]
theorem spare_collect : SlotState.collect.spare := by simp [SlotState.spare, SlotState.cold, SlotState.busy]
theorem spare_finishing : SlotState.finishing.spare := by simp [SlotState.spare, SlotState.cold, SlotState.busy]
theorem spare_faulted : SlotState.faulted.spare := by simp [SlotState.spare, SlotState.cold, SlotState.busy]
theorem spare_unconfigured : SlotState.unconfigured.spare := by simp [SlotState.spare, SlotState.cold, SlotState.busy]

/-- A spare slot enters a state that is not busy. -/
theorem Whole.spare (h : Whole s) {n : Fin 24} {st : SlotState} (hs : (s.slot n).state.spare) (hb : st.busy = false) :
    Whole (s.enter n st) ∧ ((s.enter n st).slot n).state = st :=
  ⟨h.move hs.1 (hb.trans hs.2.symm), by rw [State.enter_state, if_pos rfl]⟩

/-- A spare slot enters a state that is not busy, and the governor is told. -/
theorem Whole.spareTold (h : Whole s) {n : Fin 24} {st : SlotState} (hs : (s.slot n).state.spare) (hb : st.busy = false) :
    Whole (s.enterTold n st) ∧ ((s.enterTold n st).slot n).state = st :=
  ⟨h.told hs.1 (hb.trans hs.2.symm), h.told_state id st hs.1⟩

/-! ### The waitlist -/

theorem Whole.reserve (h : Whole s) {n : Fin 24} (hs : (s.slot n).state.spare) (c : Fin 4) (e : WaitEntry)
    (q : List WaitEntry) : Whole (s.reserve n c e q) := by
  unfold State.reserve
  have k : Quiet s ((s.setQueue c q).modSlot n fun x => { x with
      reservation := some ⟨e.card, e.account, e.joined, (s.setQueue c q).settings.room.window * 60⟩ }) := by
    refine Quiet.modSlot ((Quiet.refl s).setQueue c q) n _ ?_
    exact fun _ => ⟨rfl, rfl⟩
  dsimp only
  generalize (s.setQueue c q).modSlot n (fun x => { x with
      reservation := some ⟨e.card, e.account, e.joined, (s.setQueue c q).settings.room.window * 60⟩ }) = t at *
  have w := Law.quiet h k
  rw [← k.state n] at hs
  have k2 := Whole.ite (c := (t.slot n).state = .reserved) (t := t.postSlot n) (u := t.enter n .reserved)
    (fun _ => Law.quiet w ((Quiet.refl t).postSlot n)) fun _ => (Whole.spare w hs rfl).1
  exact Law.quiet k2 (((Quiet.refl _).post _).showLasting n _)

theorem Whole.offer (h : Whole s) {n : Fin 24} (hs : (s.slot n).state.spare) : Whole (s.offer n) := by
  unfold State.offer; split
  · exact h
  · split
    · exact h
    · exact h.reserve hs _ _ _

theorem Whole.enterIdle (h : Whole s) {n : Fin 24} (hs : (s.slot n).state.spare) : Whole (s.enterIdle n) := by
  obtain ⟨k, e⟩ := h.spare hs (st := .idle) rfl
  exact Whole.offer k (by rw [e]; exact spare_idle)

theorem Whole.handOn (h : Whole s) {n : Fin 24} (hs : (s.slot n).state.spare) : Whole (s.handOn n) := by
  unfold State.handOn
  have q := (Quiet.refl s).dropReservation n
  have k := Law.quiet h q
  rw [← q.state n] at hs
  dsimp only
  split
  · exact Whole.enterIdle k hs
  · split
    · exact Whole.enterIdle k hs
    · exact Whole.reserve k hs _ _ _

theorem idleSlot_state {c : Fin 4} {n : Fin 24} (h : s.idleSlot c = some n) : (s.slot n).state = .idle := by
  have := List.find?_some h
  simp at this
  exact this.1

theorem reservedFor_state {c : Fin 4} {k : Nat} {n : Fin 24} (h : s.reservedFor c k = some n) :
    (s.slot n).state = .reserved := by
  have := List.find?_some h
  simp at this
  exact this.1

theorem Whole.giveBack (h : Whole s) (c : Fin 4) (r : Reservation) : Whole (s.giveBack c r) := by
  unfold State.giveBack
  dsimp only
  have q : Quiet s (if 8 ≤ (s.queue c).length then
      match (s.queue c).getLast? with
      | some e => (s.setQueue c (s.queue c).dropLast).post (.waitlistDropped e.card c)
      | none => s
    else s) := by
    refine Quiet.ite ?_ (Quiet.refl s)
    split
    · exact ((Quiet.refl s).setQueue _ _).post _
    · exact Quiet.refl s
  generalize (if 8 ≤ (s.queue c).length then
      match (s.queue c).getLast? with
      | some e => (s.setQueue c (s.queue c).dropLast).post (.waitlistDropped e.card c)
      | none => s
    else s) = t at *
  have k (l : List WaitEntry) : Whole (t.setQueue c l) := Law.quiet h (q.setQueue c l)
  split
  · next n hn => exact Whole.offer (k _) (idleSlot_state hn ▸ spare_idle)
  · exact k _

theorem Whole.losePlaces (h : Whole s) (card : Nat) : Whole (s.losePlaces card) := by
  unfold State.losePlaces
  refine Whole.overSlots (Law.quiet h (Quiet.foldl (fun _ _ c k => k.setQueue c _) _ _ (Quiet.refl s))) fun n t k => ?_
  exact Whole.ite (fun e => Whole.handOn k (e.1 ▸ spare_reserved)) fun _ => k

theorem Whole.clearWaitlist (h : Whole s) : Whole s.clearWaitlist := by
  unfold State.clearWaitlist
  refine Whole.overSlots (Law.quiet h ((Quiet.refl s).change rfl rfl rfl)) fun n t k => ?_
  refine Whole.ite (fun e => ?_) fun _ => k
  have q := (Quiet.refl t).dropReservation n
  exact Whole.enterIdle (Law.quiet k q) (by rw [q.state, e]; exact spare_reserved)

theorem Whole.toldOfStart (h : Whole s) (c : Fin 4) (card : Nat) : Whole (s.toldOfStart c card) := by
  unfold State.toldOfStart
  have k := Law.quiet h ((Quiet.refl s).setQueue c (withoutCard card (s.queue c)))
  dsimp only
  split
  · next n hn => exact Whole.handOn k (reservedFor_state hn ▸ spare_reserved)
  · exact k

/-! ### A start -/

theorem Whole.placeHold (h : Whole s) {n : Fin 24} (hs : (s.slot n).state.spare) (c : Fin 4) (i : Nat) (x : Account)
    (card : Nat) : Whole (s.placeHold n c i x card) := by
  unfold State.placeHold
  dsimp only
  refine Whole.toldOfStart (Law.quiet ?_ ((Quiet.refl _).showLasting n _)) c card
  obtain ⟨hu, hf⟩ := h.unasked id hs.1
  have k (y : Hold) : Law (fun m => False ∨ m = n) (s.setHold n (some y)) := by
    refine ⟨h.once, fun m _ => h.heat m id, fun m hm => ?_⟩
    rw [State.hold_setHold, if_neg (fun e => hm (.inr e.symm))]
    exact h.busy m id
  refine Law.enter (Law.quiet (k _) (Quiet.modSlot (((Quiet.refl _).setAccount i _).write _) n _ ?_))
    ?_ ?_ ?_
  · exact fun _ => ⟨rfl, rfl⟩
  · exact hu
  · rw [State.slot_modSlot, if_pos rfl]; exact hf
  · show ((s.setHold n _).hold n).isSome = true
    rw [State.hold_setHold, if_pos rfl]; rfl

theorem Whole.startTap (h : Whole s) {n : Fin 24} (hs : (s.slot n).state.spare) (card : Nat) : Whole (s.startTap n card) := by
  unfold State.startTap
  have b (t : State) (k : Quiet s t) (c : DisplayCode) : Whole (t.showBrief n c 0) := Law.quiet h (k.showBrief n c 0)
  have r : ∀ i, Quiet s (if (s.account i).cap = 0 then s else s.rollAccount i) :=
    fun i => Quiet.ite (Quiet.refl s) ((Quiet.refl s).rollAccount i)
  split
  · exact h
  · split
    · exact b s (Quiet.refl s) _
    · dsimp only
      refine Whole.ite (fun _ => b s (Quiet.refl s) _) fun _ => Whole.ite (fun _ => b s (Quiet.refl s) _) fun _ =>
        Whole.ite (fun _ => b s (Quiet.refl s) _) fun _ => Whole.ite (fun _ => b _ (r _) _) fun _ =>
        Whole.ite (fun _ => b _ (r _) _) fun _ => h.placeHold hs _ _ _ _

/-! ### The room and the cycle end -/

theorem Whole.enterRoom (h : Whole s) (r : RoomState) (c : RoomCause) : Whole (s.enterRoom r c) := by
  unfold State.enterRoom
  have q := (Quiet.refl s).changeRoom r c
  exact Whole.ite (fun _ => Law.quiet h q.openDisplays) fun _ => Whole.clearWaitlist (Law.quiet h q)

theorem Whole.followMode (h : Whole s) (c : RoomCause) : Whole (s.followMode c) := by
  unfold State.followMode
  split
  · exact h
  · exact h
  · exact Whole.ite (fun _ => h) fun _ => h.enterRoom _ _
  · exact Whole.ite (fun _ => h) fun _ => h.enterRoom _ _
  · exact Whole.ite (fun _ => h) fun _ => h.enterRoom _ _

theorem Whole.holdsEnded (h : Whole s) : Whole s.holdsEnded := by
  unfold State.holdsEnded
  exact Whole.ite (fun _ => h.enterRoom _ _) fun _ => h

/-- A settlement empties the slot's hold entry and touches no other's. -/
theorem settle_hold (s : State) (n m : Fin 24) (r : Reason) (f : Option (FaultCode × Option Nat)) :
    (s.settle n r f).hold m = if n = m then none else s.hold m := by
  unfold State.settle
  split
  · next e => split
              · next k => rw [← k, e]
              · rfl
  · show ((s.setHold n none).hold m) = _
    rw [State.hold_setHold]

theorem settle_rest (s : State) (n : Fin 24) (r : Reason) (f : Option (FaultCode × Option Nat)) :
    (s.settle n r f).slots = s.slots ∧ (s.settle n r f).gov = s.gov := by
  unfold State.settle; split <;> exact ⟨rfl, rfl⟩

/-- The entry of a cycle end is the plain entry, or that with the reckoning after it (R6, R104). -/
theorem enterEnded_cases (s : State) (n : Fin 24) (st : SlotState) (b : Bool) :
    s.enterEnded n st b = s.enter n st ∨ s.enterEnded n st b = s.enterTold n st := by
  unfold State.enterEnded
  dsimp only
  split
  · exact .inr rfl
  · exact .inl rfl

/-- What a cycle end does to both laws (R6). -/
theorem Whole.cycleEnd (h : Whole s) (n : Fin 24) (r : Reason) (f : Option (FaultCode × Option Nat)) {st : SlotState}
    (hb : st.busy = false) (b : Bool := true) : Whole (s.cycleEnd n r f st b) := by
  unfold State.cycleEnd
  split
  · exact h
  · obtain ⟨e1, e2⟩ := settle_rest s n r f
    have k : Law (fun m => False ∨ m = n) (s.settle n r f) := by
      refine ⟨?_, fun m _ => ?_, fun m hm => ?_⟩
      · simpa only [State.oneRequest, State.granted, State.waiting, e2] using h.once
      · simpa only [State.heatAt, State.granted, State.waiting, e2, State.slot, e1] using h.heat m id
      · rw [settle_hold, if_neg (fun e => hm (.inr e.symm))]
        simpa only [State.slot, e1] using h.busy m id
    have q := (Quiet.refl (s.settle n r f)).post (.cycleEnd n s.settlement.next)
    obtain ⟨k2, d⟩ := (k.quiet q).dropHeat n b
    have hh : ((((s.settle n r f).post (.cycleEnd n s.settlement.next)).dropHeat n b).hold n).isSome = false := by
      rw [d.hold, q.hold, settle_hold, if_pos rfl]; rfl
    dsimp only
    generalize ((s.settle n r f).post (.cycleEnd n s.settlement.next)).dropHeat n b = t at *
    have q3 : Quiet t (t.modSlot n fun x => { x with warning := false, resume := none }) :=
      (Quiet.refl t).modSlot n (fun x => { x with warning := false, resume := none }) fun _ => ⟨rfl, rfl⟩
    have k3 := k2.quiet q3
    have hu := mt (q3.asked n).1 d.asked
    have hf := (q3.flag n).trans d.flag
    have hn := (q3.hold n).trans hh
    generalize t.modSlot n (fun x => { x with warning := false, resume := none }) = u at *
    have into (st : SlotState) (hb : st.busy = false) : Whole (u.enter n st) :=
      Law.enter k3 hu hf (hn.trans hb.symm)
    have last : Whole (u.enterEnded n st b) := by
      rcases enterEnded_cases u n st b with e | e <;> rw [e]
      · exact into st hb
      · exact (into st hb).reckon _ _ _
    refine Whole.holdsEnded (Whole.ite (fun _ => ?_) fun _ => last)
    exact Whole.offer (into .idle rfl) (by rw [State.enter_state, if_pos rfl]; exact spare_idle)

/-! ### Running and recovery -/

theorem startRunning_quiet (s : State) (n : Fin 24) : ∃ t, Quiet s t ∧ s.startRunning n = (t.enter n .running).pointA n := by
  unfold State.startRunning
  dsimp only
  split
  · exact ⟨_, (Quiet.refl s).modSlot n (fun x => { x with run := 0, phase := x.view.phase, heatReq := x.view.heat })
      fun _ => ⟨rfl, rfl⟩, rfl⟩
  · refine ⟨_, Quiet.modSlot (Quiet.refl s) n _ ?_, rfl⟩
    exact fun _ => ⟨rfl, rfl⟩

theorem Whole.startRunning (h : Whole s) {n : Fin 24} (hc : (s.slot n).state.cold) (hb : (s.slot n).state.busy = true) :
    Whole (s.startRunning n) ∧ ((s.startRunning n).slot n).state = .running := by
  obtain ⟨t, q, e⟩ := startRunning_quiet s n
  have k := Law.quiet h q
  rw [← q.state n] at hc hb
  have p := (Quiet.refl (t.enter n .running)).pointA n
  rw [e]
  exact ⟨Law.quiet (Law.move k hc (hb ▸ rfl)) p, (p.state n).trans (by rw [State.enter_state, if_pos rfl])⟩

theorem Whole.askIfWanted (h : Whole s) {n : Fin 24} (hr : (s.slot n).state = .running) : Whole (s.askIfWanted n) := by
  unfold State.askIfWanted
  exact Whole.ite (fun _ => Law.askHeat h [n] (by simpa using hr)) fun _ => h

theorem cold_locking : SlotState.locking.cold := by simp [SlotState.cold]
theorem cold_suspended : SlotState.suspended.cold := by simp [SlotState.cold]
theorem cold_recovering : SlotState.recovering.cold := by simp [SlotState.cold]
theorem cold_armed : SlotState.armed.cold := by simp [SlotState.cold]

theorem Whole.enterRunning (h : Whole s) {n : Fin 24} (he : (s.slot n).state = .locking) : Whole (s.enterRunning n) := by
  obtain ⟨k, e⟩ := h.startRunning (n := n) (he ▸ cold_locking) (he ▸ rfl)
  exact k.askIfWanted e

theorem Whole.recoverRunning (h : Whole s) {n : Fin 24} (he : (s.slot n).state = .recovering) :
    Whole (s.recoverRunning n) := by
  unfold State.recoverRunning
  have q := (Quiet.refl s).recoverCounters n
  have k := Law.quiet h q
  rw [← q.state n] at he
  generalize s.recoverCounters n = t at *
  dsimp only
  refine Whole.ite (fun _ => ?_) fun _ => ?_
  · have q2 : Quiet t (t.modSlot n fun x => { x with resume := some .running }) :=
      (Quiet.refl t).modSlot n (fun x => { x with resume := some .running }) fun _ => ⟨rfl, rfl⟩
    have k2 := Law.quiet k q2
    rw [← q2.state n] at he
    generalize t.modSlot n (fun x => { x with resume := some .running }) = u at *
    have w : Whole (u.enter n .suspended) := Law.move k2 (he ▸ cold_recovering) (he ▸ rfl)
    exact Whole.ite (fun _ => Whole.cycleEnd w _ _ _ rfl) fun _ => w
  · exact Whole.askIfWanted (Law.move k (he ▸ cold_recovering) (he ▸ rfl))
      (by rw [State.enter_state, if_pos rfl])

theorem Whole.recover (h : Whole s) {n : Fin 24} (he : (s.slot n).state = .recovering) : Whole (s.recover n) := by
  unfold State.recover
  dsimp only
  split
  · exact Whole.ite (fun _ => h.recoverRunning he) fun _ => h.cycleEnd _ _ _ rfl
  all_goals exact h.cycleEnd _ _ _ rfl

theorem Whole.confirmUnlock (h : Whole s) {n : Fin 24} (hs : (s.slot n).state.spare) : Whole (s.confirmUnlock n) := by
  unfold State.confirmUnlock
  obtain ⟨k, e⟩ := h.spareTold hs (st := .collect) rfl
  exact Whole.ite (fun _ => Whole.ite (fun _ => Whole.enterIdle k (by rw [e]; exact spare_collect)) fun _ => k)
    fun _ => (h.spareTold hs rfl).1

/-! ### Faults -/

theorem Whole.takeOut (h : Whole s) {n : Fin 24} (hs : (s.slot n).state.spare) : Whole (s.takeOut n) := by
  unfold State.takeOut
  split
  · have q := (Quiet.refl s).dropReservation n
    rw [← q.state n] at hs
    exact Whole.giveBack (Whole.spare (Law.quiet h q) hs rfl).1 _ _
  · exact (h.spare hs rfl).1

theorem Whole.followJoin (h : Whole s) (n : Fin 24) : Whole (s.followJoin n) := by
  unfold State.followJoin
  split
  · next e => exact h.takeOut (e ▸ spare_idle)
  · next e => exact h.takeOut (e ▸ spare_reserved)
  · next e => exact h.takeOut (e ▸ spare_collect)
  all_goals exact Law.quiet h ((Quiet.refl s).postSlot n)

theorem Whole.joinCause (h : Whole s) (n : Fin 24) (m : Cause) : Whole (s.joinCause n m) := by
  unfold State.joinCause
  exact Whole.ite (fun _ => h) fun _ =>
    Whole.followJoin (Law.quiet h (((Quiet.refl s).setCause n m true).writeCauses n m)) n

theorem Whole.joinLost (h : Whole s) (n : Fin 24) : Whole (s.joinLost n) := by
  unfold State.joinLost
  refine Whole.ite (fun _ => h) fun _ => ?_
  have k := Law.quiet h ((Quiet.refl s).setCause n .lost true)
  generalize s.setCause n .lost true = t at *
  dsimp only
  split
  · exact k
  · exact Law.quiet k ((Quiet.refl t).postSlot n)
  · next e => exact Whole.takeOut k (e ▸ spare_idle)
  · next e => exact Whole.takeOut k (e ▸ spare_reserved)
  · next e => exact Whole.takeOut k (e ▸ spare_collect)
  · next e => exact Whole.takeOut k (e ▸ spare_finishing)
  · next e => exact Whole.takeOut k (e ▸ spare_faulted)
  all_goals exact Whole.cycleEnd k _ _ _ rfl _

theorem Whole.removeCause (h : Whole s) (n : Fin 24) (m : Cause) : Whole (s.removeCause n m) := by
  unfold State.removeCause
  have k := Law.quiet h ((((Quiet.refl s).setCause n m false).writeCauses n m).postSlot n)
  dsimp only
  generalize ((s.setCause n m false).writeCauses n m).postSlot n = t at *
  exact Whole.ite (fun _ => h) fun _ => Whole.ite (fun e => Whole.enterIdle k (e.1 ▸ spare_outOfService)) fun _ => k

theorem Whole.faultEnd (h : Whole s) (n : Fin 24) (c : FaultCode) (e : Option Nat) : Whole (s.faultEnd n c e) := by
  unfold State.faultEnd
  exact Whole.ite (fun _ => h.cycleEnd _ _ _ rfl) fun _ => h

theorem Whole.unlockFailed (h : Whole s) {n : Fin 24} (hs : (s.slot n).state.spare) : Whole (s.unlockFailed n) := by
  unfold State.unlockFailed
  dsimp only
  have q : Quiet s (if (s.slot n).causes.lockout = true then s
      else (s.setCause n .lockout true).writeCauses n .lockout) :=
    Quiet.ite (Quiet.refl s) (((Quiet.refl s).setCause n _ true).writeCauses n _)
  rw [← q.state n] at hs
  exact (Whole.spareTold (Law.quiet h q) hs rfl).1

/-- UNLOCK_FAIL is raised against a slot in FINISHING or FAULTED alone (R28). -/
theorem Whole.faultAct (h : Whole s) {n : Fin 24} {c : FaultCode} (hs : c = .unlockFail → (s.slot n).state.spare)
    (e : Option Nat) (v : Severity) : Whole (s.faultAct n c e v) := by
  unfold State.faultAct
  split
  · exact h
  · exact h.faultEnd _ _ _
  · exact Whole.ite (fun k => h.unlockFailed (hs k)) fun _ => (h.faultEnd _ _ _).joinCause n _
  · exact h.joinLost n

theorem Whole.raise (h : Whole s) {src : Option (Fin 24)} {c : FaultCode}
    (hs : c = .unlockFail → ∀ n, src = some n → (s.slot n).state.spare) (e : Option Nat) : Whole (s.raise src c e) := by
  unfold State.raise
  dsimp only
  have q : Quiet s ({ s with faults := (s.faults.enter src c e s.clock).1 }.post (.faultRaised src c
    (s.faults.enter src c e s.clock).2.1.errorCode (s.faults.enter src c e s.clock).2.1.occurrences
    (s.faults.enter src c e s.clock).2.1.severity (s.faults.enter src c e s.clock).2.2)) :=
    Quiet.post (Quiet.change (t := { s with faults := (s.faults.enter src c e s.clock).1 }) (Quiet.refl s) rfl rfl rfl) _
  generalize ({ s with faults := (s.faults.enter src c e s.clock).1 }.post (.faultRaised src c
    (s.faults.enter src c e s.clock).2.1.errorCode (s.faults.enter src c e s.clock).2.1.occurrences
    (s.faults.enter src c e s.clock).2.1.severity (s.faults.enter src c e s.clock).2.2)) = t at *
  have k := Law.quiet h q
  cases src with
  | none => exact Whole.ite (fun _ => Law.quiet k ((Quiet.refl t).latch _ _)) fun _ => k
  | some n =>
    have w := Whole.faultAct k (n := n) (fun hc => by rw [q.state n]; exact hs hc n rfl) e
      (s.faults.enter (some n) c e s.clock).2.1.severity
    exact Whole.ite (fun _ => Law.quiet w ((Quiet.refl _).latch _ _)) fun _ => w

/-- A raise of any other code. -/
theorem Whole.raised (h : Whole s) (src : Option (Fin 24)) {c : FaultCode} (hc : c ≠ .unlockFail) (e : Option Nat) :
    Whole (s.raise src c e) := h.raise (fun k => absurd k hc) e

theorem Whole.releaseLockout (h : Whole s) (n : Fin 24) : Whole (s.releaseLockout n) := by
  unfold State.releaseLockout
  exact Whole.ite (fun _ => h.removeCause n _) fun _ => h

theorem Whole.loseSlots (h : Whole s) (t : Fin 16) : Whole (s.loseSlots t) := by
  unfold State.loseSlots State.reckonAfter
  have k : Whole ((s.slotsOn t).foldl (fun s n => s.raise (some n) .terminalLost) s) :=
    Whole.foldl (fun _ n k => Whole.raised k (some n) (by decide) _) _ _ h
  exact Law.reckon k _ _ _

theorem Whole.regainSlot (h : Whole s) (n : Fin 24) : Whole (s.regainSlot n) :=
  Whole.removeCause (Law.quiet h ((Quiet.refl s).latch _ _)) n _

theorem Whole.regainSlots (h : Whole s) (t : Fin 16) : Whole (s.regainSlots t) := by
  unfold State.regainSlots
  have k : Whole ((s.slotsOn t).foldl (fun s n => s.regainSlot n) s) := Whole.foldl (fun _ n k => k.regainSlot n) _ _ h
  exact Law.reckon k _ _ _

/-! ### Reports and latched events -/

theorem Whole.reportFaults (h : Whole s) (n : Fin 24) (b v : View) : Whole (s.reportFaults n b v) := by
  unfold State.reportFaults
  have k := Whole.ite (c := v.forced ∧ !b.forced ∧ (s.slot n).state.forcible)
    (fun _ => h.raised (some n) (c := .doorForced) (by decide) none) fun _ => h
  exact Whole.ite (fun _ => Whole.raised k _ (by decide) _) fun _ => k

theorem Whole.heatChange (h : Whole s) (n : Fin 24) (w : Bool) : Whole (s.heatChange n w) := by
  unfold State.heatChange
  dsimp only
  split
  · next e _ => exact Law.askHeat h [n] (by simpa using e)
  · exact Whole.ite (fun _ => Law.giveUpGrant h n) fun _ => h
  · next e _ =>
    obtain ⟨h1, h2, -⟩ := h.heat n id
    have hf : (s.slot n).heatGrant = false := Bool.eq_false_iff.2 fun k => by
      have := h2 (h1.1 k); rw [e] at this; cases this
    have d := withdraw_dropped s n hf
    refine Law.enter ((Law.withdraw h hf).weaken fun _ k => k.elim) d.asked d.flag ?_
    rw [d.hold, h.busy n id, e]; rfl
  · exact h

theorem Whole.lockingReport (h : Whole s) {n : Fin 24} (he : (s.slot n).state = .locking) (v : View) :
    Whole (s.lockingReport n v) := by
  unfold State.lockingReport
  have k : Whole (s.enterTold n .armed) := Law.told h (he ▸ cold_locking) (he ▸ rfl)
  split
  · exact h.enterRunning he
  · exact h
  · exact Law.quiet k ((Quiet.refl _).showLasting n _)
  · exact Law.quiet k ((Quiet.refl _).showLasting n _)
  · exact h
  · exact h

theorem Whole.reportAct (h : Whole s) (n : Fin 24) (w : Bool) (v : View) : Whole (s.reportAct n w v) := by
  unfold State.reportAct
  split
  · next e => exact h.lockingReport e v
  · exact Whole.ite (fun _ => Whole.ite (fun _ => h.cycleEnd _ _ _ rfl) fun _ => h.heatChange n w) fun _ => h
  · exact Whole.ite (fun _ => Whole.ite (fun _ => h.cycleEnd _ _ _ rfl) fun _ => h.heatChange n w) fun _ => h
  · next e => exact Whole.ite (fun _ => h.confirmUnlock (e ▸ spare_finishing)) fun _ => h
  · next e => exact Whole.ite (fun _ => h.confirmUnlock (e ▸ spare_faulted)) fun _ => h
  · next e => exact Whole.ite (fun _ => h.enterIdle (e ▸ spare_collect)) fun _ => h
  all_goals exact h

theorem Whole.actOn (h : Whole s) (n : Fin 24) (w : Bool) (b v : View) : Whole (s.actOn n w b v) := by
  unfold State.actOn
  have k := h.reportFaults n b v
  exact Whole.ite (fun _ => k.reportAct n w v) fun _ => k

theorem Whole.report (h : Whole s) (n : Fin 24) (b v : View) : Whole (s.report n b v) := by
  unfold State.report
  have q := ((Quiet.refl s).takeView n v).latchReport n v
  have k := Law.quiet h q
  have e := q.state n
  dsimp only
  generalize (s.takeView n v).latchReport n v = t at *
  exact Whole.ite (fun r => Whole.actOn (Whole.recover k (e.trans (by simpa using r))) n _ b v) fun _ => Whole.actOn k n _ b v

theorem Whole.stopPress (h : Whole s) (n : Fin 24) : Whole (s.stopPress n) := by
  unfold State.stopPress
  split
  · exact h.cycleEnd _ _ _ rfl
  · exact h.cycleEnd _ _ _ rfl
  · exact h.cycleEnd _ _ _ rfl
  · exact h.cycleEnd _ _ _ rfl
  · exact h.cycleEnd _ _ _ rfl
  all_goals exact h

theorem Whole.brief (h : Whole s) (n : Fin 24) (c : DisplayCode) (p : Nat) : Whole (s.showBrief n c p) :=
  Law.quiet h ((Quiet.refl s).showBrief n c p)

theorem Whole.startPress (h : Whole s) (n : Fin 24) : Whole (s.startPress n) := by
  unfold State.startPress
  refine Whole.ite (fun _ => h) fun e => Whole.ite (fun _ => h.brief _ _ _) fun _ =>
    Whole.ite (fun _ => h.brief _ _ _) fun _ => ?_
  have e : (s.slot n).state = .armed := by simpa using e
  split
  · exact h
  · exact Whole.ite (fun _ => Law.told h (e ▸ cold_armed) (e ▸ rfl)) fun _ => h.brief _ _ _

theorem Whole.busyPath (h : Whole s) (n : Fin 24) (card : Nat) : Whole (s.busyPath n card) := by
  unfold State.busyPath
  split
  · exact h
  · split
    · exact h.brief _ _ _
    · split
      · exact h.brief _ _ _
      · exact Law.quiet h (((Quiet.refl s).join _ _).showBrief _ _ _)

theorem Whole.ownTap (h : Whole s) (n : Fin 24) (card : Nat) : Whole (s.ownTap n card) := by
  have k := Law.quiet h ((Quiet.refl s).topUpTap n card)
  unfold State.ownTap
  split
  · exact k
  · exact k
  · exact Whole.ite (fun _ => k) fun _ => h.brief _ _ _
  · exact Whole.ite (fun _ => k) fun _ => h.brief _ _ _
  · exact h.brief _ _ _

theorem Whole.tap (h : Whole s) (n : Fin 24) (card : Nat) : Whole (s.tap n card) := by
  unfold State.tap
  refine Whole.ite (fun _ => h.brief _ _ _) fun _ => ?_
  split
  · next e => exact h.startTap (e ▸ spare_idle) card
  · next e => exact Whole.ite (fun _ => h.startTap (e ▸ spare_reserved) card) fun _ => h.brief _ _ _
  all_goals first
    | exact Whole.ite (fun _ => h.ownTap n card) fun _ => h.busyPath n card
    | exact h.brief _ _ _
    | exact h

theorem Whole.takeEvents (h : Whole s) (n : Fin 24) (r : HalfReply) : Whole (s.takeEvents n r) := by
  unfold State.takeEvents
  have k := Whole.ite (c := r.stop = true) (fun _ => h.stopPress n) fun _ => h
  have m := Whole.ite (c := r.start = true) (fun _ => Whole.startPress k n) fun _ => k
  exact Whole.ite (fun _ => Whole.tap m n _) fun _ => m

theorem Whole.handReport (h : Whole s) (t : Fin 16) (k : Half) (b : Option View) (v : View) :
    Whole (s.handReport t k b v) := by
  unfold State.handReport; split
  · exact h.report _ _ _
  · exact h

theorem Whole.handEvents (h : Whole s) (t : Fin 16) (k : Half) (r : HalfReply) : Whole (s.handEvents t k r) := by
  unfold State.handEvents; split
  · exact h.takeEvents _ _
  · exact h

/-! ### Suspension and resumption -/

theorem clearFlags (l : List (Fin 24)) (s : State) :
    (∀ m, ((l.foldl (fun s n => if (s.slot n).heatGrant then s.setGrant n false else s) s).slot m).state =
      (s.slot m).state) ∧
    (∀ m, m ∈ l → ((l.foldl (fun s n => if (s.slot n).heatGrant then s.setGrant n false else s) s).slot m).heatGrant =
      false) ∧
    (∀ m, (s.slot m).heatGrant = false →
      ((l.foldl (fun s n => if (s.slot n).heatGrant then s.setGrant n false else s) s).slot m).heatGrant = false) ∧
    (l.foldl (fun s n => if (s.slot n).heatGrant then s.setGrant n false else s) s).gov = s.gov ∧
    (l.foldl (fun s n => if (s.slot n).heatGrant then s.setGrant n false else s) s).holds = s.holds := by
  induction l generalizing s with
  | nil => simp
  | cons n l ih =>
    obtain ⟨h1, h2, h3, h4, h5⟩ := ih (if (s.slot n).heatGrant then s.setGrant n false else s)
    have hn : ((if (s.slot n).heatGrant then s.setGrant n false else s).slot n).heatGrant = false := by
      split
      · rw [State.setGrant_flag, if_pos rfl]
      · next k => exact Bool.eq_false_iff.2 k
    refine ⟨fun m => ?_, fun m hm => ?_, fun m hm => ?_, ?_, ?_⟩
    · rw [List.foldl_cons, h1]; split
      · rw [State.setGrant_state]
      · rfl
    · rw [List.foldl_cons]
      rcases List.mem_cons.1 hm with e | k
      · subst e; exact h3 _ hn
      · exact h2 m k
    · rw [List.foldl_cons]
      refine h3 m ?_
      split
      · rw [State.setGrant_flag, hm]; simp
      · exact hm
    · rw [List.foldl_cons, h4]; split <;> rfl
    · rw [List.foldl_cons, h5]; split <;> rfl

/-- The lists and the flags of R117. -/
theorem clearGovernor_facts (s : State) : s.clearGovernor.gov.grants = [] ∧ s.clearGovernor.gov.waits = [] ∧
    (∀ m, (s.clearGovernor.slot m).heatGrant = false) ∧ (∀ m, (s.clearGovernor.slot m).state = (s.slot m).state) ∧
    (∀ m, s.clearGovernor.hold m = s.hold m) := by
  unfold State.clearGovernor Machine.overSlots
  obtain ⟨h1, h2, -, h4, h5⟩ := clearFlags allSlots (s.modGov fun g => { g with grants := [], waits := [], stamp := 0 })
  refine ⟨by rw [h4]; rfl, by rw [h4]; rfl, fun m => h2 m (List.mem_finRange m), h1, fun m => ?_⟩
  simp only [State.hold, h5]; rfl

theorem Whole.clearGovernor (h : Whole s) : Whole s.clearGovernor := by
  obtain ⟨h1, h2, h3, h4, h5⟩ := clearGovernor_facts s
  refine ⟨by simp [State.oneRequest, State.granted, State.waiting, h1, h2], fun n _ => ?_, fun n _ => ?_⟩
  · simp [State.heatAt, State.granted, State.waiting, h1, h2, h3]
  · rw [h5, h4]; exact h.busy n id

theorem Law.unasked_setGrant (h : Whole s) {n : Fin 24} (hu : ¬ s.asked n) : Whole (s.setGrant n false) := by
  refine ⟨h.once, fun m _ => ?_, fun m _ => by rw [State.setGrant_state]; exact h.busy m id⟩
  obtain ⟨h1, h2, h3⟩ := h.heat m id
  refine ⟨?_, by rw [State.setGrant_state]; exact h2, by rw [State.setGrant_state]; exact h3⟩
  rw [State.setGrant_flag]
  show _ ↔ m ∈ s.granted
  split
  · next e => subst e; simpa using fun k => hu (.inl k)
  · exact h1

theorem reckon_empty (s : State) (x y z : Bool) (h : ∀ n, ¬ s.asked n) : ∀ n, ¬ (s.reckon x y z).asked n :=
  fun n k => h n (((reckon_reckoned s x y z).asked n).1 k)

/-- A busy slot with no request is halted (R26). -/
theorem Whole.haltSlot (h : Whole s) {n : Fin 24} (hb : (s.slot n).state.busy = true) (hu : ¬ s.asked n) (r : Resume) :
    Whole (s.haltSlot n r) := by
  unfold State.haltSlot
  have q : Quiet s (s.modSlot n fun x => { x with heatReq := false, resume := some r }) :=
    (Quiet.refl s).modSlot n (fun x => { x with heatReq := false, resume := some r }) fun _ => ⟨rfl, rfl⟩
  have k := Law.quiet h q
  have hu := mt (q.asked n).1 hu
  rw [← q.state n] at hb
  generalize s.modSlot n (fun x => { x with heatReq := false, resume := some r }) = t at *
  have w := Law.unasked_setGrant k hu
  refine Law.enter (w.weaken fun _ k => k.elim) hu ?_ ?_
  · rw [State.setGrant_flag, if_pos rfl]
  · rw [w.busy n id, State.setGrant_state, hb]; rfl

/-! ### What follows a settlement, and a suspension at the slots -/

/-- The state without the slots, the governor, the events and the terminals: what a slot's change of state and a reckoning
leave alone. -/
def State.aside (s : State) : State :=
  { s with slots := State.reset.slots, gov := .start 0, events := ⟨[], 0, 0⟩, terminals := State.reset.terminals }

theorem aside_post (b : EventBody) : (s.post b).aside = s.aside := by
  unfold State.post; split <;> rfl

theorem aside_showLasting (n : Fin 24) (d : Display) : (s.showLasting n d).aside = s.aside := by
  unfold State.showLasting; split <;> rfl

theorem aside_modSlot (n : Fin 24) (f : Slot → Slot) : (s.modSlot n f).aside = s.aside := rfl

theorem aside_modGov (f : Governor → Governor) : (s.modGov f).aside = s.aside := rfl

theorem aside_enter (n : Fin 24) (st : SlotState) : (s.enter n st).aside = s.aside := by
  unfold State.enter
  have e : (s.modSlot n fun x => { x with
      state := st, outputs := outputsOf st x.heatGrant, sense := x.sense.disturb,
      timer := (s.stateSeconds st).map (s.elapsed + ·) }).aside = s.aside := rfl
  dsimp only
  generalize s.modSlot n (fun x => { x with
      state := st, outputs := outputsOf st x.heatGrant, sense := x.sense.disturb,
      timer := (s.stateSeconds st).map (s.elapsed + ·) }) = t at *
  have k : (t.postSlot n).aside = s.aside := (aside_post _).trans e
  split
  · exact k
  · split
    · exact (aside_showLasting _ _).trans k
    · exact k

theorem aside_grantSlot (n : Fin 24) : (s.grantSlot n).aside = s.aside := by
  unfold State.grantSlot
  dsimp only
  split
  · exact aside_enter (s := s.setGrant n true) _ _
  · rfl

theorem aside_revokeSlot (n : Fin 24) : (s.revokeSlot n).aside = s.aside := aside_enter (s := s.setGrant n false) _ _

theorem aside_foldl {α : Type} {f : State → α → State} (hf : ∀ s x, (f s x).aside = s.aside) (l : List α) (s : State) :
    (l.foldl f s).aside = s.aside := by
  induction l generalizing s with
  | nil => rfl
  | cons x l ih => exact (ih _).trans (hf _ _)

theorem aside_tidyStamp : s.tidyStamp.aside = s.aside := by
  unfold State.tidyStamp; split <;> rfl

theorem aside_revoke (fell : Bool) : (s.revoke fell).1.aside = s.aside := by
  unfold State.revoke
  exact aside_foldl (f := fun s (x : HeatRequest) => s.revokeSlot x.slot) (fun _ _ => aside_revokeSlot _) _ _

theorem aside_grantPass (v : List (Fin 24)) : (s.grantPass v).aside = s.aside := by
  unfold State.grantPass
  exact aside_foldl (f := fun s (x : HeatRequest) => s.grantSlot x.slot) (fun _ _ => aside_grantSlot _) _ _

theorem aside_reckon (x y z : Bool) : (s.reckon x y z).aside = s.aside := by
  unfold State.reckon
  dsimp only
  have e1 : (s.modGov fun g => { g with motor := s.motorSum }).aside = s.aside := aside_modGov _
  generalize s.modGov (fun g => { g with motor := s.motorSum }) = t at *
  have e2 : (t.modGov fun g => { g with heat := t.heatBudget }).aside = s.aside := (aside_modGov _).trans e1
  generalize t.modGov (fun g => { g with heat := t.heatBudget }) = u at *
  have e3 := (aside_revoke (s := u) (decide (u.gov.heat < s.gov.heat) || z)).trans e2
  generalize u.revoke (decide (u.gov.heat < s.gov.heat) || z) = r at *
  rw [aside_tidyStamp]
  split
  · exact (aside_grantPass _).trans e3
  · exact e3

theorem aside_enterTold (n : Fin 24) (st : SlotState) : (s.enterTold n st).aside = s.aside :=
  (aside_reckon _ _ _).trans (aside_enter _ _)

theorem aside_dropHeat (n : Fin 24) (b : Bool) : (s.dropHeat n b).aside = s.aside := by
  unfold State.dropHeat
  dsimp only
  split
  · split
    · exact aside_reckon (s := ((s.modSlot n fun y => { y with heatReq := false }).removeRequest n).setGrant n false) _ _ _
    · rfl
  · exact aside_tidyStamp (s := (s.modSlot n fun y => { y with heatReq := false }).removeRequest n)

/-- A state in which a slot's machine is halted: not RUNNING, in AWAIT_POWER or LOCKING. -/
def SlotState.halted (st : SlotState) : Prop := st ≠ .running ∧ st ≠ .awaitPower ∧ st ≠ .locking

/-- From `a` to `s` no request is made, with none to grant no slot is set going, a SUSPENDED room stays so, and no money
moves. -/
structure Tail (a s : State) : Prop where
  asked : ∀ n, s.asked n → a.asked n
  halted : (∀ n, ¬ a.asked n) → ∀ n, (a.slot n).state.halted → (s.slot n).state.halted
  room : a.room.state = .suspended → s.room.state = .suspended
  holds : s.holds = a.holds
  accounts : s.accounts = a.accounts
  settlement : s.settlement = a.settlement

variable {a : State}

theorem Tail.refl (a : State) : Tail a a := ⟨fun _ h => h, fun _ _ h => h, id, rfl, rfl, rfl⟩

theorem Tail.trans {b c : State} (h : Tail a b) (k : Tail b c) : Tail a c :=
  ⟨fun n l => h.asked n (k.asked n l),
    fun l n m => k.halted (fun n x => l n (h.asked n x)) n (h.halted l n m), k.room ∘ h.room, k.holds.trans h.holds,
    k.accounts.trans h.accounts, k.settlement.trans h.settlement⟩

theorem Tail.ite {c : Prop} [Decidable c] {t u : State} (ht : Tail a t) (hu : Tail a u) : Tail a (if c then t else u) := by
  split <;> assumption

/-- A change of neither slots' states, requests, room nor money. -/
theorem Tail.quiet {t : State} (h : Tail a s) (q : Quiet s t) (hr : t.room.state = s.room.state) (hh : t.holds = s.holds)
    (ha : t.accounts = s.accounts) (hs : t.settlement = s.settlement) : Tail a t :=
  h.trans ⟨fun n k => (q.asked n).1 k, fun _ n k => by rw [q.state]; exact k, fun k => hr.trans k, hh, ha, hs⟩

/-- A change that leaves everything aside. -/
theorem Tail.aside {t : State} (h : Tail a s) (e : t.aside = s.aside) (h1 : ∀ n, t.asked n → s.asked n)
    (h2 : (∀ n, ¬ s.asked n) → ∀ n, (s.slot n).state.halted → (t.slot n).state.halted) : Tail a t :=
  h.trans ⟨h1, h2, fun k => by have := congrArg (fun s => s.room.state) e; exact Eq.trans this k,
    by have := congrArg State.holds e; exact this, by have := congrArg State.accounts e; exact this,
    by have := congrArg State.settlement e; exact this⟩

theorem Tail.same {t : State} (h : Tail a s) (q : Quiet s t) (e : t.aside = s.aside) : Tail a t :=
  h.aside e (fun n k => (q.asked n).1 k) fun _ n k => by rw [q.state]; exact k

theorem Tail.post (h : Tail a s) (b : EventBody) : Tail a (s.post b) := h.same ((Quiet.refl s).post b) (aside_post b)

theorem Tail.modSlot (h : Tail a s) (n : Fin 24) (f : Slot → Slot)
    (hf : ∀ x, (f x).state = x.state ∧ (f x).heatGrant = x.heatGrant) : Tail a (s.modSlot n f) :=
  h.same ((Quiet.refl s).modSlot n f hf) rfl

theorem Tail.setQueue (h : Tail a s) (c : Fin 4) (q : List WaitEntry) : Tail a (s.setQueue c q) :=
  h.quiet ((Quiet.refl s).setQueue c q) rfl rfl rfl rfl

theorem Tail.setLasting (h : Tail a s) (t : Fin 16) (k : Half) (d : Display) : Tail a (s.setLasting t k d) :=
  h.same ((Quiet.refl s).setLasting t k d) rfl

theorem Tail.showLasting (h : Tail a s) (n : Fin 24) (d : Display) : Tail a (s.showLasting n d) :=
  h.same ((Quiet.refl s).showLasting n d) (aside_showLasting n d)

theorem Tail.reckon (h : Tail a s) (x y z : Bool) : Tail a (s.reckon x y z) := by
  have r := reckon_reckoned s x y z
  exact h.aside (aside_reckon x y z) (fun n k => (r.asked n).1 k) fun hu n k => by rw [r.state n (hu n)]; exact k

theorem Tail.enter (h : Tail a s) (n : Fin 24) {st : SlotState} (hs : st.halted) : Tail a (s.enter n st) := by
  refine h.aside (aside_enter n st) (fun m k => ?_) fun _ m k => ?_
  · simpa only [State.asked, State.enter_granted, State.enter_waiting] using k
  · rw [State.enter_state]; split
    · exact hs
    · exact k

theorem Tail.told (h : Tail a s) (n : Fin 24) {st : SlotState} (hs : st.halted) : Tail a (s.enterTold n st) :=
  (h.enter n hs).reckon _ _ _

theorem halted_idle : SlotState.idle.halted := by simp [SlotState.halted]
theorem halted_reserved : SlotState.reserved.halted := by simp [SlotState.halted]
theorem halted_suspended : SlotState.suspended.halted := by simp [SlotState.halted]

theorem Tail.reserve (h : Tail a s) (n : Fin 24) (c : Fin 4) (e : WaitEntry) (q : List WaitEntry) :
    Tail a (s.reserve n c e q) := by
  unfold State.reserve
  have k : Tail a ((s.setQueue c q).modSlot n fun x => { x with
      reservation := some ⟨e.card, e.account, e.joined, (s.setQueue c q).settings.room.window * 60⟩ }) := by
    refine (h.setQueue c q).modSlot n _ ?_
    exact fun _ => ⟨rfl, rfl⟩
  exact ((Tail.ite (k.post _) (k.enter n halted_reserved)).post _).showLasting n _

theorem Tail.offer (h : Tail a s) (n : Fin 24) : Tail a (s.offer n) := by
  unfold State.offer; split
  · exact h
  · split
    · exact h
    · exact h.reserve _ _ _ _

theorem Tail.enterIdle (h : Tail a s) (n : Fin 24) : Tail a (s.enterIdle n) := (h.enter n halted_idle).offer n

theorem Tail.dropReservation (h : Tail a s) (n : Fin 24) : Tail a (s.dropReservation n) :=
  h.modSlot n (fun x => { x with reservation := none }) fun _ => ⟨rfl, rfl⟩

theorem Tail.foldl {α : Type} {f : State → α → State} (hf : ∀ s x, Tail a s → Tail a (f s x)) (l : List α) (s : State)
    (h : Tail a s) : Tail a (l.foldl f s) := by
  induction l generalizing s with
  | nil => exact h
  | cons x l ih => exact ih _ (hf _ _ h)

theorem Tail.clearWaitlist (h : Tail a s) : Tail a s.clearWaitlist := by
  unfold State.clearWaitlist Machine.overSlots
  have k : Tail a { s with queues := Vector.replicate 4 [] } :=
    h.quiet ((Quiet.refl s).change rfl rfl rfl) rfl rfl rfl rfl
  exact Tail.foldl (fun _ n k => Tail.ite ((k.dropReservation n).enterIdle n) k) _ _ k

theorem Quiet.money {t : State} (q : Quiet s t) (e : t.aside = s.aside) : Tail s t := (Tail.refl s).same q e

theorem changeRoom_tail (h : Tail a s) (r : RoomState) (c : RoomCause) (hr : s.room.state = .suspended → r = .suspended) :
    Tail a (s.changeRoom r c) ∧ (s.changeRoom r c).room.state = r := by
  have f (d : Display) (l : List (Fin 16)) (u : State) : Tail u (l.foldl
      (fun s t => s.modTerminal t fun x => { x with halfA := x.halfA.setRoom d, halfB := x.halfB.setRoom d }) u) ∧
      (l.foldl (fun s t => s.modTerminal t fun x => { x with halfA := x.halfA.setRoom d, halfB := x.halfB.setRoom d })
        u).room = u.room := by
    induction l generalizing u with
    | nil => exact ⟨Tail.refl u, rfl⟩
    | cons x l ih =>
      obtain ⟨i1, i2⟩ := ih (u.modTerminal x fun x => { x with halfA := x.halfA.setRoom d, halfB := x.halfB.setRoom d })
      exact ⟨((Tail.refl u).same ((Quiet.refl u).modTerminal _ _) rfl).trans i1, i2⟩
  have k0 : Tail a { s with room := { s.room with state := r } } :=
    h.trans ⟨fun _ k => k, fun _ _ k => k, fun k => hr k, rfl, rfl, rfl⟩
  have k := k0.post (.roomState s.room.state r s.settings.room.mode s.clock.isSet c)
  have e : (({ s with room := { s.room with state := r } } : State).post
      (.roomState s.room.state r s.settings.room.mode s.clock.isSet c)).room.state = r := by simp
  unfold State.changeRoom
  dsimp only
  generalize ({ s with room := { s.room with state := r } } : State).post
      (.roomState s.room.state r s.settings.room.mode s.clock.isSet c) = t at *
  unfold State.roomDisplay
  split
  · exact ⟨k.quiet ((Quiet.refl t).setBus _) rfl rfl rfl rfl, e⟩
  · next d _ =>
    split
    · exact ⟨k, e⟩
    · have g : Tail t (t.displayAll d) ∧ (t.displayAll d).room = t.room := f d allTerminals t
      obtain ⟨i1, i2⟩ := g
      generalize t.displayAll d = u at *
      exact ⟨(k.trans i1).quiet ((Quiet.refl _).setBus _) rfl rfl rfl rfl, (congrArg Room.state i2).trans e⟩

theorem Tail.openDisplays (h : Tail a s) : Tail a s.openDisplays :=
  Tail.foldl (fun _ t k => (k.setLasting t .a _).setLasting t .b _) _ _ h

theorem Tail.enterRoom (h : Tail a s) (r : RoomState) (c : RoomCause) (hr : s.room.state ≠ .suspended) :
    Tail a (s.enterRoom r c) := by
  unfold State.enterRoom
  have k := (changeRoom_tail h r c fun e => absurd e hr).1
  exact Tail.ite k.openDisplays k.clearWaitlist

theorem Tail.holdsEnded (h : Tail a s) : Tail a s.holdsEnded := by
  unfold State.holdsEnded
  split
  · next e => exact h.enterRoom _ _ (by rw [e.1]; decide)
  · exact h

theorem Tail.dropHeat (h : Tail a s) (n : Fin 24) (b : Bool := true) : Tail a (s.dropHeat n b) := by
  have less (u : State) : ∀ m, (u.removeRequest n).asked m → u.asked m := fun m k => by
    simp only [State.asked, State.removeRequest_granted, State.removeRequest_waiting] at k
    exact k.imp And.left And.left
  have q : Quiet s (s.modSlot n fun y => { y with heatReq := false }) :=
    (Quiet.refl s).modSlot n (fun y => { y with heatReq := false }) fun _ => ⟨rfl, rfl⟩
  refine h.aside (aside_dropHeat n b) (fun m k => ?_) fun hu m k => ?_
  · unfold State.dropHeat at k
    dsimp only at k
    rw [← q.asked m]
    generalize s.modSlot n (fun y => { y with heatReq := false }) = t at *
    split at k
    · split at k
      · exact less t m (((reckon_reckoned ((t.removeRequest n).setGrant n false) true false false).asked m).1 k)
      · exact less t m k
    · exact less t m (((Quiet.refl (t.removeRequest n)).tidyStamp.asked m).1 k)
  · unfold State.dropHeat
    dsimp only
    rw [← q.state m] at k
    have hu : ∀ m, ¬ (s.modSlot n fun y => { y with heatReq := false }).asked m := fun m => mt (q.asked m).1 (hu m)
    generalize s.modSlot n (fun y => { y with heatReq := false }) = t at *
    split
    · split
      · have r := reckon_reckoned ((t.removeRequest n).setGrant n false) true false false
        unfold State.giveUpGrant State.dropGrant
        rw [r.state m (fun l => hu m (less t m l)), State.setGrant_state]
        exact k
      · unfold State.dropGrant
        rw [State.setGrant_state]
        exact k
    · unfold State.withdraw
      rw [(Quiet.refl (t.removeRequest n)).tidyStamp.state m]
      exact k

/-- What a cycle end does besides settling the hold. -/
theorem cycleEnd_tail (n : Fin 24) (r : Reason) (f : Option (FaultCode × Option Nat)) {st : SlotState}
    (hs : st.halted) (hh : (s.hold n).isSome) (b : Bool := true) : Tail (s.settle n r f) (s.cycleEnd n r f st b) := by
  unfold State.cycleEnd
  split
  · next e => rw [e] at hh; cases hh
  · have k2 := ((Tail.refl (s.settle n r f)).post (.cycleEnd n s.settlement.next)).dropHeat n b
    dsimp only
    generalize ((s.settle n r f).post (.cycleEnd n s.settlement.next)).dropHeat n b = t at *
    have k3 := k2.modSlot n (fun x => { x with warning := false, resume := none }) fun _ => ⟨rfl, rfl⟩
    generalize t.modSlot n (fun x => { x with warning := false, resume := none }) = u at *
    have k4 := k3.enterIdle n
    apply Tail.holdsEnded
    split
    · exact k4
    · rcases enterEnded_cases u n st b with e | e <;> rw [e]
      · exact k3.enter n hs
      · exact k3.told n hs

/-- The first three parts of `Tail`. -/
structure Slack (a s : State) : Prop where
  asked : ∀ n, s.asked n → a.asked n
  halted : (∀ n, ¬ a.asked n) → ∀ n, (a.slot n).state.halted → (s.slot n).state.halted
  room : a.room.state = .suspended → s.room.state = .suspended

theorem Slack.refl (a : State) : Slack a a := ⟨fun _ h => h, fun _ _ h => h, id⟩

theorem Slack.trans {b c : State} (h : Slack a b) (k : Slack b c) : Slack a c :=
  ⟨fun n l => h.asked n (k.asked n l),
    fun l n m => k.halted (fun n x => l n (h.asked n x)) n (h.halted l n m), k.room ∘ h.room⟩

theorem Tail.slack (h : Tail a s) : Slack a s := ⟨h.asked, h.halted, h.room⟩

theorem cycleEnd_slack (s : State) (n : Fin 24) (r : Reason) (f : Option (FaultCode × Option Nat)) {st : SlotState}
    (hs : st.halted) (b : Bool := true) : Slack s (s.cycleEnd n r f st b) := by
  by_cases e : (s.hold n).isSome = true
  · obtain ⟨e1, e2⟩ := settle_rest s n r f
    have k : Slack s (s.settle n r f) := by
      refine ⟨fun m k => ?_, fun _ m k => ?_, fun k => ?_⟩
      · simpa only [State.asked, State.granted, State.waiting, e2] using k
      · simpa only [State.slot, e1] using k
      · unfold State.settle; split <;> exact k
    exact k.trans (cycleEnd_tail n r f hs e b).slack
  · unfold State.cycleEnd
    split
    · exact Slack.refl s
    · next k => rw [k] at e; exact absurd rfl e

theorem haltSlot_slack (s : State) (n : Fin 24) (r : Resume) :
    Slack s (s.haltSlot n r) ∧ ((∀ m, ¬ s.asked m) → ((s.haltSlot n r).slot n).state = .suspended) := by
  unfold State.haltSlot
  have k : Tail s (s.modSlot n fun x => { x with heatReq := false, resume := some r }) :=
    (Tail.refl s).modSlot n (fun x => { x with heatReq := false, resume := some r }) fun _ => ⟨rfl, rfl⟩
  generalize s.modSlot n (fun x => { x with heatReq := false, resume := some r }) = t at *
  have m : Tail s (t.setGrant n false) :=
    k.aside rfl (fun _ h => h) fun _ n h => by rw [State.setGrant_state]; exact h
  generalize t.setGrant n false = u at *
  exact ⟨(m.enter n halted_suspended).slack, fun _ => by rw [State.enter_state, if_pos rfl]⟩

theorem suspendSlot_slack (s : State) (n : Fin 24) :
    Slack s (s.suspendSlot n) ∧ ((∀ m, ¬ s.asked m) → ((s.suspendSlot n).slot n).state.halted) := by
  have halt (r : Resume) : Slack s (s.haltSlot n r) ∧ ((∀ m, ¬ s.asked m) → ((s.haltSlot n r).slot n).state.halted) := by
    obtain ⟨h1, h2⟩ := haltSlot_slack s n r
    exact ⟨h1, fun hu => by rw [h2 hu]; exact halted_suspended⟩
  have stay (e : (s.slot n).state.halted) : Slack s s ∧ ((∀ m, ¬ s.asked m) → (s.slot n).state.halted) :=
    ⟨Slack.refl s, fun _ => e⟩
  unfold State.suspendSlot
  split
  · exact halt _
  · exact halt _
  · exact halt _
  · next e =>
    have k := cycleEnd_slack s n .notStarted none (st := .idle) halted_idle
    exact ⟨k, fun hu => k.halted hu n (by rw [e]; simp [SlotState.halted])⟩
  all_goals
    next e => exact stay (by rw [e]; simp [SlotState.halted])

theorem Whole.suspendSlot (h : Whole s) (hu : ∀ n, ¬ s.asked n) (n : Fin 24) : Whole (s.suspendSlot n) := by
  unfold State.suspendSlot
  split
  · next e => exact h.haltSlot (by rw [e]; rfl) (hu n) _
  · next e => exact h.haltSlot (by rw [e]; rfl) (hu n) _
  · next e => exact h.haltSlot (by rw [e]; rfl) (hu n) _
  · exact h.cycleEnd _ _ _ rfl
  all_goals exact h

theorem suspendSlots (l : List (Fin 24)) (s : State) (hu : ∀ n, ¬ s.asked n) :
    Slack s (l.foldl (fun s n => s.suspendSlot n) s) ∧
      (∀ n ∈ l, ((l.foldl (fun s n => s.suspendSlot n) s).slot n).state.halted) ∧
      (Whole s → Whole (l.foldl (fun s n => s.suspendSlot n) s)) := by
  induction l generalizing s with
  | nil => exact ⟨Slack.refl s, by simp, id⟩
  | cons n l ih =>
    obtain ⟨k1, k2⟩ := suspendSlot_slack s n
    have hv : ∀ m, ¬ (s.suspendSlot n).asked m := fun m h => hu m (k1.asked m h)
    obtain ⟨i1, i2, i3⟩ := ih (s.suspendSlot n) hv
    refine ⟨k1.trans i1, fun m hm => ?_, fun w => i3 (Whole.suspendSlot w hu n)⟩
    rcases List.mem_cons.1 hm with e | e
    · subst e; exact i1.halted hv _ (k2 hu)
    · exact i2 m e

theorem aside_room {t : State} (h : t.aside = s.aside) : t.room.state = s.room.state := by
  have := congrArg (fun s : State => s.room.state) h
  exact this

theorem aside_clearGovernor (s : State) : s.clearGovernor.aside = s.aside := by
  unfold State.clearGovernor Machine.overSlots
  refine (aside_foldl (fun s n => ?_) _ _).trans (aside_modGov _)
  dsimp only
  split <;> rfl

/-- What a suspension does (R26, R117, R179): both laws are kept, no request is left, every machine is halted, and the room is
SUSPENDED. -/
theorem suspend_does (s : State) : (Whole s → Whole s.suspend) ∧ (∀ n, ¬ s.suspend.asked n) ∧
    (∀ n, (s.suspend.slot n).state.halted) ∧ s.suspend.room.state = .suspended := by
  unfold State.suspend Machine.overSlots
  have e := (changeRoom_tail (Tail.refl s) .suspended .interlockActive fun _ => rfl).2
  have q := (Quiet.refl s).changeRoom .suspended .interlockActive
  dsimp only
  generalize s.changeRoom .suspended .interlockActive = v at *
  have q2 : Quiet s (if (s.room.state != .held) = true then
      { v with room := { v.room with timer := .running (v.elapsed + v.settings.room.limit * 60) } } else v) :=
    Quiet.ite (q.setRoom _) q
  have e2 : (if (s.room.state != .held) = true then
      { v with room := { v.room with timer := .running (v.elapsed + v.settings.room.limit * 60) } }
      else v).room.state = .suspended := by split <;> exact e
  generalize (if (s.room.state != .held) = true then
      { v with room := { v.room with timer := .running (v.elapsed + v.settings.room.limit * 60) } } else v) = t at *
  obtain ⟨h1, h2, -⟩ := clearGovernor_facts t
  have hu : ∀ n, ¬ t.clearGovernor.asked n := fun n => by simp [State.asked, State.granted, State.waiting, h1, h2]
  have e3 : t.clearGovernor.room.state = .suspended := (aside_room (aside_clearGovernor t)).trans e2
  have w : Whole s → Whole t.clearGovernor := fun h => Whole.clearGovernor (Law.quiet h q2)
  generalize t.clearGovernor = u at *
  obtain ⟨i1, i2, i3⟩ := suspendSlots allSlots u hu
  exact ⟨fun h => i3 (w h), fun n h => hu n (i1.asked n h), fun n => i2 n (List.mem_finRange n), i1.room e3⟩

theorem Whole.suspend (h : Whole s) : Whole s.suspend := (suspend_does s).1 h

theorem Whole.limitSlot (h : Whole s) (n : Fin 24) : Whole (s.limitSlot n) := by
  unfold State.limitSlot
  exact Whole.ite (fun _ => h.cycleEnd _ _ _ rfl) fun _ => h

theorem Whole.suspensionLimit (h : Whole s) : Whole s.suspensionLimit :=
  Whole.overSlots (Law.quiet h ((Quiet.refl s).setRoom _)) fun n _ k => k.limitSlot n

theorem Whole.resumeRunning (h : Whole s) {n : Fin 24} (he : (s.slot n).state = .suspended) : Whole (s.resumeRunning n) := by
  unfold State.resumeRunning
  have q : Quiet s (s.modSlot n fun x => { x with
      resume := none, heatReq := if (s.kind n == .washer) = true then x.view.heat else x.phase == .dry }) := by
    refine Quiet.modSlot (Quiet.refl s) n _ ?_
    exact fun _ => ⟨rfl, rfl⟩
  rw [← q.state n] at he
  exact Law.move (Law.quiet h q) (he ▸ cold_suspended) (he ▸ rfl)

theorem Whole.resumeSlot (h : Whole s) (n : Fin 24) : Whole (s.resumeSlot n) := by
  unfold State.resumeSlot
  dsimp only
  refine Whole.ite (fun _ => h) fun e => ?_
  have e : (s.slot n).state = .suspended := by simpa using e
  split
  · have q : Quiet s (s.modSlot n fun x => { x with resume := none }) :=
      (Quiet.refl s).modSlot n (fun x => { x with resume := none }) fun _ => ⟨rfl, rfl⟩
    have k := Law.quiet h q
    rw [← q.state n] at e
    generalize s.modSlot n (fun x => { x with resume := none }) = t at *
    exact Whole.ite (fun _ => (Whole.startRunning k (e ▸ cold_suspended) (e ▸ rfl)).1)
      fun _ => Law.move k (e ▸ cold_suspended) (e ▸ rfl)
  · exact Whole.ite (fun _ => h.cycleEnd _ _ _ rfl) fun _ => h.resumeRunning e
  · exact Whole.ite (fun _ => h.cycleEnd _ _ _ rfl) fun _ => h.resumeRunning e

theorem Whole.resumeSlots (h : Whole s) : Whole s.resumeSlots := by
  unfold State.resumeSlots
  refine Law.askHeat (Whole.foldl (fun _ n k => k.resumeSlot n) _ _ h) _ fun n hn => ?_
  have := (List.mem_filter.1 hn).2
  simp at this
  exact this.1

theorem Whole.resumeRoom (h : Whole s) : Whole s.resumeRoom := by
  unfold State.resumeRoom
  have k := Whole.resumeSlots (Law.quiet h (((Quiet.refl s).setRoom { s.room with timer := .idle }).changeRoom
    ({ s with room := { s.room with timer := .idle } } : State).modeState .resume))
  exact Whole.ite (fun _ => Law.quiet k (Quiet.refl _).openDisplays) fun _ => k.clearWaitlist

/-! ### The bus and the scan -/

theorem Whole.miss (h : Whole s) (t : Fin 16) : Whole (s.miss t) := by
  unfold State.miss
  refine Whole.ite (fun _ => h) fun _ => Whole.ite (fun _ => Law.quiet h ((Quiet.refl s).modTerminal _ _)) fun _ => ?_
  exact Whole.loseSlots (Law.quiet h ((((Quiet.refl s).modTerminal _ _).modTerminal _ _).post _)) t

theorem Whole.missExchange (h : Whole s) : Whole s.missExchange := by
  unfold State.missExchange
  split
  · exact Law.quiet (h.miss _) ((Quiet.refl _).setBus _)
  · exact h
  · exact h

theorem Whole.hearTerminal (h : Whole s) (t : Fin 16) : Whole (s.hearTerminal t) := by
  unfold State.hearTerminal
  have q := (Quiet.refl s).modTerminal t fun x => { x with misses := 0, presence := .present }
  refine Whole.ite (fun _ => Law.quiet h q) fun _ => Whole.ite (fun _ => ?_) fun _ => Law.quiet h (q.post _)
  exact Whole.regainSlots (Law.quiet h (q.post _)) t

theorem Whole.goodReply (h : Whole s) (t : Fin 16) (r : TerminalReply) : Whole (s.goodReply t r) := by
  unfold State.goodReply
  have k : Whole ((s.hearTerminal t).takeReports t r) := by
    unfold State.takeReports
    exact Whole.handReport (Whole.handReport (Law.quiet (h.hearTerminal t) ((Quiet.refl _).modTerminal t _)) _ _ _ _) _ _ _ _
  unfold State.takeTagged
  refine Whole.ite (fun _ => k) fun _ => Whole.ite (fun _ => k) fun _ => ?_
  exact Whole.handEvents (Whole.handEvents (Law.quiet k ((Quiet.refl _).modTerminal t _)) _ _ _) _ _ _

theorem Whole.coolDown (h : Whole s) (n : Fin 24) : Whole (s.coolDown n) := by
  unfold State.coolDown
  have q : Quiet s (s.modSlot n fun x => { x with phase := .cool, cool := s.coolTime n }) := by
    refine Quiet.modSlot (Quiet.refl s) n _ ?_
    exact fun _ => ⟨rfl, rfl⟩
  exact (Law.dropHeat (Law.quiet h q) n).1

theorem Whole.endCondition (h : Whole s) (n : Fin 24) (t : SenseTest) : Whole (s.endCondition n t) := by
  unfold State.endCondition
  exact Whole.ite (fun _ => Law.quiet h (((Quiet.refl s).modSense n _).latch _ _)) fun _ => h

theorem Whole.strikeTrue (h : Whole s) (n : Fin 24) (t : SenseTest) : Whole (s.strikeTrue n t) := by
  unfold State.strikeTrue
  refine Whole.ite (fun _ => ?_) fun _ => Law.quiet h ((Quiet.refl s).modSense n _)
  exact Whole.raised (Law.quiet h ((Quiet.refl s).modSense n _)) _ (by cases t <;> decide) _

theorem Whole.strikeTest (h : Whole s) (n : Fin 24) (w : Nat) (t : SenseTest) : Whole (s.strikeTest n w t) := by
  unfold State.strikeTest
  exact Whole.ite (fun _ => h.strikeTrue n t)
    fun _ => Whole.endCondition (Law.quiet h ((Quiet.refl s).modSense n _)) n t

theorem Whole.strikeTests (h : Whole s) (r : ScanResult) : Whole (s.strikeTests r) := by
  unfold State.strikeTests
  refine Whole.ite (fun _ => h) fun _ => ?_
  have k := Whole.foldl (fun _ t k => Whole.strikeTest k r.slot r.watts t) SenseTest.all s h
  refine Law.quiet k ?_
  refine Quiet.modSlot (Quiet.refl _) _ _ ?_
  exact fun _ => ⟨rfl, rfl⟩

theorem Whole.endedTests (h : Whole s) (r : ScanResult) : Whole (s.endedTests r) := by
  unfold State.endedTests
  exact Whole.ite (fun _ => h) fun _ =>
    Whole.foldl (fun _ t k => Whole.ite (fun _ => k) fun _ => Whole.endCondition k r.slot t) _ _ h

theorem Whole.feedOver (h : Whole s) (feed : Nat) : Whole (s.feedOver feed) := by
  have q (x : Governor → Governor) (hx : ∀ g, (x g).grants = g.grants ∧ (x g).waits = g.waits) : Whole (s.modGov x) :=
    Law.quiet h ((Quiet.refl s).modGov x hx)
  unfold State.feedOver
  refine Whole.ite (fun _ => Whole.ite (fun _ => Whole.ite (fun _ => Whole.raised (q _ ?_) _ (by decide) _)
    fun _ => q _ ?_) fun _ => q _ ?_)
    fun _ => Whole.ite (fun _ => Law.quiet (q _ ?_) ((Quiet.refl _).latch _ _)) fun _ => q _ ?_ <;>
  exact fun _ => ⟨rfl, rfl⟩

theorem Whole.takeDraws (h : Whole s) (rs : List ScanResult) : Whole (s.takeDraws rs) :=
  Law.quiet h (Quiet.foldl (fun _ _ r k => k.modSense r.slot _) rs _ (Quiet.refl _))

theorem Whole.takeFigures (h : Whole s) (rs : List ScanResult) : Whole (s.takeFigures rs) := by
  unfold State.takeFigures
  dsimp only
  have k : Whole (s.modGov fun g => { g with stray := strayOf s.scanner.feed (rs.map fun r => r.watts).sum }) := by
    refine Law.quiet h (Quiet.modGov (Quiet.refl s) _ ?_)
    exact fun _ => ⟨rfl, rfl⟩
  exact Whole.feedOver (Law.reckon k _ _ _) _

theorem Whole.validScan (h : Whole s) : Whole s.validScan := by
  unfold State.validScan
  dsimp only
  have q : Quiet s (if s.scanner.refFault then
      (s.modScanner fun c => { c with refFault := false }).latch none .senseReference else s) :=
    Quiet.ite (((Quiet.refl s).modScanner _).latch _ _) (Quiet.refl s)
  generalize (if s.scanner.refFault then
      (s.modScanner fun c => { c with refFault := false }).latch none .senseReference else s) = t at *
  generalize t.keptResults = rs
  have k := Law.quiet h (q.modScanner fun c => { c with valid := true, feedWatts := c.feed })
  generalize t.modScanner (fun c => { c with valid := true, feedWatts := c.feed }) = u at *
  have w := Whole.takeFigures (Whole.takeDraws k rs) rs
  generalize (u.takeDraws rs).takeFigures rs = v at *
  exact Whole.foldl (fun _ r k => Whole.strikeTests k r) _ _ (Whole.foldl (fun _ r k => Whole.endedTests k r) _ _ w)

theorem Whole.invalidScan (h : Whole s) : Whole s.invalidScan := by
  unfold State.invalidScan
  have q := (Quiet.refl s).modScanner fun c => { c with valid := false }
  exact Whole.ite (fun _ => Law.quiet h q) fun _ => Whole.raised (Law.quiet h (q.modScanner _)) _ (by decide) _

theorem Quiet.clearMarks (s : State) : Quiet s s.clearMarks :=
  Quiet.foldl (fun _ _ n k => k.modSense n _) _ _ (Quiet.refl s)

theorem Whole.endScan (h : Whole s) (c : Nat) : Whole (s.endScan c) := by
  unfold State.endScan
  have k := Law.quiet h ((Quiet.refl s).modScanner fun c => { c with converter := none, active := false, ended := c.number })
  have m := Whole.ite (c := referenceValid c = true) (fun _ => Whole.validScan k) fun _ => Whole.invalidScan k
  exact Law.quiet m (((Quiet.clearMarks _).modScanner _).startNext)

theorem Whole.interlockOn (h : Whole s) : Whole s.interlockOn := by
  unfold State.interlockOn
  have k := Law.quiet h ((Quiet.refl s).setRoom { s.room with interlock := true })
  exact Whole.ite (fun _ => k) fun _ => Whole.suspend k

theorem Whole.setClock (h : Whole s) (d c : Nat) : Whole (s.setClock d c) := by
  unfold State.setClock
  have k : Whole { s with clock := ⟨c, d, true⟩ } := Law.quiet h ((Quiet.refl s).change rfl rfl rfl)
  exact Whole.ite (fun _ => Whole.followMode k _) fun _ => k

theorem Whole.setBudget (h : Whole s) (w : Nat) : Whole (s.setBudget w) := by
  unfold State.setBudget
  have k : Whole { s with settings := { s.settings with governor := { s.settings.governor with budget := w } } } :=
    Law.quiet h ((Quiet.refl s).change rfl rfl rfl)
  exact Law.reckon (Law.quiet k ((Quiet.refl _).write _)) _ _ _

/-! ### Requests -/

/-- A command that gives a frame keeps what its own rule keeps. -/
theorem Whole.frameArrives (h : Whole s) (p : Port) (k : FrameClass) (f : State → State) (hf : ∀ t, Whole t → Whole (f t)) :
    Whole (s.frameArrives p k f) := by
  obtain ⟨u, e | e⟩ := frameArrives_cases s p k f <;> rw [e]
  · exact Law.quiet h ((Quiet.refl s).setPort p u)
  · exact hf _ (Law.quiet h ((Quiet.refl s).setPort p u))

theorem Whole.take {α : Type} (h : Whole s) (p : Port) (k : Nat) (e : Except Status α) (go : α → State → State)
    (hg : ∀ x t, Whole t → Whole (go x t)) : Whole (s.take p k e go) := by
  refine h.frameArrives p _ _ fun t h => ?_
  have m : Whole (t.countTaken p) := Law.quiet h ((Quiet.refl t).setPort _ _)
  have r (x : Status) : Whole ((t.countTaken p).answer p k x) := Law.quiet m ((Quiet.refl _).setPort _ _)
  refine Whole.ite (fun _ => r _) fun _ => ?_
  split
  · exact r _
  · exact Whole.ite (fun _ => r _) fun _ => hg _ _ m

theorem Whole.finish {x : Answer} (h : Whole x.state) (p : Port) (k w : Nat) : Whole (x.finish p k w) := by
  unfold Answer.finish
  exact Whole.ite (fun _ => Law.quiet h ((Quiet.refl _).setPort _ _))
    fun _ => Law.quiet h (((Quiet.refl x.state).setPort p _).change rfl rfl rfl)

theorem Whole.request {α : Type} (h : Whole s) (p : Port) (k : Nat) (e : Except Status α) (act : α → State → Answer)
    (ha : ∀ x t, Whole t → Whole (act x t).state) : Whole (s.request p k e act) :=
  h.take p k e _ fun x t m => Whole.finish (ha x t m) p k _

theorem Whole.removeClass (h : Whole s) {n : Fin 24} (hs : (s.slot n).state.spare) : Whole (s.removeClass n) := by
  unfold State.removeClass
  dsimp only
  have q : Quiet s (((s.latchAll n).modSlot n fun x => { x with cfg := none, causes := .empty, run := 0, phase := .none }).write
      [.slot n none, .causes n none]) :=
    (Quiet.modSlot (s := s.latchAll n) ((Quiet.refl s).change rfl rfl rfl) n
      (fun x => { x with cfg := none, causes := .empty, run := 0, phase := .none }) fun _ => ⟨rfl, rfl⟩).write _
  have k := Law.quiet h q
  rw [← q.state n] at hs
  generalize ((s.latchAll n).modSlot n (fun x => { x with cfg := none, causes := .empty, run := 0, phase := .none })).write
    [.slot n none, .causes n none] = t at *
  have w := Whole.ite (c := (s.slot n).cfg.isSome = true) (fun _ => (Whole.spareTold k hs (st := .unconfigured) rfl).1)
    fun _ => k
  refine Law.quiet w ?_
  have l (u : State) (o : Option SlotCfg) (m : Option (Fin 16 × Half)) : Quiet u (u.leaveHalf o m) := by
    unfold State.leaveHalf
    split
    · exact Quiet.ite (Quiet.refl u) ((Quiet.refl u).modHalf _ _ _)
    · exact Quiet.refl u
  refine Quiet.trans (Quiet.modSlot (Quiet.refl _) n _ ?_) (l _ _ _)
  exact fun _ => ⟨rfl, rfl⟩

theorem Whole.followTerminal (h : Whole s) (n : Fin 24) (t : Fin 16) : Whole (s.followTerminal n t) := by
  unfold State.followTerminal
  exact Whole.ite (fun _ => h.raised _ (by decide) _) fun _ => Whole.ite (fun _ => h.regainSlot n) fun _ => h

theorem Whole.assignClass (h : Whole s) {n : Fin 24} (hs : (s.slot n).state.spare) (c : SlotCfg) :
    Whole (s.assignClass n c) := by
  unfold State.assignClass
  dsimp only
  have l (u : State) (o : Option SlotCfg) (m : Option (Fin 16 × Half)) : Quiet u (u.leaveHalf o m) := by
    unfold State.leaveHalf
    split
    · exact Quiet.ite (Quiet.refl u) ((Quiet.refl u).modHalf _ _ _)
    · exact Quiet.refl u
  have q (f : Slot → Slot) (hf : ∀ x, (f x).state = x.state ∧ (f x).heatGrant = x.heatGrant) :
      Quiet s (((s.modSlot n f).leaveHalf (s.slot n).cfg (some (c.term, c.half))).write [.slot n (some c)]) :=
    (Quiet.trans ((Quiet.refl s).modSlot n f hf) (l _ _ _)).write _
  have q := q (fun x => { x with
      cfg := some c,
      phase := phaseFor (s.cls c.cls).kind ((s.slot n).cfg.map fun o => (s.cls o.cls).kind) x.phase }) fun _ => ⟨rfl, rfl⟩
  have k := Law.quiet h q
  rw [← q.state n] at hs
  generalize ((s.modSlot n fun x => { x with
      cfg := some c,
      phase := phaseFor (s.cls c.cls).kind ((s.slot n).cfg.map fun o => (s.cls o.cls).kind) x.phase }).leaveHalf
      (s.slot n).cfg (some (c.term, c.half))).write [.slot n (some c)] = t at *
  refine Law.reckon ?_ _ _ _
  split
  · exact Whole.followTerminal (Whole.enterIdle k hs) n _
  · have k2 (b : Prop) [Decidable b] : Whole (if b then t.showMoved n else t) :=
      Whole.ite (fun _ => Law.quiet k ((Quiet.refl t).showLasting n _)) fun _ => k
    refine Whole.ite (fun _ => Whole.followTerminal ?_ n _) fun _ => ?_ <;>
    · refine Whole.ite (fun e => Whole.offer (k2 _) ?_) fun _ => k2 _
      rw [e.2]; exact spare_idle

theorem settable_spare {st : SlotState} (h : st.settable = true) : st.spare := by
  cases st <;> simp [SlotState.settable, SlotState.spare, SlotState.cold, SlotState.busy] at *

theorem Whole.slotSet (h : Whole s) (f : Nat × Nat × Nat × Nat) : Whole (s.slotSet f).state := by
  unfold State.slotSet
  split
  · exact h
  · split
    · split
      · next e => exact h.removeClass (settable_spare e)
      · exact h
    · split
      · exact h
      · split
        · exact h
        · next e =>
          simp only [Bool.not_eq_true', Bool.not_eq_false] at e
          split
          · split
            · exact h
            · have k (c : SlotCfg) := h.assignClass (settable_spare e) c
              dsimp only [State.ok]
              exact k _
          · exact h

/-! ### The state a cycle end leaves its slot in -/

/-- A slot without a request is left alone. -/
def Still (n : Fin 24) (a s : State) : Prop := ¬ a.asked n → ¬ s.asked n ∧ (s.slot n).state = (a.slot n).state

theorem Still.refl (n : Fin 24) (a : State) : Still n a a := fun h => ⟨h, rfl⟩
theorem Still.trans {n : Fin 24} {b c : State} (h : Still n a b) (k : Still n b c) : Still n a c := fun u =>
  ⟨(k (h u).1).1, (k (h u).1).2.trans (h u).2⟩
theorem Still.quiet {n : Fin 24} {t : State} (h : Still n a s) (q : Quiet s t) : Still n a t :=
  h.trans fun u => ⟨mt (q.asked n).1 u, q.state n⟩
theorem Still.enter {n : Fin 24} (h : Still n a s) {m : Fin 24} (hm : m ≠ n) (st : SlotState) : Still n a (s.enter m st) := by
  refine h.trans fun u => ⟨?_, by rw [State.enter_state, if_neg hm]⟩
  simpa only [State.asked, State.enter_granted, State.enter_waiting] using u

theorem Still.reserve {n : Fin 24} (h : Still n a s) {m : Fin 24} (hm : m ≠ n) (c : Fin 4) (e : WaitEntry)
    (q : List WaitEntry) : Still n a (s.reserve m c e q) := by
  unfold State.reserve
  have k : Quiet s ((s.setQueue c q).modSlot m fun x => { x with
      reservation := some ⟨e.card, e.account, e.joined, (s.setQueue c q).settings.room.window * 60⟩ }) := by
    refine Quiet.modSlot ((Quiet.refl s).setQueue c q) m _ ?_
    exact fun _ => ⟨rfl, rfl⟩
  dsimp only
  generalize (s.setQueue c q).modSlot m (fun x => { x with
      reservation := some ⟨e.card, e.account, e.joined, (s.setQueue c q).settings.room.window * 60⟩ }) = t at *
  have k1 := (h.quiet k).quiet ((Quiet.refl t).postSlot m)
  have k2 := (h.quiet k).enter hm .reserved
  refine Still.quiet (s := if (t.slot m).state = .reserved then t.postSlot m else t.enter m .reserved) ?_
    (((Quiet.refl _).post _).showLasting m _)
  split
  · exact k1
  · exact k2

theorem Still.enterIdle {n : Fin 24} (h : Still n a s) {m : Fin 24} (hm : m ≠ n) : Still n a (s.enterIdle m) := by
  have k := h.enter hm .idle
  unfold State.enterIdle State.offer
  split
  · exact k
  · split
    · exact k
    · exact k.reserve hm _ _ _

theorem Still.clearWaitlist {n : Fin 24} (h : Still n a s) (hn : ¬ a.asked n) (hr : (a.slot n).state ≠ .reserved) :
    Still n a s.clearWaitlist := by
  unfold State.clearWaitlist Machine.overSlots
  have k : Still n a { s with queues := Vector.replicate 4 [] } := h.quiet ((Quiet.refl s).change rfl rfl rfl)
  generalize ({ s with queues := Vector.replicate 4 [] } : State) = t at *
  generalize allSlots = l
  induction l generalizing t with
  | nil => exact k
  | cons m l ih =>
    refine ih _ ?_
    dsimp only
    split
    · next e =>
      have hm : m ≠ n := fun x => hr (by rw [← (k hn).2, ← x]; exact e)
      exact (k.quiet ((Quiet.refl t).dropReservation m)).enterIdle hm
    · exact k

/-- A cycle that ends into another state than IDLE leaves its slot there (R6, stage 4). -/
theorem cycleEnd_state (n : Fin 24) (r : Reason) (f : Option (FaultCode × Option Nat)) {st : SlotState}
    (h1 : st ≠ .idle) (h2 : st ≠ .reserved) (hh : (s.hold n).isSome) (b : Bool := true) : ((s.cycleEnd n r f st b).slot n).state = st := by
  unfold State.cycleEnd
  split
  · next e => rw [e] at hh; cases hh
  · dsimp only
    have d : ¬ (((s.settle n r f).post (.cycleEnd n s.settlement.next)).dropHeat n b).asked n := by
      generalize (s.settle n r f).post (.cycleEnd n s.settlement.next) = t
      unfold State.dropHeat
      dsimp only
      generalize t.modSlot n (fun y => { y with heatReq := false }) = u
      split
      · split
        · exact (giveUpGrant_dropped u n).asked
        · exact (dropGrant_dropped u n).asked
      · next e => exact (withdraw_dropped u n (Bool.eq_false_iff.2 e)).asked
    generalize ((s.settle n r f).post (.cycleEnd n s.settlement.next)).dropHeat n b = t at *
    have q := (Quiet.refl t).modSlot n (fun x => { x with warning := false, resume := none }) fun _ => ⟨rfl, rfl⟩
    have d := mt (q.asked n).1 d
    generalize t.modSlot n (fun x => { x with warning := false, resume := none }) = u at *
    rw [if_neg h1]
    have k0 : ¬ (u.enter n st).asked n := by
      simpa only [State.asked, State.enter_granted, State.enter_waiting] using d
    obtain ⟨e, k⟩ : ((u.enterEnded n st b).slot n).state = st ∧ ¬ (u.enterEnded n st b).asked n := by
      rcases enterEnded_cases u n st b with e | e <;> rw [e]
      · exact ⟨by rw [State.enter_state, if_pos rfl], k0⟩
      · exact ⟨enterTold_state st d, mt ((reckon_reckoned _ _ _ _).asked n).1 k0⟩
    generalize u.enterEnded n st b = v at *
    unfold State.holdsEnded
    split
    · unfold State.enterRoom
      dsimp only
      have q := (Quiet.refl v).changeRoom .closed .holdsEnded
      rw [if_neg (by decide)]
      exact (((Still.refl n v).quiet q).clearWaitlist k (by rw [e]; exact h2) k).2.trans e
    · exact e

/-! ### Start-up -/

/-- A store's holds stand on configured slots alone (R208). -/
def Store.sound (d : Store) : Prop := ∀ n : Fin 24, (d.holds[n.val]).isSome → (d.slots[n.val].getD none).isSome

theorem repairAt_get {α : Type} {k : Nat} (v : Vector α k) (l : List Nat) (f : Nat → α) (i : Fin k) :
    (repairAt v l f)[i.val] = if l.contains i.val then f i.val else v[i.val] := by
  simp [repairAt]

theorem judged_sound (d : Store) : d.judged.sound := by
  intro n hn
  unfold Store.judged at *
  dsimp only at *
  rw [repairAt_get] at hn
  by_cases e : ((d.droppedHolds.map fun n => n.val).contains n.val) = true
  · rw [if_pos e] at hn; cases hn
  · rw [if_neg e] at hn
    by_contra hc
    refine e ?_
    simp only [List.contains_iff_mem, List.mem_map]
    refine ⟨n, ?_, rfl⟩
    unfold Store.droppedHolds
    refine List.mem_filter.2 ⟨List.mem_finRange n, ?_⟩
    obtain ⟨x, hx⟩ := Option.isSome_iff_exists.1 hn
    rw [hx]
    simp only [Option.any_some, Store.dropsHold]
    rw [Bool.or_eq_true]
    right
    simpa using hc

theorem checkStore_sound (s : State) (l : List RecordId) :
    (s.checkStore l).store.sound ∧ (s.checkStore l).holds = (s.checkStore l).store.holds := by
  unfold State.checkStore
  exact ⟨judged_sound _, rfl⟩

theorem eraseCauses_sound (v : State) (h : v.store.sound) (k : v.holds = v.store.holds) :
    v.eraseCauses.store.sound ∧ v.eraseCauses.holds = v.eraseCauses.store.holds := by
  unfold State.eraseCauses Store.sound
  dsimp only
  exact ⟨h, k⟩

theorem startSlots_whole (w : State) (h : w.store.sound) (k : w.holds = w.store.holds) : Whole w.startSlots := by
  unfold State.startSlots State.modGov
  dsimp only
  refine ⟨by simp [State.oneRequest, State.granted, State.waiting, Governor.start], fun n _ => ?_, fun n _ => ?_⟩
  · simp [State.heatAt, State.granted, State.waiting, Governor.start, State.slot, State.startSlot, Slot.start]
  · simp only [State.hold, State.slot, Vector.getElem_ofFn, State.startSlot, k]
    have := h n
    unfold startState
    cases hc : w.store.slots[n.val].getD none with
    | none =>
      rw [hc] at this
      cases hh : w.store.holds[n.val] with
      | none => rfl
      | some x => rw [hh] at this; simp at this
    | some c =>
      cases hh : w.store.holds[n.val] with
      | none => simp; split <;> rfl
      | some x => simp [SlotState.busy]

theorem startRoom_whole (u : State) (b : Bool) (h : Whole u) : Whole (u.startRoom b) := by
  have k : Quiet u { u with
      room := ⟨u.modeState, false, .idle⟩,
      terminals := Vector.ofFn fun t => .start ((u.store.terminals[t]).getD .single)
        (({ u with room := ⟨u.modeState, false, .idle⟩ } : State).startDisplay t .a)
        (({ u with room := ⟨u.modeState, false, .idle⟩ } : State).startDisplay t .b),
      bus := .start u.modeState.display.isSome } := (Quiet.refl u).change rfl rfl rfl
  have m := k.post (.roomState u.modeState u.modeState u.settings.room.mode false .startUp)
  unfold State.startRoom
  exact Whole.ite (fun _ => Whole.suspend (Law.quiet h (m.setRoom _))) fun _ => Law.quiet h m

theorem startStages_whole (s : State) (i : StartInput) : Whole (s.startStages i) := by
  obtain ⟨h1, h2⟩ := checkStore_sound s i.failed
  obtain ⟨g1, g2⟩ := eraseCauses_sound _ h1 h2
  have k := startRoom_whole _ i.interlock (startSlots_whole _ g1 g2)
  unfold State.startStages
  dsimp only
  generalize (s.checkStore i.failed).eraseCauses.startSlots.startRoom i.interlock = t at *
  exact Law.quiet k ((Quiet.refl t).change rfl rfl rfl)

end Sys2Proof.Machine
end

