-- ==== Sys2Proof/Laws/Books.lean ====
section
/-!
SUPPORT. What the shared operations do to the books: the accounts, holds, settlement queue and settings, what the store keeps
of them (R204), and the event queue, to which events are only appended (R198). `Calm` for the operations that leave the books
alone, `Books` for those that keep the store in step with them.
-/

namespace Sys2Proof.Machine

/-- The books: the state without what an operation on the slots, the terminals' displays, the governor, the faults, the class
queues, the events and the rest of the part changes. -/
def State.books (s : State) : (List (Nat × Account) × Vector (Option Hold) 24 × SettlementQueue × Settings) ×
    Store × List (List StoreWrite) :=
  ((s.accounts, s.holds, s.settlement, s.settings), s.store, s.writes)

/-- From `a` to `s` the books are left alone, with the slots' configurations and cause sets and the terminals' modes, and events
are only appended. -/
structure Calm (a s : State) : Prop where
  books : s.books = a.books
  slots : ∀ n, (s.slot n).cfg = (a.slot n).cfg ∧ (s.slot n).causes = (a.slot n).causes
  mode : ∀ t, (s.terminal t).mode = (a.terminal t).mode
  events : a.events.queue <+: s.events.queue

variable {a s : State}

theorem Calm.refl (a : State) : Calm a a := ⟨rfl, fun _ => ⟨rfl, rfl⟩, fun _ => rfl, List.prefix_refl _⟩

theorem Calm.trans {b c : State} (h : Calm a b) (k : Calm b c) : Calm a c :=
  ⟨k.books.trans h.books, fun n => ⟨(k.slots n).1.trans (h.slots n).1, (k.slots n).2.trans (h.slots n).2⟩,
    fun t => (k.mode t).trans (h.mode t), h.events.trans k.events⟩

theorem Calm.ite {c : Prop} [Decidable c] {t u : State} (ht : Calm a t) (hu : Calm a u) : Calm a (if c then t else u) := by
  split <;> assumption

theorem Calm.foldl {α : Type} {f : State → α → State} (hf : ∀ a s x, Calm a s → Calm a (f s x)) (l : List α) (s : State)
    (h : Calm a s) : Calm a (l.foldl f s) := by
  induction l generalizing s with
  | nil => exact h
  | cons x l ih => exact ih _ (hf _ _ _ h)

theorem Calm.overSlots {f : Fin 24 → State → State} (h : Calm a s) (hf : ∀ n a s, Calm a s → Calm a (f n s)) :
    Calm a (overSlots f s) := Calm.foldl (fun a s n => hf n a s) _ _ h

/-! ### The primitive updates -/

/-- A change of fields outside the books. -/
theorem Calm.change {t : State} (h : Calm a s) (hb : t.books = s.books) (hs : t.slots = s.slots)
    (ht : t.terminals = s.terminals) (he : t.events = s.events) : Calm a t := by
  refine h.trans ⟨hb, fun n => ?_, fun x => ?_, he ▸ List.prefix_refl _⟩
  · simp only [State.slot, hs, and_self]
  · simp only [State.terminal, ht]

theorem Calm.post (h : Calm a s) (b : EventBody) : Calm a (s.post b) := by
  refine h.trans ⟨?_, fun n => ?_, fun t => ?_, ?_⟩
  · unfold State.post; split <;> rfl
  · simp [State.slot]
  · simp [State.terminal]
  · unfold State.post; split
    · exact List.prefix_append _ _
    · exact List.prefix_refl _

theorem Calm.setSlot (h : Calm a s) (n : Fin 24) (x : Slot) (hc : x.cfg = (s.slot n).cfg)
    (hk : x.causes = (s.slot n).causes) : Calm a (s.setSlot n x) := by
  refine h.trans ⟨rfl, fun m => ?_, fun _ => rfl, List.prefix_refl _⟩
  rw [State.slot_setSlot]; split
  · next e => rw [hc, hk, e]; exact ⟨rfl, rfl⟩
  · exact ⟨rfl, rfl⟩

theorem Calm.modSlot (h : Calm a s) (n : Fin 24) (f : Slot → Slot)
    (hf : ∀ x, (f x).cfg = x.cfg ∧ (f x).causes = x.causes) : Calm a (s.modSlot n f) :=
  h.setSlot n _ (hf _).1 (hf _).2

theorem Calm.modGov (h : Calm a s) (f : Governor → Governor) : Calm a (s.modGov f) := h.change rfl rfl rfl rfl
theorem Calm.setQueue (h : Calm a s) (c : Fin 4) (q : List WaitEntry) : Calm a (s.setQueue c q) := h.change rfl rfl rfl rfl
theorem Calm.setFaults (h : Calm a s) (f : Faults) : Calm a { s with faults := f } := h.change rfl rfl rfl rfl
theorem Calm.latch (h : Calm a s) (src : Option (Fin 24)) (c : FaultCode) : Calm a (s.latch src c) := h.setFaults _
theorem Calm.setBus (h : Calm a s) (b : Bus) : Calm a { s with bus := b } := h.change rfl rfl rfl rfl
theorem Calm.setRoom (h : Calm a s) (r : Room) : Calm a { s with room := r } := h.change rfl rfl rfl rfl
theorem Calm.modScanner (h : Calm a s) (f : Scanner → Scanner) : Calm a (s.modScanner f) := h.change rfl rfl rfl rfl
theorem Calm.setPort (h : Calm a s) (p : Port) (u : PortUnit) : Calm a (s.setPort p u) := by
  cases p <;> exact h.change rfl rfl rfl rfl
theorem Calm.modSense (h : Calm a s) (n : Fin 24) (f : SlotSense → SlotSense) : Calm a (s.modSense n f) :=
  h.modSlot n _ fun _ => ⟨rfl, rfl⟩

theorem Calm.modTerminal (h : Calm a s) (t : Fin 16) (f : Terminal → Terminal) (hf : ∀ x, (f x).mode = x.mode) :
    Calm a (s.modTerminal t f) := by
  refine h.trans ⟨rfl, fun n => ⟨rfl, rfl⟩, fun u => ?_, List.prefix_refl _⟩
  simp only [State.modTerminal, State.setTerminal, State.terminal, Vector.getElem_set]
  split
  · next e => rw [hf]; simp only [e]
  · rfl

theorem Calm.modHalf (h : Calm a s) (t : Fin 16) (k : Half) (f : HalfEntry → HalfEntry) : Calm a (s.modHalf t k f) :=
  h.modTerminal t _ fun x => by cases k <;> rfl

/-! ### Displays, events, slots -/

theorem Calm.setLasting (h : Calm a s) (t : Fin 16) (k : Half) (d : Display) : Calm a (s.setLasting t k d) := h.modHalf t k _

theorem Calm.showLasting (h : Calm a s) (n : Fin 24) (d : Display) : Calm a (s.showLasting n d) := by
  unfold State.showLasting; split
  · exact h.setLasting _ _ _
  · exact h

theorem Calm.showBrief (h : Calm a s) (n : Fin 24) (c : DisplayCode) (p : Nat) : Calm a (s.showBrief n c p) := by
  unfold State.showBrief; split
  · exact h.modHalf _ _ _
  · exact h

theorem Calm.postSlot (h : Calm a s) (n : Fin 24) : Calm a (s.postSlot n) := h.post _

theorem Calm.enter (h : Calm a s) (n : Fin 24) (st : SlotState) : Calm a (s.enter n st) := by
  unfold State.enter
  have k : Calm a (s.modSlot n fun x => { x with
      state := st, outputs := outputsOf st x.heatGrant, sense := x.sense.disturb,
      timer := (s.stateSeconds st).map (s.elapsed + ·) }) := h.setSlot n _ rfl rfl
  refine Calm.ite (k.postSlot n) ?_
  split
  · exact (k.postSlot n).showLasting _ _
  · exact k.postSlot n

theorem Calm.setGrant (h : Calm a s) (n : Fin 24) (g : Bool) : Calm a (s.setGrant n g) := h.setSlot n _ rfl rfl

/-! ### The governor -/

theorem Calm.grantSlot (h : Calm a s) (n : Fin 24) : Calm a (s.grantSlot n) := by
  unfold State.grantSlot
  exact Calm.ite ((h.setGrant n true).enter _ _) (h.setGrant n true)

theorem Calm.revokeSlot (h : Calm a s) (n : Fin 24) : Calm a (s.revokeSlot n) := (h.setGrant n false).enter _ _

theorem Calm.tidyStamp (h : Calm a s) : Calm a s.tidyStamp := by
  unfold State.tidyStamp; exact Calm.ite (h.modGov _) h

theorem Calm.revoke (h : Calm a s) (fell : Bool) : Calm a (s.revoke fell).1 :=
  Calm.foldl (fun _ _ x k => k.revokeSlot x.slot) _ _ (h.modGov _)

theorem Calm.grantPass (h : Calm a s) (r : List (Fin 24)) : Calm a (s.grantPass r) :=
  Calm.foldl (fun _ _ x k => k.grantSlot x.slot) _ _ (h.modGov _)

theorem Calm.reckon (h : Calm a s) (x y z : Bool) : Calm a (s.reckon x y z) := by
  unfold State.reckon
  refine Calm.tidyStamp (Calm.ite (Calm.grantPass (Calm.revoke ?_ _) _) (Calm.revoke ?_ _)) <;>
    exact (h.modGov _).modGov _

theorem Calm.placeNew (h : Calm a s) (n : Fin 24) : Calm a (s.placeNew n) := by
  unfold State.placeNew
  split
  · exact h
  · exact h
  · exact Calm.ite (h.modGov _) ((h.modGov _).modGov _)

theorem Calm.askHeat (h : Calm a s) (ns : List (Fin 24)) : Calm a (s.askHeat ns) := by
  unfold State.askHeat
  refine Calm.ite h (Calm.foldl (fun _ _ n k => Calm.ite k (k.enter n _)) _ _ (Calm.reckon ?_ _ _ _))
  exact Calm.foldl (fun _ _ n k => k.placeNew n) _ _ h

theorem Calm.removeRequest (h : Calm a s) (n : Fin 24) : Calm a (s.removeRequest n) := h.modGov _
theorem Calm.dropGrant (h : Calm a s) (n : Fin 24) : Calm a (s.dropGrant n) := (h.removeRequest n).setGrant n false
theorem Calm.giveUpGrant (h : Calm a s) (n : Fin 24) : Calm a (s.giveUpGrant n) := (h.dropGrant n).reckon _ _ _
theorem Calm.withdraw (h : Calm a s) (n : Fin 24) : Calm a (s.withdraw n) := (h.removeRequest n).tidyStamp
theorem Calm.clearGovernor (h : Calm a s) : Calm a s.clearGovernor :=
  (h.modGov _).overSlots fun n _ _ k => Calm.ite (k.setGrant n false) k
theorem Calm.enterTold (h : Calm a s) (n : Fin 24) (st : SlotState) : Calm a (s.enterTold n st) :=
  (h.enter n st).reckon _ _ _

theorem Calm.dropHeat (h : Calm a s) (n : Fin 24) (b : Bool := true) : Calm a (s.dropHeat n b) := by
  unfold State.dropHeat
  have k := h.modSlot n (fun x => { x with heatReq := false }) fun _ => ⟨rfl, rfl⟩
  exact Calm.ite (Calm.ite (k.giveUpGrant n) (k.dropGrant n)) (k.withdraw n)

/-! ### The waitlist -/

theorem Calm.reserve (h : Calm a s) (n : Fin 24) (c : Fin 4) (e : WaitEntry) (q : List WaitEntry) :
    Calm a (s.reserve n c e q) := by
  unfold State.reserve
  have k := (h.setQueue c q).modSlot n (fun x => { x with
    reservation := some ⟨e.card, e.account, e.joined, (s.setQueue c q).settings.room.window * 60⟩ })
    fun _ => ⟨rfl, rfl⟩
  exact ((Calm.ite (k.postSlot n) (k.enter n _)).post _).showLasting _ _

theorem Calm.offer (h : Calm a s) (n : Fin 24) : Calm a (s.offer n) := by
  unfold State.offer; split
  · exact h
  · split
    · exact h
    · exact h.reserve _ _ _ _

theorem Calm.enterIdle (h : Calm a s) (n : Fin 24) : Calm a (s.enterIdle n) := (h.enter n _).offer n

theorem Calm.dropReservation (h : Calm a s) (n : Fin 24) : Calm a (s.dropReservation n) :=
  h.modSlot n _ fun _ => ⟨rfl, rfl⟩

theorem Calm.handOn (h : Calm a s) (n : Fin 24) : Calm a (s.handOn n) := by
  unfold State.handOn
  have k := h.dropReservation n
  dsimp only
  split
  · exact k.enterIdle n
  · split
    · exact k.enterIdle n
    · exact k.reserve _ _ _ _

theorem Calm.giveBack (h : Calm a s) (c : Fin 4) (r : Reservation) : Calm a (s.giveBack c r) := by
  unfold State.giveBack
  dsimp only
  have k : Calm a (if 8 ≤ (s.queue c).length then
      match (s.queue c).getLast? with
      | some e => (s.setQueue c (s.queue c).dropLast).post (.waitlistDropped e.card c)
      | none => s
    else s) := by
    refine Calm.ite ?_ h
    split
    · exact (h.setQueue _ _).post _
    · exact h
  split
  · exact (k.setQueue _ _).offer _
  · exact k.setQueue _ _

theorem Calm.earlyNotice (h : Calm a s) (c : Fin 4) (n : Fin 24) (m : Nat) : Calm a (s.earlyNotice c n m) := by
  unfold State.earlyNotice; split
  · exact h
  · exact (h.setQueue _ _).post _

theorem Calm.join (h : Calm a s) (c : Fin 4) (card : Nat) : Calm a (s.join c card).1 := by
  unfold State.join
  split
  · exact h
  · dsimp only
    split
    · exact h
    · split
      · exact h
      · split
        · exact h
        · split
          · exact h
          · exact h.setQueue _ _

theorem Calm.losePlaces (h : Calm a s) (card : Nat) : Calm a (s.losePlaces card) :=
  (Calm.foldl (fun _ _ c k => k.setQueue c _) _ _ h).overSlots fun n _ _ k => Calm.ite (k.handOn n) k

theorem Calm.clearWaitlist (h : Calm a s) : Calm a s.clearWaitlist := by
  have k : Calm a { s with queues := Vector.replicate 4 [] } := h.change rfl rfl rfl rfl
  exact k.overSlots fun n _ _ k => Calm.ite ((k.dropReservation n).enterIdle n) k

theorem Calm.toldOfStart (h : Calm a s) (c : Fin 4) (card : Nat) : Calm a (s.toldOfStart c card) := by
  unfold State.toldOfStart
  dsimp only
  split
  · exact (h.setQueue _ _).handOn _
  · exact h.setQueue _ _

theorem Calm.waitSecond (h : Calm a s) : Calm a s.waitSecond :=
  (Calm.foldl (fun _ _ c k => k.setQueue c _) _ _ h).overSlots
    fun n _ _ k => k.modSlot n _ fun _ => ⟨rfl, rfl⟩

/-! ### The room -/

theorem Calm.displayAll (h : Calm a s) (d : Display) : Calm a (s.displayAll d) :=
  Calm.foldl (fun _ _ t k =>
    k.modTerminal t (fun x => { x with halfA := x.halfA.setRoom d, halfB := x.halfB.setRoom d }) fun _ => rfl) _ _ h

theorem Calm.roomDisplay (h : Calm a s) (r : RoomState) : Calm a (s.roomDisplay r) := by
  unfold State.roomDisplay; split
  · exact h.setBus _
  · exact Calm.ite h ((h.displayAll _).setBus _)

theorem Calm.changeRoom (h : Calm a s) (r : RoomState) (c : RoomCause) : Calm a (s.changeRoom r c) :=
  ((h.setRoom _).post _).roomDisplay _

theorem Calm.openDisplays (h : Calm a s) : Calm a s.openDisplays :=
  Calm.foldl (fun _ _ t k => (k.setLasting t .a _).setLasting t .b _) _ _ h

theorem Calm.enterRoom (h : Calm a s) (r : RoomState) (c : RoomCause) : Calm a (s.enterRoom r c) := by
  unfold State.enterRoom
  exact Calm.ite (h.changeRoom r c).openDisplays (h.changeRoom r c).clearWaitlist

theorem Calm.followMode (h : Calm a s) (c : RoomCause) : Calm a (s.followMode c) := by
  unfold State.followMode
  split <;> first | with_reducible exact h | with_reducible exact Calm.ite h (h.enterRoom _ _)

theorem Calm.holdsEnded (h : Calm a s) : Calm a s.holdsEnded := by
  unfold State.holdsEnded; exact Calm.ite (h.enterRoom _ _) h

/-! ### Running -/

theorem Calm.pointA (h : Calm a s) (n : Fin 24) : Calm a (s.pointA n) := by
  unfold State.pointA; split
  · exact h
  · exact Calm.ite h ((h.modSlot n (fun x => { x with warning := true }) fun _ => ⟨rfl, rfl⟩).earlyNotice _ _ _)

theorem Calm.startRunning (h : Calm a s) (n : Fin 24) : Calm a (s.startRunning n) := by
  unfold State.startRunning
  refine Calm.pointA (Calm.enter ?_ n _) n
  split <;> exact h.modSlot n _ fun _ => ⟨rfl, rfl⟩

theorem Calm.askIfWanted (h : Calm a s) (n : Fin 24) : Calm a (s.askIfWanted n) := by
  unfold State.askIfWanted; exact Calm.ite (h.askHeat _) h

theorem Calm.enterRunning (h : Calm a s) (n : Fin 24) : Calm a (s.enterRunning n) := (h.startRunning n).askIfWanted n

theorem Calm.recoverCounters (h : Calm a s) (n : Fin 24) : Calm a (s.recoverCounters n) := by
  unfold State.recoverCounters
  dsimp only
  split <;> exact h.modSlot n _ fun _ => ⟨rfl, rfl⟩

theorem Calm.confirmUnlock (h : Calm a s) (n : Fin 24) : Calm a (s.confirmUnlock n) := by
  unfold State.confirmUnlock
  exact Calm.ite (Calm.ite ((h.enterTold n _).enterIdle n) (h.enterTold n _)) (h.enterTold n _)

theorem Calm.haltSlot (h : Calm a s) (n : Fin 24) (r : Resume) : Calm a (s.haltSlot n r) :=
  ((h.modSlot n (fun x => { x with heatReq := false, resume := some r }) fun _ => ⟨rfl, rfl⟩).setGrant n
    false).enter n _

theorem Calm.resumeRunning (h : Calm a s) (n : Fin 24) : Calm a (s.resumeRunning n) := by
  unfold State.resumeRunning
  refine (h.modSlot n _ ?_).enter n _
  exact fun _ => ⟨rfl, rfl⟩

/-! ### Reports and latched events -/

theorem Calm.takeOut (h : Calm a s) (n : Fin 24) : Calm a (s.takeOut n) := by
  unfold State.takeOut; split
  · exact ((h.dropReservation n).enter n _).giveBack _ _
  · exact h.enter n _

theorem Calm.followJoin (h : Calm a s) (n : Fin 24) : Calm a (s.followJoin n) := by
  unfold State.followJoin
  split <;> first | with_reducible exact h.takeOut n | with_reducible exact h.postSlot n

theorem Calm.takeView (h : Calm a s) (n : Fin 24) (v : View) : Calm a (s.takeView n v) := by
  unfold State.takeView
  refine h.modSlot n _ ?_
  exact fun _ => ⟨rfl, rfl⟩

theorem Calm.latchReport (h : Calm a s) (n : Fin 24) (v : View) : Calm a (s.latchReport n v) := by
  unfold State.latchReport
  dsimp only
  generalize (if (s.slot n).outputs.locked = true then LockView.locked else LockView.unlocked) = wanted
  have k1 := Calm.ite (c := v.lock = wanted) (h.latch (some n) .lockFail) h
  have k2 := Calm.ite (c := v.lock = .unlocked) (k1.latch (some n) .unlockFail) k1
  have k3 := Calm.ite (c := v.forced = true) k2 (k2.latch (some n) .doorForced)
  exact Calm.ite k3 (k3.latch _ _)

theorem Calm.heatChange (h : Calm a s) (n : Fin 24) (w : Bool) : Calm a (s.heatChange n w) := by
  unfold State.heatChange
  dsimp only
  split
  · exact h.askHeat _
  · exact Calm.ite (h.giveUpGrant n) h
  · exact (h.withdraw n).enter n _
  · exact h

theorem Calm.lockingReport (h : Calm a s) (n : Fin 24) (v : View) : Calm a (s.lockingReport n v) := by
  unfold State.lockingReport
  split <;> first | with_reducible exact h | with_reducible exact h.enterRunning n | with_reducible exact (h.enterTold n _).showLasting _ _

theorem Calm.startPress (h : Calm a s) (n : Fin 24) : Calm a (s.startPress n) := by
  unfold State.startPress
  refine Calm.ite h (Calm.ite (h.showBrief _ _ _) (Calm.ite (h.showBrief _ _ _) ?_))
  split
  · exact h
  · exact Calm.ite (h.enterTold n _) (h.showBrief _ _ _)

theorem Calm.busyPath (h : Calm a s) (n : Fin 24) (card : Nat) : Calm a (s.busyPath n card) := by
  unfold State.busyPath
  split
  · exact h
  · split
    · exact h.showBrief _ _ _
    · split
      · exact h.showBrief _ _ _
      · exact (h.join _ _).showBrief _ _ _

/-! ### What the store keeps -/

/-- From `a` to `s` events and settlement records are only appended and writes only begun, and the store stays in step while the
records fit its 64 places. -/
structure Books (a s : State) : Prop where
  events : a.events.queue <+: s.events.queue
  writes : a.writes <+: s.writes
  records : a.settlement.records <+: s.settlement.records
  store : s.store = a.store
  mirror : s.settlement.records.length ≤ 64 → a.mirrored → s.mirrored

theorem Books.refl (a : State) : Books a a := ⟨List.prefix_refl _, List.prefix_refl _, List.prefix_refl _, rfl, fun _ => id⟩

theorem Books.trans {b c : State} (h : Books a b) (k : Books b c) : Books a c :=
  ⟨h.events.trans k.events, h.writes.trans k.writes, h.records.trans k.records, k.store.trans h.store,
    fun l m => k.mirror l (h.mirror (k.records.length_le.trans l) m)⟩

theorem Books.ite {c : Prop} [Decidable c] {t u : State} (ht : Books a t) (hu : Books a u) :
    Books a (if c then t else u) := by
  split <;> assumption

theorem Books.foldl {α : Type} {f : State → α → State} (hf : ∀ a s x, Books a s → Books a (f s x)) (l : List α) (s : State)
    (h : Books a s) : Books a (l.foldl f s) := by
  induction l generalizing s with
  | nil => exact h
  | cons x l ih => exact ih _ (hf _ _ _ h)

theorem Books.overSlots {f : Fin 24 → State → State} (h : Books a s) (hf : ∀ n a s, Books a s → Books a (f n s)) :
    Books a (overSlots f s) := Books.foldl (fun a s n => hf n a s) _ _ h

theorem Calm.toBooks (h : Calm a s) : Books a s := by
  obtain ⟨hb, hs, ht, he⟩ := h
  simp only [State.books, Prod.mk.injEq] at hb
  obtain ⟨⟨h1, h2, h3, h4⟩, h5, h6⟩ := hb
  refine ⟨he, h6 ▸ List.prefix_refl _, h3 ▸ List.prefix_refl _, h5, fun _ m => ?_⟩
  obtain ⟨m1, m2, m7, m8, m3, m4, m5, m6⟩ := m
  have e : s.storeToBe = a.storeToBe := by rw [State.storeToBe, State.storeToBe, h5, h6]
  refine ⟨fun i => ?_, ?_, fun p => ?_, ?_, ?_, fun n => ?_, fun n => ?_, fun t => ?_⟩
  · rw [e, m1, State.account, State.account, h1]
  · rw [e, m2, h2]
  · simp only [e, m7, h3]
  · rw [e, m8, h3]
  · rw [e, m3, h4]
  · rw [e, m4, (hs n).1]
  · rw [e, m5, (hs n).2]
  · rw [e, m6, ht]

/-- A calm operation continues a chain. -/
theorem Books.calm {t : State} (h : Books a s) (k : Calm s t) : Books a t := h.trans k.toBooks

theorem storeToBe_write (s : State) (ws : List StoreWrite) :
    (s.write ws).storeToBe = s.storeToBe.applyAll ws := by
  simp [State.storeToBe, State.write, Store.applyAll]

/-- A change of the books that is written to the store. -/
theorem Books.wrote {t u : State} (h : Books a s) (ws : List StoreWrite) (hu : u = t.write ws)
    (hw : t.writes = s.writes) (hs : t.store = s.store) (he : t.events = s.events)
    (hr : s.settlement.records <+: t.settlement.records)
    (hm : u.settlement.records.length ≤ 64 → s.mirrored → t.storeToBe = s.storeToBe →
      u.storeToBe = s.storeToBe.applyAll ws → u.mirrored) : Books a u := by
  subst hu
  refine h.trans ⟨he ▸ List.prefix_refl _, ?_, hr, hs, fun l m => hm l m ?_ ?_⟩
  · show _ <+: t.writes ++ [ws]
    rw [hw]; exact List.prefix_append _ _
  · rw [State.storeToBe, State.storeToBe, hw, hs]
  · rw [storeToBe_write, State.storeToBe, hw, hs]; rfl

theorem Accounts.read_put (t : List (Nat × Account)) (i j : Nat) (x : Account) :
    Accounts.read (Accounts.put t i x) j = if i = j then x else Accounts.read t j := by
  unfold Accounts.read
  rw [Accounts.find_put]
  split <;> rfl

/-- An account record written and stored. -/
theorem Books.putAccount (h : Books a s) (i : Nat) (x : Account) : Books a ((s.setAccount i x).write [.account i x]) := by
  refine h.wrote [.account i x] rfl rfl rfl rfl (List.prefix_refl _) fun _ m _ e => ?_
  obtain ⟨m1, m2, m7, m8, m3, m4, m5, m6⟩ := m
  simp only [Store.applyAll, List.foldl_cons, List.foldl_nil, Store.apply] at e
  refine ⟨fun j => ?_, ?_, ?_, ?_, ?_, ?_, ?_, ?_⟩ <;> rw [e]
  · show Accounts.read (Accounts.put _ _ _) j = (s.setAccount i x).account j
    rw [Accounts.read_put, State.account_setAccount, m1]
  · exact m2
  · exact m7
  · exact m8
  · exact m3
  · exact m4
  · exact m5
  · exact m6

/-- A hold entry and its account's record written and stored. -/
theorem Books.putHold (h : Books a s) (n : Fin 24) (x : Option Hold) (i : Nat) (y : Account) :
    Books a (((s.setHold n x).setAccount i y).write [.hold n x, .account i y]) := by
  refine h.wrote _ rfl rfl rfl rfl (List.prefix_refl _) fun _ m _ e => ?_
  obtain ⟨m1, m2, m7, m8, m3, m4, m5, m6⟩ := m
  simp only [Store.applyAll, List.foldl_cons, List.foldl_nil, Store.apply] at e
  refine ⟨fun j => ?_, ?_, ?_, ?_, ?_, ?_, ?_, ?_⟩ <;> rw [e]
  · show Accounts.read (Accounts.put _ _ _) j = (s.setAccount i y).account j
    rw [Accounts.read_put, State.account_setAccount, m1]
  · show _ = s.holds.set n.val x
    rw [← m2]
  · exact m7
  · exact m8
  · exact m3
  · exact m4
  · exact m5
  · exact m6

theorem Books.storeRun (h : Books a s) (n : Fin 24) : Books a (s.storeRun n) := by
  unfold State.storeRun; split
  · exact h
  · refine Books.ite (h.wrote _ rfl rfl rfl rfl (List.prefix_refl _) fun _ m _ e => ?_) h
    obtain ⟨m1, m2, m7, m8, m3, m4, m5, m6⟩ := m
    simp only [Store.applyAll, List.foldl_cons, List.foldl_nil, Store.apply] at e
    refine ⟨?_, ?_, ?_, ?_, ?_, ?_, ?_, ?_⟩ <;> rw [e]
    · exact m1
    · dsimp only [State.setHold, State.write]
      rw [← m2]
    · exact m7
    · exact m8
    · exact m3
    · exact m4
    · exact m5
    · exact m6

/-- A record appended to a queue of fewer than 64, and written at the place that the queue's end names (R91, R94). -/
theorem place_append {v : Vector (Option Settlement) 64} (q : SettlementQueue) (r : Settlement) (p : Fin 64)
    (hl : q.records.length + 1 ≤ 64)
    (hv : ∀ p : Fin 64, v[p.val] = q.records[(p.val + 64 - q.oldest % 64) % 64]?) :
    (v.set (q.place q.records.length).val (some r))[p.val] = (q.records ++ [r])[(p.val + 64 - q.oldest % 64) % 64]? := by
  have hp := p.isLt
  have ho : q.oldest % 64 < 64 := Nat.mod_lt _ (by decide)
  rw [Vector.getElem_set, List.getElem?_append, hv]
  by_cases k : (q.place q.records.length).val = p.val
  all_goals have w : (q.place q.records.length).val = (q.oldest + q.records.length) % 64 := rfl
  · have e : (p.val + 64 - q.oldest % 64) % 64 = q.records.length := by omega
    rw [if_pos k, e, if_neg (by omega)]
    simp
  · have e : (p.val + 64 - q.oldest % 64) % 64 ≠ q.records.length := by omega
    rw [if_neg k]
    split
    · rfl
    · rw [List.getElem?_eq_none (by omega), List.getElem?_eq_none (by simp; omega)]

theorem Books.settle (h : Books a s) (n : Fin 24) (r : Reason) (f : Option (FaultCode × Option Nat)) :
    Books a (s.settle n r f) := by
  unfold State.settle
  split
  · exact h
  · next x _ =>
    dsimp only
    refine h.wrote _ rfl rfl rfl rfl (List.prefix_append _ _) fun l m _ e => ?_
    obtain ⟨m1, m2, m7, m8, m3, m4, m5, m6⟩ := m
    simp only [Store.applyAll, List.foldl_cons, List.foldl_nil, Store.apply] at e
    refine ⟨fun j => ?_, ?_, ?_, ?_, ?_, ?_, ?_, ?_⟩ <;> (try rw [e])
    · show Accounts.read (Accounts.put _ _ _) j = Accounts.read (Accounts.write _ _ _) j
      rw [Accounts.read_put, Accounts.read_write, m1]; rfl
    · show _ = s.holds.set n.val none
      rw [← m2]
    · intro p
      simp only [e]
      exact place_append _ _ p (by simpa [State.write] using l) m7
    · rfl
    · exact m3
    · exact m4
    · exact m5
    · exact m6

/-- A cause that joins or leaves a slot's set, its stored members written (R154). -/
theorem Books.causes (h : Books a s) (n : Fin 24) (m : Cause) (v : Bool) :
    Books a ((s.setCause n m v).writeCauses n m) := by
  unfold State.writeCauses
  have sc (k : Fin 24) : ((s.setCause n m v).slot k).causes =
      if n = k then (s.slot n).causes.set m v else (s.slot k).causes := by
    rw [State.setCause, State.modSlot, State.slot_setSlot]; split <;> rfl
  have sg (k : Fin 24) : ((s.setCause n m v).slot k).cfg = (s.slot k).cfg := by
    rw [State.setCause, State.modSlot, State.slot_setSlot]; split
    · next e => rw [e]
    · rfl
  split
  · next e =>
    subst e
    refine h.trans ⟨List.prefix_refl _, List.prefix_refl _, List.prefix_refl _, rfl, fun _ m => ?_⟩
    obtain ⟨m1, m2, m7, m8, m3, m4, m5, m6⟩ := m
    refine ⟨m1, m2, m7, m8, m3, fun k => (m4 k).trans (sg k).symm, fun k => ?_, m6⟩
    rw [sc]
    refine (m5 k).trans ?_
    split
    · next e => subst e; rfl
    · rfl
  · refine h.wrote _ rfl rfl rfl rfl (List.prefix_refl _) fun _ m _ e => ?_
    obtain ⟨m1, m2, m7, m8, m3, m4, m5, m6⟩ := m
    simp only [Store.applyAll, List.foldl_cons, List.foldl_nil, Store.apply] at e
    refine ⟨?_, ?_, ?_, ?_, ?_, fun k => ?_, fun k => ?_, ?_⟩ <;> rw [e]
    · exact m1
    · exact m2
    · exact m7
    · exact m8
    · exact m3
    · exact (m4 k).trans (sg k).symm
    · dsimp only
      show _ = ((s.setCause n _ v).slot k).causes.stored
      rw [Vector.getElem_set]
      split
      · next e => rw [Fin.ext e]; rfl
      · next e => rw [sc, if_neg (fun w => e (congrArg Fin.val w))]; exact m5 k
    · exact m6

/-- The settings changed and stored. -/
theorem Books.settings (h : Books a s) (g : Settings) (w : StoreWrite)
    (hk : ∀ d : Store, d.settings = s.settings → (d.apply w).settings = g)
    (hd : ∀ d : Store, (d.apply w).accounts = d.accounts ∧ (d.apply w).holds = d.holds ∧ (d.apply w).slots = d.slots ∧
      (d.apply w).causes = d.causes ∧ (d.apply w).terminals = d.terminals ∧ (d.apply w).places = d.places ∧
      (d.apply w).header = d.header) :
    Books a (({ s with settings := g } : State).write [w]) := by
  refine h.wrote [w] rfl rfl rfl rfl (List.prefix_refl _) fun _ m _ e => ?_
  obtain ⟨m1, m2, m7, m8, m3, m4, m5, m6⟩ := m
  simp only [Store.applyAll, List.foldl_cons, List.foldl_nil] at e
  obtain ⟨d1, d2, d3, d4, d5, d6, d7⟩ := hd s.storeToBe
  refine ⟨?_, ?_, ?_, ?_, ?_, ?_, ?_, ?_⟩ <;> rw [e]
  · rw [d1]; exact m1
  · rw [d2]; exact m2
  · rw [d6]; exact m7
  · rw [d7]; exact m8
  · exact hk _ m3
  · rw [d3]; exact m4
  · rw [d4]; exact m5
  · rw [d5]; exact m6
/-! ### The calm operations in a chain -/

theorem Books.post (h : Books a s) (b : EventBody) : Books a (s.post b) := h.calm ((Calm.refl s).post b)
theorem Books.postSlot (h : Books a s) (n : Fin 24) : Books a (s.postSlot n) := h.calm ((Calm.refl s).postSlot n)
theorem Books.modSlot (h : Books a s) (n : Fin 24) (f : Slot → Slot)
    (hf : ∀ x, (f x).cfg = x.cfg ∧ (f x).causes = x.causes) : Books a (s.modSlot n f) := h.calm ((Calm.refl s).modSlot n f hf)
theorem Books.modSense (h : Books a s) (n : Fin 24) (f : SlotSense → SlotSense) : Books a (s.modSense n f) :=
  h.calm ((Calm.refl s).modSense n f)
theorem Books.modGov (h : Books a s) (f : Governor → Governor) : Books a (s.modGov f) := h.calm ((Calm.refl s).modGov f)
theorem Books.modScanner (h : Books a s) (f : Scanner → Scanner) : Books a (s.modScanner f) :=
  h.calm ((Calm.refl s).modScanner f)
theorem Books.setFaults (h : Books a s) (f : Faults) : Books a { s with faults := f } := h.calm ((Calm.refl s).setFaults f)
theorem Books.setBus (h : Books a s) (b : Bus) : Books a { s with bus := b } := h.calm ((Calm.refl s).setBus b)
theorem Books.setRoom (h : Books a s) (r : Room) : Books a { s with room := r } := h.calm ((Calm.refl s).setRoom r)
theorem Books.setQueue (h : Books a s) (c : Fin 4) (q : List WaitEntry) : Books a (s.setQueue c q) :=
  h.calm ((Calm.refl s).setQueue c q)
theorem Books.latch (h : Books a s) (src : Option (Fin 24)) (c : FaultCode) : Books a (s.latch src c) :=
  h.calm ((Calm.refl s).latch src c)
theorem Books.modTerminal (h : Books a s) (t : Fin 16) (f : Terminal → Terminal) (hf : ∀ x, (f x).mode = x.mode) :
    Books a (s.modTerminal t f) := h.calm ((Calm.refl s).modTerminal t f hf)
theorem Books.modHalf (h : Books a s) (t : Fin 16) (k : Half) (f : HalfEntry → HalfEntry) : Books a (s.modHalf t k f) :=
  h.calm ((Calm.refl s).modHalf t k f)
theorem Books.showBrief (h : Books a s) (n : Fin 24) (c : DisplayCode) (p : Nat) : Books a (s.showBrief n c p) :=
  h.calm ((Calm.refl s).showBrief n c p)
theorem Books.showLasting (h : Books a s) (n : Fin 24) (d : Display) : Books a (s.showLasting n d) :=
  h.calm ((Calm.refl s).showLasting n d)
theorem Books.reckon (h : Books a s) (x y z : Bool) : Books a (s.reckon x y z) := h.calm ((Calm.refl s).reckon x y z)
theorem Books.enter (h : Books a s) (n : Fin 24) (st : SlotState) : Books a (s.enter n st) :=
  h.calm ((Calm.refl s).enter n st)
theorem Books.enterTold (h : Books a s) (n : Fin 24) (st : SlotState) : Books a (s.enterTold n st) :=
  h.calm ((Calm.refl s).enterTold n st)
theorem Books.enterIdle (h : Books a s) (n : Fin 24) : Books a (s.enterIdle n) := h.calm ((Calm.refl s).enterIdle n)
theorem Books.offer (h : Books a s) (n : Fin 24) : Books a (s.offer n) := h.calm ((Calm.refl s).offer n)
theorem Books.handOn (h : Books a s) (n : Fin 24) : Books a (s.handOn n) := h.calm ((Calm.refl s).handOn n)
theorem Books.dropHeat (h : Books a s) (n : Fin 24) (b : Bool := true) : Books a (s.dropHeat n b) :=
  h.calm ((Calm.refl s).dropHeat n b)
theorem Books.holdsEnded (h : Books a s) : Books a s.holdsEnded := h.calm (Calm.refl s).holdsEnded
theorem Books.askHeat (h : Books a s) (ns : List (Fin 24)) : Books a (s.askHeat ns) := h.calm ((Calm.refl s).askHeat ns)
theorem Books.askIfWanted (h : Books a s) (n : Fin 24) : Books a (s.askIfWanted n) := h.calm ((Calm.refl s).askIfWanted n)
theorem Books.haltSlot (h : Books a s) (n : Fin 24) (r : Resume) : Books a (s.haltSlot n r) :=
  h.calm ((Calm.refl s).haltSlot n r)
theorem Books.recoverCounters (h : Books a s) (n : Fin 24) : Books a (s.recoverCounters n) :=
  h.calm ((Calm.refl s).recoverCounters n)
theorem Books.startRunning (h : Books a s) (n : Fin 24) : Books a (s.startRunning n) := h.calm ((Calm.refl s).startRunning n)
theorem Books.resumeRunning (h : Books a s) (n : Fin 24) : Books a (s.resumeRunning n) :=
  h.calm ((Calm.refl s).resumeRunning n)
theorem Books.takeOut (h : Books a s) (n : Fin 24) : Books a (s.takeOut n) := h.calm ((Calm.refl s).takeOut n)
theorem Books.followJoin (h : Books a s) (n : Fin 24) : Books a (s.followJoin n) := h.calm ((Calm.refl s).followJoin n)
theorem Books.takeView (h : Books a s) (n : Fin 24) (v : View) : Books a (s.takeView n v) := h.calm ((Calm.refl s).takeView n v)
theorem Books.latchReport (h : Books a s) (n : Fin 24) (v : View) : Books a (s.latchReport n v) :=
  h.calm ((Calm.refl s).latchReport n v)
theorem Books.heatChange (h : Books a s) (n : Fin 24) (w : Bool) : Books a (s.heatChange n w) :=
  h.calm ((Calm.refl s).heatChange n w)
theorem Books.lockingReport (h : Books a s) (n : Fin 24) (v : View) : Books a (s.lockingReport n v) :=
  h.calm ((Calm.refl s).lockingReport n v)
theorem Books.confirmUnlock (h : Books a s) (n : Fin 24) : Books a (s.confirmUnlock n) := h.calm ((Calm.refl s).confirmUnlock n)
theorem Books.startPress (h : Books a s) (n : Fin 24) : Books a (s.startPress n) := h.calm ((Calm.refl s).startPress n)
theorem Books.busyPath (h : Books a s) (n : Fin 24) (c : Nat) : Books a (s.busyPath n c) := h.calm ((Calm.refl s).busyPath n c)
theorem Books.toldOfStart (h : Books a s) (c : Fin 4) (k : Nat) : Books a (s.toldOfStart c k) :=
  h.calm ((Calm.refl s).toldOfStart c k)
theorem Books.changeRoom (h : Books a s) (r : RoomState) (c : RoomCause) : Books a (s.changeRoom r c) :=
  h.calm ((Calm.refl s).changeRoom r c)
theorem Books.followMode (h : Books a s) (c : RoomCause) : Books a (s.followMode c) := h.calm ((Calm.refl s).followMode c)
theorem Books.clearGovernor (h : Books a s) : Books a s.clearGovernor := h.calm (Calm.refl s).clearGovernor

/-! ### The operations that touch the books -/

theorem Books.rollAccount (h : Books a s) (i : Nat) : Books a (s.rollAccount i) := by
  unfold State.rollAccount; exact Books.ite h (h.putAccount _ _)

theorem Books.takeTopUp (h : Books a s) (n : Fin 24) (x : Hold) (i : Nat) (y : Account) : Books a (s.takeTopUp n x i y) := by
  unfold State.takeTopUp
  dsimp only
  refine Books.ite (Books.showLasting ?_ _ _) ?_ <;> refine (Books.modSlot ?_ n _ ?_).showBrief _ _ _ <;> first
    | with_reducible exact h.putHold _ _ _ _
    | with_reducible exact fun _ => ⟨rfl, rfl⟩

theorem Books.placeHold (h : Books a s) (n : Fin 24) (c : Fin 4) (i : Nat) (x : Account) (card : Nat) :
    Books a (s.placeHold n c i x card) := by
  unfold State.placeHold
  refine ((Books.enter (Books.modSlot (h.putHold n _ i _) n _ ?_) n _).showLasting n _).toldOfStart
    c card
  exact fun _ => ⟨rfl, rfl⟩

theorem Books.startTap (h : Books a s) (n : Fin 24) (card : Nat) : Books a (s.startTap n card) := by
  unfold State.startTap
  split
  · exact h
  · split
    · exact h.showBrief _ _ _
    · dsimp only
      have k : ∀ i, Books a (if (s.account i).cap = 0 then s else s.rollAccount i) := fun i => Books.ite h (h.rollAccount i)
      refine Books.ite (h.showBrief _ _ _) (Books.ite (h.showBrief _ _ _) (Books.ite (h.showBrief _ _ _)
        (Books.ite ((k _).showBrief _ _ _) (Books.ite ((k _).showBrief _ _ _) (h.placeHold _ _ _ _ _)))))

theorem Books.topUpTap (h : Books a s) (n : Fin 24) (card : Nat) : Books a (s.topUpTap n card) := by
  unfold State.topUpTap
  split
  · exact h
  · split
    · exact h.showBrief _ _ _
    · dsimp only
      have k : ∀ i, Books a (if (s.account i).cap = 0 then s else s.rollAccount i) := fun i => Books.ite h (h.rollAccount i)
      refine Books.ite (h.showBrief _ _ _) (Books.ite (h.showBrief _ _ _) (Books.ite (h.showBrief _ _ _)
        (Books.ite (h.showBrief _ _ _) (Books.ite ((k _).showBrief _ _ _) (h.takeTopUp _ _ _ _)))))

theorem Books.enterEnded (h : Books a s) (n : Fin 24) (st : SlotState) (b : Bool) : Books a (s.enterEnded n st b) := by
  unfold State.enterEnded; exact Books.ite (h.enterTold n st) (h.enter n st)

theorem Books.cycleEnd (h : Books a s) (n : Fin 24) (r : Reason) (f : Option (FaultCode × Option Nat)) (st : SlotState)
    (b : Bool := true) :
    Books a (s.cycleEnd n r f st b) := by
  unfold State.cycleEnd
  split
  · exact h
  · have k := Books.modSlot (((h.settle n r f).post (.cycleEnd n s.settlement.next)).dropHeat n b) n
      (fun x => { x with warning := false, resume := none }) fun _ => ⟨rfl, rfl⟩
    exact Books.holdsEnded (Books.ite (k.enterIdle n) (k.enterEnded n st b))

theorem Books.recoverRunning (h : Books a s) (n : Fin 24) : Books a (s.recoverRunning n) := by
  unfold State.recoverRunning
  have k := h.recoverCounters n
  have m := (k.modSlot n (fun x => { x with resume := some .running }) fun _ => ⟨rfl, rfl⟩).enter n .suspended
  exact Books.ite (Books.ite (m.cycleEnd _ _ _ _) m) ((k.enter n _).askIfWanted n)

theorem Books.recover (h : Books a s) (n : Fin 24) : Books a (s.recover n) := by
  unfold State.recover
  dsimp only
  split <;> first | with_reducible exact Books.ite (h.recoverRunning n) (h.cycleEnd _ _ _ _) | with_reducible exact h.cycleEnd _ _ _ _

theorem Books.suspendSlot (h : Books a s) (n : Fin 24) : Books a (s.suspendSlot n) := by
  unfold State.suspendSlot
  split <;> first | with_reducible exact h | with_reducible exact h.haltSlot _ _ | with_reducible exact h.cycleEnd _ _ _ _

theorem Books.limitSlot (h : Books a s) (n : Fin 24) : Books a (s.limitSlot n) := by
  unfold State.limitSlot; exact Books.ite (h.cycleEnd _ _ _ _) h

theorem Books.resumeSlot (h : Books a s) (n : Fin 24) : Books a (s.resumeSlot n) := by
  unfold State.resumeSlot
  dsimp only
  have k := h.modSlot n (fun x => { x with resume := none }) fun _ => ⟨rfl, rfl⟩
  refine Books.ite h ?_
  split
  · exact Books.ite (k.startRunning n) (k.enter n _)
  · exact Books.ite (h.cycleEnd _ _ _ _) (h.resumeRunning n)
  · exact Books.ite (h.cycleEnd _ _ _ _) (h.resumeRunning n)

theorem Books.resumeSlots (h : Books a s) : Books a s.resumeSlots :=
  Books.askHeat (Books.foldl (fun _ _ n k => k.resumeSlot n) _ _ h) _

theorem Books.joinCause (h : Books a s) (n : Fin 24) (m : Cause) : Books a (s.joinCause n m) := by
  unfold State.joinCause; exact Books.ite h ((h.causes n m true).followJoin n)

theorem Books.joinLost (h : Books a s) (n : Fin 24) : Books a (s.joinLost n) := by
  unfold State.joinLost
  have k : Books a (s.setCause n .lost true) := by simpa [State.writeCauses] using h.causes n .lost true
  refine Books.ite h ?_
  dsimp only
  split <;> first
    | with_reducible exact k
    | with_reducible exact k.postSlot n
    | with_reducible exact k.takeOut n
    | with_reducible exact k.cycleEnd _ _ _ _ _

theorem Books.removeCause (h : Books a s) (n : Fin 24) (m : Cause) : Books a (s.removeCause n m) := by
  unfold State.removeCause
  have k := (h.causes n m false).postSlot n
  exact Books.ite h (Books.ite (k.enterIdle n) k)

theorem Books.faultEnd (h : Books a s) (n : Fin 24) (c : FaultCode) (e : Option Nat) : Books a (s.faultEnd n c e) := by
  unfold State.faultEnd; exact Books.ite (h.cycleEnd _ _ _ _) h

theorem Books.unlockFailed (h : Books a s) (n : Fin 24) : Books a (s.unlockFailed n) := by
  unfold State.unlockFailed
  exact (Books.ite h (h.causes n _ true)).enterTold n _

theorem Books.faultAct (h : Books a s) (n : Fin 24) (c : FaultCode) (e : Option Nat) (v : Severity) :
    Books a (s.faultAct n c e v) := by
  unfold State.faultAct
  split
  · exact h
  · exact h.faultEnd _ _ _
  · exact Books.ite (h.unlockFailed n) ((h.faultEnd _ _ _).joinCause n _)
  · exact h.joinLost n

theorem Books.raise (h : Books a s) (src : Option (Fin 24)) (c : FaultCode) (e : Option Nat) : Books a (s.raise src c e) := by
  unfold State.raise
  dsimp only
  have k := (h.setFaults (s.faults.enter src c e s.clock).1).post (.faultRaised src c
    (s.faults.enter src c e s.clock).2.1.errorCode (s.faults.enter src c e s.clock).2.1.occurrences
    (s.faults.enter src c e s.clock).2.1.severity (s.faults.enter src c e s.clock).2.2)
  cases src with
  | none => exact Books.ite (k.latch _ _) k
  | some n => exact Books.ite ((k.faultAct n c e _).latch _ _) (k.faultAct n c e _)

theorem Books.releaseLockout (h : Books a s) (n : Fin 24) : Books a (s.releaseLockout n) := by
  unfold State.releaseLockout; exact Books.ite (h.removeCause n _) h

theorem Books.loseSlots (h : Books a s) (t : Fin 16) : Books a (s.loseSlots t) := by
  unfold State.loseSlots State.reckonAfter
  exact Books.reckon (Books.foldl (fun _ _ n k => k.raise (some n) _ _) _ _ h) _ _ _

theorem Books.regainSlot (h : Books a s) (n : Fin 24) : Books a (s.regainSlot n) := (h.latch _ _).removeCause n _

theorem Books.regainSlots (h : Books a s) (t : Fin 16) : Books a (s.regainSlots t) := by
  unfold State.regainSlots
  exact Books.reckon (Books.foldl (fun _ _ n k => k.regainSlot n) _ _ h) _ _ _

theorem Books.reportFaults (h : Books a s) (n : Fin 24) (b v : View) : Books a (s.reportFaults n b v) := by
  unfold State.reportFaults
  have k := Books.ite (c := v.forced ∧ !b.forced ∧ (s.slot n).state.forcible) (h.raise (some n) .doorForced none) h
  exact Books.ite (k.raise _ _ _) k

theorem Books.reportAct (h : Books a s) (n : Fin 24) (w : Bool) (v : View) : Books a (s.reportAct n w v) := by
  unfold State.reportAct
  split <;> first
    | with_reducible exact h
    | with_reducible exact h.lockingReport n v
    | with_reducible exact Books.ite (Books.ite (h.cycleEnd _ _ _ _) (h.heatChange n w)) h
    | with_reducible exact Books.ite (h.confirmUnlock n) h
    | with_reducible exact Books.ite (h.enterIdle n) h

theorem Books.actOn (h : Books a s) (n : Fin 24) (w : Bool) (b v : View) : Books a (s.actOn n w b v) := by
  unfold State.actOn
  exact Books.ite ((h.reportFaults n b v).reportAct n w v) (h.reportFaults n b v)

theorem Books.report (h : Books a s) (n : Fin 24) (b v : View) : Books a (s.report n b v) := by
  unfold State.report
  have k := (h.takeView n v).latchReport n v
  exact Books.ite ((k.recover n).actOn n _ b v) (k.actOn n _ b v)

theorem Books.stopPress (h : Books a s) (n : Fin 24) : Books a (s.stopPress n) := by
  unfold State.stopPress
  split <;> first | with_reducible exact h | with_reducible exact h.cycleEnd _ _ _ _

theorem Books.ownTap (h : Books a s) (n : Fin 24) (card : Nat) : Books a (s.ownTap n card) := by
  unfold State.ownTap
  split <;> first
    | with_reducible exact h.topUpTap n card
    | with_reducible exact h.showBrief _ _ _
    | with_reducible exact Books.ite (h.topUpTap n card) (h.showBrief _ _ _)

theorem Books.tap (h : Books a s) (n : Fin 24) (card : Nat) : Books a (s.tap n card) := by
  unfold State.tap
  refine Books.ite (h.showBrief _ _ _) ?_
  split <;> first
    | with_reducible exact h
    | with_reducible exact h.startTap n card
    | with_reducible exact h.showBrief _ _ _
    | with_reducible exact Books.ite (h.startTap n card) (h.showBrief _ _ _)
    | with_reducible exact Books.ite (h.ownTap n card) (h.busyPath n card)

theorem Books.takeEvents (h : Books a s) (n : Fin 24) (r : HalfReply) : Books a (s.takeEvents n r) := by
  unfold State.takeEvents
  have k := Books.ite (c := r.stop = true) (h.stopPress n) h
  have m := Books.ite (c := r.start = true) (k.startPress n) k
  exact Books.ite (m.tap n _) m

theorem Books.handReport (h : Books a s) (t : Fin 16) (k : Half) (b : Option View) (v : View) :
    Books a (s.handReport t k b v) := by
  unfold State.handReport; split
  · exact h.report _ _ _
  · exact h

theorem Books.handEvents (h : Books a s) (t : Fin 16) (k : Half) (r : HalfReply) : Books a (s.handEvents t k r) := by
  unfold State.handEvents; split
  · exact h.takeEvents _ _
  · exact h

theorem Books.suspend (h : Books a s) : Books a s.suspend := by
  unfold State.suspend
  have k := h.changeRoom .suspended .interlockActive
  exact (Books.clearGovernor (Books.ite (k.setRoom _) k)).overSlots fun n _ _ m => m.suspendSlot n

theorem Books.suspensionLimit (h : Books a s) : Books a s.suspensionLimit :=
  (h.setRoom _).overSlots fun n _ _ k => k.limitSlot n

theorem Books.resumeRoom (h : Books a s) : Books a s.resumeRoom := by
  unfold State.resumeRoom
  have k := ((h.setRoom { s.room with timer := .idle }).changeRoom
    ({ s with room := { s.room with timer := .idle } } : State).modeState .resume).resumeSlots
  exact Books.ite (k.calm (Calm.refl _).openDisplays) (k.calm (Calm.refl _).clearWaitlist)

/-! ### The commands' own operations -/

theorem Books.miss (h : Books a s) (t : Fin 16) : Books a (s.miss t) := by
  unfold State.miss
  have k := h.modTerminal t (fun x => { x with misses := x.misses + 1 }) fun _ => rfl
  refine Books.ite h (Books.ite k ?_)
  exact ((k.modTerminal t (fun x => { x with presence := .lost }) fun _ => rfl).post _).loseSlots t

theorem Books.missExchange (h : Books a s) : Books a s.missExchange := by
  unfold State.missExchange
  split
  · exact (h.miss _).setBus _
  · exact h
  · exact h

theorem Books.poll (h : Books a s) (b : Bus) (t : Fin 16) (k : PollKind) : Books a (s.poll b t k) := by
  unfold State.poll
  exact (h.modTerminal t (fun x => { x with deferral := k == .outOfTurn }) fun _ => rfl).setBus _

theorem Books.hearTerminal (h : Books a s) (t : Fin 16) : Books a (s.hearTerminal t) := by
  unfold State.hearTerminal
  have k := h.modTerminal t (fun x => { x with misses := 0, presence := .present }) fun _ => rfl
  exact Books.ite k (Books.ite ((k.post _).regainSlots t) (k.post _))

theorem Books.goodReply (h : Books a s) (t : Fin 16) (r : TerminalReply) : Books a (s.goodReply t r) := by
  unfold State.goodReply
  have k : Books a ((s.hearTerminal t).takeReports t r) := by
    unfold State.takeReports
    refine Books.handReport (Books.handReport (Books.modTerminal (h.hearTerminal t) t _ ?_) _ _ _ _) _ _ _ _
    exact fun _ => rfl
  unfold State.takeTagged
  refine Books.ite k (Books.ite k ?_)
  refine Books.handEvents (Books.handEvents (Books.modTerminal k t _ ?_) _ _ _) _ _ _
  exact fun _ => rfl

theorem Books.slotSecond (h : Books a s) (n : Fin 24) : Books a (s.slotSecond n) := by
  unfold State.slotSecond
  have k := h.modSlot n (Slot.counted (s.kind n)) fun x => by unfold Slot.counted; split <;> exact ⟨rfl, rfl⟩
  have m := Books.ite (c := ((s.modSlot n (Slot.counted (s.kind n))).slot n).run = (s.slot n).run) k (k.storeRun n)
  have p := m.calm ((Calm.refl _).pointA n)
  exact Books.ite h (Books.ite p (p.showLasting n _))

theorem Books.coolDown (h : Books a s) (n : Fin 24) : Books a (s.coolDown n) := by
  unfold State.coolDown
  refine Books.dropHeat (Books.modSlot h n _ ?_) n
  exact fun _ => ⟨rfl, rfl⟩

theorem Calm.startNext (h : Calm a s) : Calm a s.startNext := by
  unfold State.startNext
  split
  · exact h
  · exact h.modScanner _
  · dsimp only
    split
    · exact (h.modScanner _).modSense _ _
    · exact h.modScanner _
  · exact h

theorem Calm.clearMarks (h : Calm a s) : Calm a s.clearMarks := h.overSlots fun n _ _ k => k.modSense n _

theorem Books.endCondition (h : Books a s) (n : Fin 24) (t : SenseTest) : Books a (s.endCondition n t) := by
  unfold State.endCondition
  exact Books.ite ((h.modSense n _).latch _ _) h

theorem Books.strikeTrue (h : Books a s) (n : Fin 24) (t : SenseTest) : Books a (s.strikeTrue n t) := by
  unfold State.strikeTrue
  exact Books.ite ((h.modSense n _).raise _ _ _) (h.modSense n _)

theorem Books.strikeTest (h : Books a s) (n : Fin 24) (w : Nat) (t : SenseTest) : Books a (s.strikeTest n w t) := by
  unfold State.strikeTest
  exact Books.ite (h.strikeTrue n t) ((h.modSense n _).endCondition n t)

theorem Books.strikeTests (h : Books a s) (r : ScanResult) : Books a (s.strikeTests r) := by
  unfold State.strikeTests
  refine Books.ite h ?_
  have k := Books.foldl (a := a) (fun _ _ t k => k.strikeTest r.slot r.watts t) SenseTest.all s h
  refine k.modSlot _ _ ?_
  exact fun _ => ⟨rfl, rfl⟩

theorem Books.endedTests (h : Books a s) (r : ScanResult) : Books a (s.endedTests r) := by
  unfold State.endedTests
  exact Books.ite h (Books.foldl (fun _ _ t k => Books.ite k (k.endCondition r.slot t)) _ _ h)

theorem Books.feedOver (h : Books a s) (feed : Nat) : Books a (s.feedOver feed) := by
  unfold State.feedOver
  exact Books.ite (Books.ite (Books.ite ((h.modGov _).raise _ _ _) (h.modGov _)) (h.modGov _))
    (Books.ite ((h.modGov _).latch _ _) (h.modGov _))

theorem Books.takeFigures (h : Books a s) (rs : List ScanResult) : Books a (s.takeFigures rs) :=
  ((h.modGov _).reckon _ _ _).feedOver _

theorem Books.validScan (h : Books a s) : Books a s.validScan := by
  unfold State.validScan
  have k : Books a (if s.scanner.refFault then
      (s.modScanner fun c => { c with refFault := false }).latch none .senseReference else s) :=
    Books.ite ((h.modScanner _).latch _ _) h
  have l := k.modScanner fun c => { c with valid := true, feedWatts := c.feed }
  dsimp only
  generalize (if s.scanner.refFault then
      (s.modScanner fun c => { c with refFault := false }).latch none .senseReference else s) = t at *
  exact Books.foldl (fun _ _ r k => k.strikeTests r) _ _
    (Books.foldl (fun _ _ r k => k.endedTests r) _ _
      (Books.takeFigures (Books.foldl (fun _ _ r k => k.modSense r.slot _) t.keptResults _ l) _))

theorem Books.invalidScan (h : Books a s) : Books a s.invalidScan := by
  unfold State.invalidScan
  exact Books.ite (h.modScanner _) (((h.modScanner _).modScanner _).raise _ _ _)

theorem Books.endScan (h : Books a s) (c : Nat) : Books a (s.endScan c) := by
  unfold State.endScan
  have k := h.modScanner fun c => { c with converter := none, active := false, ended := c.number }
  have m := Books.ite (c := referenceValid c = true) k.validScan k.invalidScan
  exact m.calm ((Calm.refl _).clearMarks.modScanner _).startNext

theorem Books.interlockOn (h : Books a s) : Books a s.interlockOn := by
  unfold State.interlockOn
  exact Books.ite (h.setRoom _) (h.setRoom _).suspend

theorem Books.setClock (h : Books a s) (d c : Nat) : Books a (s.setClock d c) := by
  unfold State.setClock
  have k : Books a { s with clock := ⟨c, d, true⟩ } := h.calm ((Calm.refl s).change rfl rfl rfl rfl)
  exact Books.ite (k.followMode _) k

theorem Books.setGovernor (h : Books a s) (g : GovCfg) :
    Books a ((s.modSettings fun x => { x with governor := g }).write [.governor g]) := by
  refine h.settings { s.settings with governor := g } (.governor g) (fun d e => ?_) fun d => ⟨rfl, rfl, rfl, rfl, rfl, rfl, rfl⟩
  rw [← e]
  rfl

theorem Books.setSense (h : Books a s) (g : SenseCfg) :
    Books a ((s.modSettings fun x => { x with sense := g }).write [.sense g]) := by
  refine h.settings { s.settings with sense := g } (.sense g) (fun d e => ?_) fun d => ⟨rfl, rfl, rfl, rfl, rfl, rfl, rfl⟩
  rw [← e]
  rfl

theorem Books.setRoomCfg (h : Books a s) (g : RoomCfg) :
    Books a ((s.modSettings fun x => { x with room := g }).write [.room g]) := by
  refine h.settings { s.settings with room := g } (.room g) (fun d e => ?_) fun d => ⟨rfl, rfl, rfl, rfl, rfl, rfl, rfl⟩
  rw [← e]
  rfl

theorem Books.setPrices (h : Books a s) (g : PriceCfg) :
    Books a ((s.modSettings fun x => { x with prices := g }).write [.prices g]) := by
  refine h.settings { s.settings with prices := g } (.prices g) (fun d e => ?_) fun d => ⟨rfl, rfl, rfl, rfl, rfl, rfl, rfl⟩
  rw [← e]
  rfl

theorem Books.setClass (h : Books a s) (c : Fin 4) (k : ClassCfg) :
    Books a ((s.modSettings fun x => { x with classes := x.classes.set c.val k }).write [.cls c k]) := by
  refine h.settings { s.settings with classes := s.settings.classes.set c.val k } (.cls c k) (fun d e => ?_)
    fun d => ⟨rfl, rfl, rfl, rfl, rfl, rfl, rfl⟩
  simp only [Store.settings, Store.apply, Settings.mk.injEq, ← e, and_true]
  ext i : 1
  simp only [Vector.getElem_map, Vector.getElem_set]
  split <;> rfl

theorem Books.setBudget (h : Books a s) (w : Nat) : Books a (s.setBudget w) := by
  unfold State.setBudget
  exact (h.setGovernor { s.settings.governor with budget := w }).reckon _ _ _

/-- A slot's configuration and causes changed and stored. -/
theorem Books.setSlotCfg (h : Books a s) (n : Fin 24) (x : Slot) (ws : List StoreWrite)
    (hw : ∀ d : Store, (d.applyAll ws).accounts = d.accounts ∧ (d.applyAll ws).holds = d.holds ∧
      (d.applyAll ws).settings = d.settings ∧ (d.applyAll ws).terminals = d.terminals ∧
      (d.applyAll ws).slots = d.slots.set n.val (some x.cfg) ∧ (d.applyAll ws).places = d.places ∧
      (d.applyAll ws).header = d.header)
    (hc : ∀ d : Store, (d.causes[n.val]).getD .empty = (s.slot n).causes.stored → ∀ m : Fin 24,
      ((d.applyAll ws).causes[m.val]).getD .empty = if n = m then x.causes.stored else (d.causes[m.val]).getD .empty) :
    Books a ((s.setSlot n x).write ws) := by
  refine h.wrote ws rfl rfl rfl rfl (List.prefix_refl _) fun _ m _ e => ?_
  obtain ⟨m1, m2, m7, m8, m3, m4, m5, m6⟩ := m
  obtain ⟨d1, d2, d3, d4, d5, d6, d7⟩ := hw s.storeToBe
  have sl (k : Fin 24) : (((s.setSlot n x).write ws).slot k) = if n = k then x else s.slot k := State.slot_setSlot ..
  refine ⟨?_, ?_, ?_, ?_, ?_, fun k => ?_, fun k => ?_, ?_⟩ <;> rw [e]
  · rw [d1]; exact m1
  · rw [d2]; exact m2
  · rw [d6]; exact m7
  · rw [d7]; exact m8
  · rw [d3]; exact m3
  · rw [sl]
    simp only [d5, Vector.getElem_set]
    split
    · next e => rw [if_pos (Fin.ext e)]; rfl
    · next e => rw [if_neg (fun w => e (congrArg Fin.val w))]; exact m4 k
  · rw [sl, hc s.storeToBe (m5 n)]
    split
    · rfl
    · exact m5 k
  · rw [d4]; exact m6

end Sys2Proof.Machine
end

