-- ==== Sys2Proof/Laws/Purse.lean ====
section
/-!
SUPPORT. What the operations do to the payment unit's records (`State.purse`): R64's law, with the settlement's charge never
above the hold it settles (R87, R88), and the room that the settlement queue keeps for every hold (R74).
-/

namespace Sys2Proof.Machine

variable {s : State}

/-! ### Sums over the slots -/

theorem slots_sum (f : Fin 24 → Nat) : (allSlots.map f).sum = ∑ n, f n := (Fin.sum_univ_def f).symm

theorem sum_change (f g : Fin 24 → Nat) (n : Fin 24) (h : ∀ m, m ≠ n → f m = g m) :
    (∑ m, f m) + g n = (∑ m, g m) + f n := by
  have e : ∑ m ∈ Finset.univ.erase n, f m = ∑ m ∈ Finset.univ.erase n, g m :=
    Finset.sum_congr rfl fun m hm => h m (Finset.ne_of_mem_erase hm)
  have h1 := Finset.add_sum_erase Finset.univ f (Finset.mem_univ n)
  have h2 := Finset.add_sum_erase Finset.univ g (Finset.mem_univ n)
  omega

/-- What a hold entry counts for an account. -/
def holdFor (h : Option Hold) (i : Nat) : Nat := h.elim 0 fun h => if h.account = i then h.amount else 0

theorem heldLaw_iff (s : State) : s.heldLaw ↔
    ∀ i, (s.account i).held = (∑ n, holdFor (s.hold n) i) ∧ (s.account i).held ≤ (s.account i).balance := by
  unfold State.heldLaw
  simp only [slots_sum]
  rfl

theorem holdCount_eq (s : State) : s.holdCount = ∑ n : Fin 24, if (s.hold n).isSome then 1 else 0 := by
  rw [← slots_sum]
  unfold State.holdCount
  generalize allSlots = l
  induction l with
  | nil => rfl
  | cons x l ih =>
    simp only [List.filter_cons, List.map_cons, List.sum_cons, ← ih]
    split
    · simp; omega
    · simp

/-- One hold entry's share is no more than the account's held amount. -/
theorem holdFor_le (f : Fin 24 → Option Hold) (n : Fin 24) (i : Nat) : holdFor (f n) i ≤ ∑ m, holdFor (f m) i :=
  Finset.single_le_sum (f := fun m => holdFor (f m) i) (fun _ _ => Nat.zero_le _) (Finset.mem_univ n)

/-! ### The charge (R87, R88) -/

/-- A charge is never above the amount held. -/
theorem chargeOf_le (r : Reason) (held paid g grace run : Nat) : chargeOf r held paid g grace run ≤ held := by
  have k : proportional held paid g grace run ≤ held := by
    unfold proportional
    split
    · exact Nat.zero_le _
    · refine (Nat.mul_div_le _ _).trans ?_
      rcases Nat.eq_zero_or_pos paid with e | e
      · subst e; simp
      · refine Nat.div_le_of_le_mul ?_
        rw [Nat.mul_comm]
        exact Nat.mul_le_mul_right _ (Nat.min_le_right _ _)
  cases r <;> simp [chargeOf, k]

/-! ### The changes of the records -/

/-- Nothing that the law speaks of has changed. -/
theorem State.purse.same {a : State} (h : a.purse) (ha : s.accounts = a.accounts) (hh : s.holds = a.holds)
    (hs : s.settlement = a.settlement) : s.purse := by
  have e1 (i : Nat) : s.account i = a.account i := by rw [State.account, State.account, ha]
  have e2 (n : Fin 24) : s.hold n = a.hold n := by rw [State.hold, State.hold]; simp only [hh]
  obtain ⟨h0, h1, h2, h3, h4, h5⟩ := h
  rw [heldLaw_iff] at h1
  refine ⟨ha ▸ h0, (heldLaw_iff s).2 ?_, ?_, ?_, ?_, ?_⟩
  · intro i; simp only [e1, e2]; exact h1 i
  · intro i; rw [e1]; exact h2 i
  · intro i; rw [e1]; exact h3 i
  · intro i j; rw [e1, e1]; exact h4 i j
  · rw [holdCount_eq] at h5 ⊢; simp only [e2, hs]; exact h5

theorem State.purse.calm {a : State} (h : a.purse) (k : Calm a s) : s.purse := by
  have := k.books
  simp only [State.books, Prod.mk.injEq] at this
  exact h.same this.1.1 this.1.2.1 this.1.2.2.1

/-- One account record changed, with its held amount kept within its balance. -/
theorem State.purse.put {a : State} (h : a.purse) (i : Nat) (x : Account)
    (hw : s.accounts = Accounts.write a.accounts i x) (hi : i < 512 ∨ x = .free) (hh : s.holds = a.holds)
    (hs : s.settlement = a.settlement)
    (h1 : x.held = (a.account i).held) (h2 : x.held ≤ x.balance) (h3 : x.state = .free → x = .free)
    (h4 : x.state = .suspect → x.held = 0)
    (h5 : x.state ≠ .free → x.card ≠ 0 → ∀ j, j ≠ i → (a.account j).state ≠ .free → (a.account j).card ≠ x.card) :
    s.purse := by
  have e2 (n : Fin 24) : s.hold n = a.hold n := by rw [State.hold, State.hold]; simp only [hh]
  have ha (j : Nat) : s.account j = if i = j then x else a.account j := by
    rw [State.account, hw, Accounts.read_write]; rfl
  obtain ⟨k0, k1, k2, k3, k4, k5⟩ := h
  rw [heldLaw_iff] at k1
  refine ⟨hw ▸ Accounts.write_canon k0 hi, (heldLaw_iff s).2 fun j => ?_, fun j => ?_, fun j => ?_, fun j k => ?_, ?_⟩
  · simp only [ha, e2]
    split
    · next e => subst e; exact ⟨h1.trans (k1 i).1, h2⟩
    · exact k1 j
  · rw [ha]; split
    · exact h3
    · exact k2 j
  · rw [ha]; split
    · exact h4
    · exact k3 j
  · rw [ha, ha]
    split
    · next e =>
      split
      · next e' => exact fun _ _ _ _ => e.symm.trans e'
      · next e' => exact fun p q r t => absurd t.symm (h5 p r k (Ne.symm e') q)
    · next e =>
      split
      · next e' => exact fun p q r t => absurd t (h5 q (t ▸ r) j (Ne.symm e) p)
      · exact k4 j k
  · rw [holdCount_eq] at k5 ⊢; simp only [e2, hs]; exact k5

/-- A hold entry and its account's record changed together. -/
theorem State.purse.hold {a : State} (h : a.purse) (n : Fin 24) (x : Option Hold) (i : Nat) (y : Account)
    (ha : ∀ j, s.account j = if i = j then y else a.account j) (hw : Accounts.wf a.accounts → Accounts.wf s.accounts)
    (hh : s.holds = a.holds.set n.val x)
    (h0 : ∀ j, j ≠ i → holdFor x j = holdFor (a.hold n) j)
    (h1 : y.held + holdFor (a.hold n) i = (a.account i).held + holdFor x i) (h2 : y.held ≤ y.balance)
    (h3 : y.state = (a.account i).state) (h4 : y.card = (a.account i).card) (h5 : y.state = .free → y = .free)
    (h6 : y.state = .suspect → y.held = 0)
    (h7 : s.settlement.records.length + (if x.isSome then 1 else 0) ≤
      a.settlement.records.length + (if (a.hold n).isSome then 1 else 0) ∨
      s.settlement.records.length + (if x.isSome then 1 else 0) + a.holdCount ≤
        64 + (if (a.hold n).isSome then 1 else 0)) : s.purse := by
  have e2 (m : Fin 24) : s.hold m = if n = m then x else a.hold m := by
    rw [State.hold]
    simp only [hh, Vector.getElem_set, Fin.ext_iff]
    rfl
  obtain ⟨k0, k1, k2, k3, k4, k5⟩ := h
  rw [heldLaw_iff] at k1
  refine ⟨hw k0, (heldLaw_iff s).2 fun j => ?_, fun j => ?_, fun j => ?_, fun j k => ?_, ?_⟩
  · have c := sum_change (fun m => holdFor (s.hold m) j) (fun m => holdFor (a.hold m) j) n
      fun m hm => by simp only [e2, if_neg hm.symm]
    simp only [e2, if_pos] at c
    simp only [ha, e2]
    split
    · next e =>
      subst e
      have := (k1 i).1
      exact ⟨by omega, h2⟩
    · next e =>
      have := h0 j (Ne.symm e)
      exact ⟨by have := (k1 j).1; omega, (k1 j).2⟩
  · rw [ha]; split
    · exact h5
    · exact k2 j
  · rw [ha]; split
    · exact h6
    · exact k3 j
  · have cs (m : Nat) : (s.account m).state = (a.account m).state ∧ (s.account m).card = (a.account m).card := by
      rw [ha]; split
      · next e => rw [h3, h4, e]; exact ⟨rfl, rfl⟩
      · exact ⟨rfl, rfl⟩
    rw [(cs j).1, (cs j).2, (cs k).1, (cs k).2]
    exact k4 j k
  · have c := sum_change (fun m => if (s.hold m).isSome then 1 else 0) (fun m => if (a.hold m).isSome then 1 else 0) n
      fun m hm => by simp only [e2, if_neg hm.symm]
    rw [← holdCount_eq, ← holdCount_eq] at c
    rw [e2, if_pos rfl] at c
    omega

/-! ### The payment unit's operations -/

theorem State.purse.settle (h : s.purse) (n : Fin 24) (r : Reason) (f : Option (FaultCode × Option Nat)) :
    (s.settle n r f).purse := by
  unfold State.settle
  split
  · exact h
  · next x hx =>
    have hx : s.hold n = some x := hx
    obtain ⟨k0, k1, k2, k3, k4, k5⟩ := id h
    rw [heldLaw_iff] at k1
    obtain ⟨k1, k6⟩ := k1 x.account
    have hf : holdFor (s.hold n) x.account = x.amount := by rw [hx]; simp [holdFor]
    have hle := holdFor_le (fun m => s.hold m) n x.account
    rw [hf, ← k1] at hle
    have hc : (s.settlementRecord n x r f).charge ≤ x.amount := chargeOf_le _ _ _ _ _ _
    generalize hp : s.settlementRecord n x r f = p at *
    refine h.hold n none x.account ((s.account x.account).settled s.clock.day p.charge x.amount) (fun j => ?_)
      (fun w => Accounts.write_canon w ?_) rfl (fun j hj => ?_) ?_ ?_ ?_ ?_ ?_ ?_ (.inl ?_)
    · show Accounts.read (Accounts.write _ _ _) j = _
      rw [Accounts.read_write]; rfl
    · by_cases e : s.account x.account = .free
      · exact .inr (by rw [e]; rfl)
      · exact .inl (Accounts.read_mem k0 (Accounts.mem_read e)).1
    · rw [hx]; simp [holdFor, hj.symm]
    · rw [hf]
      simp only [holdFor, Option.elim, Account.settled]
      split
      · next e => have := k2 _ e; rw [this] at hle k6 ⊢; simp [Account.free] at hle ⊢; omega
      · unfold Account.rolled; split <;> (try dsimp only) <;> omega
    · unfold Account.settled
      split
      · exact k6
      · unfold Account.rolled; split <;> (try dsimp only) <;> omega
    · unfold Account.settled
      split
      · rfl
      · unfold Account.rolled; split <;> rfl
    · unfold Account.settled
      split
      · rfl
      · unfold Account.rolled; split <;> rfl
    · unfold Account.settled
      split
      · next e => exact fun _ => k2 _ e
      · next e => unfold Account.rolled; split <;> exact fun k => absurd k e
    · intro k
      have e : (s.account x.account).state = .suspect := by
        unfold Account.settled at k
        split at k
        · exact k
        · unfold Account.rolled at k; split at k <;> exact k
      have z := k3 _ e
      unfold Account.settled
      rw [if_neg (by rw [e]; decide)]
      unfold Account.rolled; split <;> (try dsimp only) <;> omega
    · show (s.settlement.records ++ [p]).length + _ ≤ _
      rw [hx]; simp

theorem Account.rolled_rest (a : Account) (d : Nat) : (a.rolled d).held = a.held ∧ (a.rolled d).balance = a.balance ∧
    (a.rolled d).state = a.state ∧ (a.rolled d).card = a.card := by
  unfold Account.rolled; split <;> exact ⟨rfl, rfl, rfl, rfl⟩

theorem State.purse.rollAccount (h : s.purse) (i : Nat) (hf : (s.account i).state ≠ .free) : (s.rollAccount i).purse := by
  unfold State.rollAccount
  dsimp only
  split
  · exact h
  · obtain ⟨e1, e2, e3, e4⟩ := (s.account i).rolled_rest s.clock.day
    have k := (heldLaw_iff s).1 h.held i
    have hi := (Accounts.read_mem h.canon (Accounts.mem_read (i := i) fun e => hf (show (Accounts.read _ _).state = _ by rw [e]; rfl))).1
    refine h.put i _ rfl (.inl hi) rfl rfl e1 (by rw [e1, e2]; exact k.2) (fun c => absurd (e3 ▸ c) hf)
      (fun c => by rw [e1]; exact h.suspect i (e3 ▸ c)) fun _ c j hj q w => hj (h.cards j i q hf (by rw [w]; exact c)
        (by rw [w, e4]))

theorem State.purse.storeRun (h : s.purse) (n : Fin 24) : (s.storeRun n).purse := by
  unfold State.storeRun
  split
  · exact h
  · next x hx =>
    split
    · have k := (heldLaw_iff s).1 h.held x.account
      refine h.hold n _ x.account (s.account x.account) (fun j => ?_) id rfl (fun j hj => ?_) ?_ k.2 rfl rfl
        (h.free _) (h.suspect _) (.inl ?_)
      · show s.account j = _
        split
        · next e => rw [e]
        · rfl
      · rw [hx]; rfl
      · rw [hx]; rfl
      · rw [hx]; exact Nat.le_refl _
    · exact h

/-- A hold placed on an empty entry for an ACTIVE account that can pay it, with room for its record (R74, R75). -/
theorem State.purse.placeHold (h : s.purse) {n : Fin 24} (c : Fin 4) (i : Nat) (x : Account) (card : Nat)
    (hn : s.hold n = none) (ha : (s.account i).state = .active) (hx : x = s.account i ∨ x = (s.account i).rolled s.clock.day)
    (hp : s.currentPrice c ≤ (s.account i).available) (hr : s.settlement.records.length + s.holdCount < 64) :
    (s.placeHold n c i x card).purse := by
  have ex : x.held = (s.account i).held ∧ x.balance = (s.account i).balance ∧ x.state = (s.account i).state ∧
      x.card = (s.account i).card := by
    rcases hx with e | e
    · rw [e]; exact ⟨rfl, rfl, rfl, rfl⟩
    · rw [e]; exact Account.rolled_rest _ _
  obtain ⟨e1, e2, e3, e4⟩ := ex
  have k := (heldLaw_iff s).1 h.held i
  have hi' := (Accounts.read_mem h.canon (Accounts.mem_read (i := i) fun e => by
    rw [State.account, e] at ha; cases ha)).1
  unfold State.placeHold
  dsimp only
  have q : s.snapshot c = s.snapshot c := rfl
  have hprice : (s.snapshot c).price = s.currentPrice c := rfl
  have p0 : ((((s.setHold n (some ⟨i, card, (s.snapshot c).price, s.snapshot c, 0, 0, s.clock.day, s.clock.second⟩)).setAccount
      i { x with held := x.held + (s.snapshot c).price }).write
      [.hold n (some ⟨i, card, (s.snapshot c).price, s.snapshot c, 0, 0, s.clock.day, s.clock.second⟩),
        .account i { x with held := x.held + (s.snapshot c).price }])).purse := by
    refine h.hold n (some ⟨i, card, (s.snapshot c).price, s.snapshot c, 0, 0, s.clock.day, s.clock.second⟩) i
      { x with held := x.held + (s.snapshot c).price } (fun j => State.account_setAccount _ i j _) (fun w => Accounts.write_canon w (.inl hi')) rfl (fun j hj => ?_) ?_ ?_
      e3 e4 (fun w => ?_) (fun w => ?_) (.inr ?_)
    · rw [hn]; simp [holdFor, hj.symm]
    · rw [hn]; simp [holdFor, e1]
    · show x.held + _ ≤ x.balance
      unfold Account.available at hp
      omega
    · exact absurd (e3.symm.trans w) (by rw [ha]; decide)
    · exact absurd (e3.symm.trans w) (by rw [ha]; decide)
    · rw [hn]; show s.settlement.records.length + 1 + _ ≤ _; simp; omega
  refine p0.calm ?_
  refine (((Calm.refl _).modSlot n _ ?_).enter n _).showLasting n _ |>.toldOfStart c card
  exact fun _ => ⟨rfl, rfl⟩

/-- A top-up of the slot's own hold, which its ACTIVE account can pay (R76, R77). -/
theorem State.purse.takeTopUp (h : s.purse) {n : Fin 24} {x : Hold} (i : Nat) (y : Account) (hn : s.hold n = some x)
    (hi : i = x.account) (ha : (s.account i).state = .active)
    (hx : y = s.account i ∨ y = (s.account i).rolled s.clock.day) (hp : x.snap.stepPrice ≤ (s.account i).available) :
    (s.takeTopUp n x i y).purse := by
  have ex : y.held = (s.account i).held ∧ y.balance = (s.account i).balance ∧ y.state = (s.account i).state ∧
      y.card = (s.account i).card := by
    rcases hx with e | e
    · rw [e]; exact ⟨rfl, rfl, rfl, rfl⟩
    · rw [e]; exact Account.rolled_rest _ _
  obtain ⟨e1, e2, e3, e4⟩ := ex
  have k := (heldLaw_iff s).1 h.held i
  have hi' := (Accounts.read_mem h.canon (Accounts.mem_read (i := i) fun e => by
    rw [State.account, e] at ha; cases ha)).1
  obtain ⟨z, hz⟩ : ∃ z : Hold, z = { x with steps := x.steps + 1, amount := x.amount + x.snap.stepPrice } := ⟨_, rfl⟩
  have z1 : z.account = x.account := by rw [hz]
  have z2 : z.amount = x.amount + x.snap.stepPrice := by rw [hz]
  have z3 : z.snap = x.snap := by rw [hz]
  have p0 : ((((s.setHold n (some z)).setAccount i { y with held := y.held + z.snap.stepPrice }).write
      [.hold n (some z), .account i { y with held := y.held + z.snap.stepPrice }])).purse := by
    refine h.hold n (some z) i _ (fun j => State.account_setAccount _ i j _) (fun w => Accounts.write_canon w (.inl hi')) rfl (fun j hj => ?_) ?_ ?_ e3 e4
      (fun w => ?_) (fun w => ?_) (.inl ?_)
    · rw [hn]; simp [holdFor, z1, ← hi, hj.symm]
    · rw [hn]; simp only [holdFor, Option.elim, z1, ← hi, z2, z3, e1, if_true]; omega
    · show y.held + _ ≤ y.balance
      unfold Account.available at hp
      rw [z3]
      omega
    · exact absurd (e3.symm.trans w) (by rw [ha]; decide)
    · exact absurd (e3.symm.trans w) (by rw [ha]; decide)
    · rw [hn]; exact Nat.le_refl _
  refine p0.calm ?_
  subst hz
  unfold State.takeTopUp
  refine Calm.ite (Calm.showLasting ?_ n _) ?_ <;> refine (Calm.modSlot (Calm.refl _) n _ ?_).showBrief n _ _ <;>
    exact fun _ => ⟨rfl, rfl⟩

end Sys2Proof.Machine
end

