-- ==== Sys2Proof/Laws/Ends.lean ====
section
/-!
SUPPORT. What a cycle end does, whole (R6): `cycleEnd_ended`. The slots beside it move only as `Slot.bystander` says.
-/

namespace Sys2Proof.Machine

variable {a s : State}

/-! ### What no act on states, grants, outputs and timers touches -/

/-- From `a` to `s` no slot's bare part has changed. -/
def Bare (a s : State) : Prop := ∀ m, (s.slot m).bare = (a.slot m).bare

theorem Bare.refl (a : State) : Bare a a := fun _ => rfl
theorem Bare.trans {b c : State} (h : Bare a b) (k : Bare b c) : Bare a c := fun m => (k m).trans (h m)
theorem Bare.ite {c : Prop} [Decidable c] {t u : State} (ht : Bare a t) (hu : Bare a u) : Bare a (if c then t else u) := by
  split <;> assumption
theorem Bare.foldl {α : Type} {f : State → α → State} (hf : ∀ a s x, Bare a s → Bare a (f s x)) (l : List α) (s : State)
    (h : Bare a s) : Bare a (l.foldl f s) := by
  induction l generalizing s with
  | nil => exact h
  | cons x l ih => exact ih _ (hf _ _ _ h)
theorem Bare.change {t : State} (h : Bare a s) (hs : t.slots = s.slots) : Bare a t :=
  h.trans fun m => by simp only [State.slot, hs]
theorem Bare.modSlot (h : Bare a s) (n : Fin 24) (f : Slot → Slot) (hf : ∀ x, (f x).bare = x.bare) :
    Bare a (s.modSlot n f) := h.trans fun m => by rw [State.slot_modSlot]; split <;> simp [*]
theorem Bare.post (h : Bare a s) (b : EventBody) : Bare a (s.post b) := h.change (by simp)
theorem Bare.showLasting (h : Bare a s) (n : Fin 24) (d : Display) : Bare a (s.showLasting n d) := by
  unfold State.showLasting; split
  · exact h.change rfl
  · exact h
theorem Bare.enter (h : Bare a s) (n : Fin 24) (st : SlotState) : Bare a (s.enter n st) := by
  unfold State.enter
  have k : Bare a (s.modSlot n fun x => { x with
      state := st, outputs := outputsOf st x.heatGrant, sense := x.sense.disturb,
      timer := (s.stateSeconds st).map (s.elapsed + ·) }) := h.modSlot n _ fun _ => rfl
  dsimp only
  split
  · exact k.post _
  · split
    · exact (k.post _).showLasting _ _
    · exact k.post _
theorem Bare.setGrant (h : Bare a s) (n : Fin 24) (g : Bool) : Bare a (s.setGrant n g) := h.modSlot n _ fun _ => rfl
theorem Bare.modGov (h : Bare a s) (f : Governor → Governor) : Bare a (s.modGov f) := h.change rfl
theorem Bare.setBus (h : Bare a s) (b : Bus) : Bare a { s with bus := b } := h.change rfl
theorem Bare.setRoom (h : Bare a s) (r : Room) : Bare a { s with room := r } := h.change rfl
theorem Bare.setQueue (h : Bare a s) (c : Fin 4) (q : List WaitEntry) : Bare a (s.setQueue c q) := h.change rfl
theorem Bare.setQueues (h : Bare a s) (q : Vector (List WaitEntry) 4) : Bare a { s with queues := q } := h.change rfl
theorem Bare.modTerminal (h : Bare a s) (t : Fin 16) (f : Terminal → Terminal) : Bare a (s.modTerminal t f) := h.change rfl
theorem Bare.setLasting (h : Bare a s) (t : Fin 16) (k : Half) (d : Display) : Bare a (s.setLasting t k d) := h.change rfl
theorem Bare.postSlot (h : Bare a s) (n : Fin 24) : Bare a (s.postSlot n) := h.post _
theorem Bare.tidyStamp (h : Bare a s) : Bare a s.tidyStamp := by
  unfold State.tidyStamp; exact Bare.ite (h.modGov _) h
theorem Bare.revokeSlot (h : Bare a s) (n : Fin 24) : Bare a (s.revokeSlot n) := (h.setGrant n false).enter _ _
theorem Bare.grantSlot (h : Bare a s) (n : Fin 24) : Bare a (s.grantSlot n) := by
  unfold State.grantSlot
  exact Bare.ite ((h.setGrant n true).enter _ _) (h.setGrant n true)
theorem Bare.revoke (h : Bare a s) (fell : Bool) : Bare a (s.revoke fell).1 :=
  Bare.foldl (fun _ _ x k => k.revokeSlot x.slot) _ _ (h.modGov _)
theorem Bare.grantPass (h : Bare a s) (r : List (Fin 24)) : Bare a (s.grantPass r) :=
  Bare.foldl (fun _ _ x k => k.grantSlot x.slot) _ _ (h.modGov _)
theorem Bare.reckon (h : Bare a s) (x y z : Bool) : Bare a (s.reckon x y z) := by
  unfold State.reckon
  have k := (h.modGov fun g => { g with motor := s.motorSum }).modGov fun g =>
    { g with heat := (s.modGov fun g => { g with motor := s.motorSum }).heatBudget }
  exact Bare.tidyStamp (Bare.ite ((k.revoke _).grantPass _) (k.revoke _))
theorem Bare.reserve (h : Bare a s) (n : Fin 24) (c : Fin 4) (e : WaitEntry) (q : List WaitEntry) :
    Bare a (s.reserve n c e q) := by
  unfold State.reserve
  have k := (h.setQueue c q).modSlot n (fun x => { x with
    reservation := some ⟨e.card, e.account, e.joined, (s.setQueue c q).settings.room.window * 60⟩ }) fun _ => rfl
  exact Bare.showLasting (Bare.post (Bare.ite (k.postSlot n) (k.enter n _)) _) n _
theorem Bare.offer (h : Bare a s) (n : Fin 24) : Bare a (s.offer n) := by
  unfold State.offer; split
  · exact h
  · split
    · exact h
    · exact h.reserve _ _ _ _
theorem Bare.enterIdle (h : Bare a s) (n : Fin 24) : Bare a (s.enterIdle n) := (h.enter n _).offer n
theorem Bare.dropReservation (h : Bare a s) (n : Fin 24) : Bare a (s.dropReservation n) := h.modSlot n _ fun _ => rfl
theorem Bare.clearWaitlist (h : Bare a s) : Bare a s.clearWaitlist :=
  Bare.foldl (fun _ _ n k => Bare.ite ((k.dropReservation n).enterIdle n) k) _ _ (h.setQueues _)
theorem Bare.displayAll (h : Bare a s) (d : Display) : Bare a (s.displayAll d) :=
  Bare.foldl (fun _ _ t k => k.modTerminal t _) _ _ h
theorem Bare.roomDisplay (h : Bare a s) (r : RoomState) : Bare a (s.roomDisplay r) := by
  unfold State.roomDisplay; split
  · exact h.setBus _
  · exact Bare.ite h ((h.displayAll _).setBus _)
theorem Bare.changeRoom (h : Bare a s) (r : RoomState) (c : RoomCause) : Bare a (s.changeRoom r c) :=
  ((h.setRoom _).post _).roomDisplay _
theorem Bare.openDisplays (h : Bare a s) : Bare a s.openDisplays :=
  Bare.foldl (fun _ _ t k => (k.setLasting t .a _).setLasting t .b _) _ _ h
theorem Bare.holdsEnded (h : Bare a s) : Bare a s.holdsEnded := by
  unfold State.holdsEnded State.enterRoom
  exact Bare.ite (Bare.ite (h.changeRoom _ _).openDisplays (h.changeRoom _ _).clearWaitlist) h
theorem Bare.dropReqs (h : Bare a s) (n : Fin 24) : Bare a (s.removeRequest n) := h.modGov _
theorem Bare.dropHeat (s : State) (n : Fin 24) (b : Bool := true) :
    Bare (s.modSlot n fun x => { x with heatReq := false }) (s.dropHeat n b) := by
  unfold State.dropHeat
  have k := Bare.refl (s.modSlot n fun x => { x with heatReq := false })
  have m := (k.dropReqs n).setGrant n false
  exact Bare.ite (Bare.ite (m.reckon _ _ _) m) (k.dropReqs n).tidyStamp

/-! ### What stands aside of a change of a slot's state -/

theorem queues_of_aside {t : State} (h : t.aside = s.aside) : t.queues = s.queues := by
  have e : ∀ t : State, t.aside.queues = t.queues := fun _ => rfl
  rw [← e t, ← e s, h]
theorem room_of_aside {t : State} (h : t.aside = s.aside) : t.room = s.room := by
  have e : ∀ t : State, t.aside.room = t.room := fun _ => rfl
  rw [← e t, ← e s, h]
theorem enter_queue (s : State) (n : Fin 24) (st : SlotState) (c : Fin 4) : (s.enter n st).queue c = s.queue c := by
  unfold State.queue; simp only [queues_of_aside (aside_enter (s := s) n st)]

theorem reserve_room (s : State) (n : Fin 24) (c : Fin 4) (e : WaitEntry) (q : List WaitEntry) :
    (s.reserve n c e q).room = s.room := by
  unfold State.reserve
  dsimp only
  have h : ((s.setQueue c q).modSlot n fun x => { x with
    reservation := some ⟨e.card, e.account, e.joined, (s.setQueue c q).settings.room.window * 60⟩ }).room = s.room := rfl
  generalize (s.setQueue c q).modSlot n (fun x => { x with
    reservation := some ⟨e.card, e.account, e.joined, (s.setQueue c q).settings.room.window * 60⟩ }) = t at *
  rw [room_of_aside (aside_showLasting n _), room_of_aside (aside_post _)]
  split
  · exact (room_of_aside (aside_post _)).trans h
  · exact (room_of_aside (aside_enter _ _)).trans h

theorem enterIdle_room (s : State) (n : Fin 24) : (s.enterIdle n).room = s.room := by
  unfold State.enterIdle
  refine Eq.trans ?_ (room_of_aside (aside_enter n .idle))
  generalize s.enter n .idle = t
  unfold State.offer
  split
  · rfl
  · split
    · rfl
    · exact reserve_room _ _ _ _ _

theorem clearWaitlist_room (s : State) : s.clearWaitlist.room = s.room := by
  unfold State.clearWaitlist Machine.overSlots
  generalize allSlots = l
  have z : ({ s with queues := Vector.replicate 4 [] } : State).room = s.room := rfl
  rw [← z]
  generalize ({ s with queues := Vector.replicate 4 [] } : State) = t
  clear z
  induction l generalizing t with
  | nil => rfl
  | cons n l ih =>
    simp only [List.foldl_cons]
    refine (ih _).trans ?_
    split
    · exact enterIdle_room _ _
    · rfl

/-- With no waiter in its queue an entry to IDLE ends there. -/
theorem enterIdle_alone (s : State) (n : Fin 24) (h : ∀ c, s.queue c = []) : s.enterIdle n = s.enter n .idle := by
  unfold State.enterIdle State.offer
  split
  · rfl
  · rw [enter_queue, h]

/-! ### The states of the slots beside it -/

/-- What may become of the state of a slot beside an act. -/
def SlotState.beside (x y : SlotState) : Prop := y = x ∨ x = .reserved ∧ y = .idle ∨ x.heated ∧ y.heated

theorem SlotState.beside.refl (x : SlotState) : x.beside x := .inl rfl
theorem SlotState.beside.trans {x y z : SlotState} (h : x.beside y) (k : y.beside z) : x.beside z := by
  rcases k with k | ⟨k1, k2⟩ | ⟨k1, k2⟩
  · exact k ▸ h
  · subst k1
    rcases h with h | ⟨_, h⟩ | ⟨_, h⟩
    · exact .inr (.inl ⟨h.symm, k2⟩)
    · cases h
    · rcases h with h | h <;> cases h
  · rcases h with h | ⟨_, h⟩ | ⟨h, _⟩
    · exact .inr (.inr ⟨h ▸ k1, k2⟩)
    · subst h; rcases k1 with k | k <;> cases k
    · exact .inr (.inr ⟨h, k2⟩)

/-- Every slot other than `n` is beside what happened. -/
def Beside (n : Fin 24) (a s : State) : Prop := ∀ m, m ≠ n → (a.slot m).state.beside (s.slot m).state

theorem Beside.refl (n : Fin 24) (a : State) : Beside n a a := fun _ _ => .refl _
theorem Beside.trans {n : Fin 24} {b c : State} (h : Beside n a b) (k : Beside n b c) : Beside n a c :=
  fun m hm => (h m hm).trans (k m hm)
theorem Beside.quiet {n : Fin 24} {t : State} (h : Beside n a s) (q : Quiet s t) : Beside n a t :=
  h.trans fun m _ => .inl (q.state m)

theorem revokeSlots_beside (l : List HeatRequest) (s : State) (h : ∀ r ∈ l, (s.slot r.slot).state.heated) (m : Fin 24) :
    (s.slot m).state.beside ((l.foldl (fun s x => s.revokeSlot x.slot) s).slot m).state := by
  induction l generalizing s with
  | nil => exact .refl _
  | cons r l ih =>
    have e (m : Fin 24) : ((s.revokeSlot r.slot).slot m).state = if r.slot = m then .awaitPower else (s.slot m).state := by
      unfold State.revokeSlot; rw [State.enter_state, State.setGrant_state]
    have k (m : Fin 24) : (s.slot m).state.beside ((s.revokeSlot r.slot).slot m).state := by
      rw [e]; split
      · next h0 => exact .inr (.inr ⟨h0 ▸ h r List.mem_cons_self, .inr rfl⟩)
      · exact .refl _
    refine (k m).trans (ih _ fun q hq => ?_)
    rw [e]; split
    · exact .inr rfl
    · exact h q (List.mem_cons_of_mem _ hq)

theorem grantSlots_beside (l : List HeatRequest) (s : State) (m : Fin 24) :
    (s.slot m).state.beside ((l.foldl (fun s x => s.grantSlot x.slot) s).slot m).state := by
  induction l generalizing s with
  | nil => exact .refl _
  | cons r l ih =>
    refine SlotState.beside.trans ?_ (ih _)
    rw [State.grantSlot_state]
    split
    · next h => exact .inr (.inr ⟨.inr (h.1 ▸ h.2), .inl rfl⟩)
    · exact .refl _

/-- A reckoning moves slots between RUNNING and AWAIT_POWER alone, where the grants stand on slots in those states. -/
theorem reckon_beside (s : State) (x y z : Bool) (h : ∀ m ∈ s.granted, (s.slot m).state.heated) (m : Fin 24) :
    (s.slot m).state.beside ((s.reckon x y z).slot m).state := by
  unfold State.reckon
  dsimp only
  have q : Quiet s ((s.modGov fun g => { g with motor := s.motorSum }).modGov fun g =>
      { g with heat := (s.modGov fun g => { g with motor := s.motorSum }).heatBudget }) := by
    refine Quiet.modGov (Quiet.modGov (Quiet.refl s) _ ?_) _ ?_ <;> exact fun _ => ⟨rfl, rfl⟩
  generalize ((s.modGov fun g => { g with motor := s.motorSum }).modGov fun g =>
      { g with heat := (s.modGov fun g => { g with motor := s.motorSum }).heatBudget }) = t at *
  have k (fell : Bool) (m : Fin 24) : (s.slot m).state.beside ((t.revoke fell).1.slot m).state := by
    rw [← q.state m]
    unfold State.revoke
    refine revokeSlots_beside (t.revocation fell).2 _ (fun r hr => ?_) m
    have p : r.slot ∈ t.granted := (revocation_split t fell).subset
      (List.mem_append_right _ (List.mem_map_of_mem hr))
    exact (q.state r.slot).symm ▸ h _ (q.granted ▸ p)
  rw [((Quiet.refl _).tidyStamp).state m]
  split
  · exact (k _ m).trans (grantSlots_beside _ _ m)
  · exact k _ m

theorem Beside.enter {n : Fin 24} (h : Beside n a s) (st : SlotState) : Beside n a (s.enter n st) :=
  h.trans fun m hm => .inl (by rw [State.enter_state, if_neg hm.symm])

theorem Law.heated (h : Whole s) : ∀ m ∈ s.granted, (s.slot m).state.heated :=
  fun m hm => .inl ((h.heat m id).2.1 hm)

theorem Beside.offer {n : Fin 24} (h : Beside n a s) (hn : (s.slot n).state = .idle) :
    Beside n a (s.offer n) := by
  unfold State.offer
  split
  · exact h
  · split
    · exact h
    · next c _ _ e l _ =>
      unfold State.reserve
      dsimp only
      have q : Quiet s ((s.setQueue c l).modSlot n fun x => { x with
          reservation := some ⟨e.card, e.account, e.joined, (s.setQueue c l).settings.room.window * 60⟩ }) :=
        Quiet.modSlot ((Quiet.refl s).setQueue c l) n (fun x => { x with
          reservation := some ⟨e.card, e.account, e.joined, (s.setQueue c l).settings.room.window * 60⟩ }) fun _ => ⟨rfl, rfl⟩
      generalize (s.setQueue c l).modSlot n (fun x => { x with
          reservation := some ⟨e.card, e.account, e.joined, (s.setQueue c l).settings.room.window * 60⟩ }) = t at *
      have hn2 : (t.slot n).state = .idle := (q.state n).trans hn
      rw [if_neg (by rw [hn2]; decide)]
      have k := (h.quiet q).enter .reserved
      exact k.quiet (((Quiet.refl _).post _).showLasting n _)

theorem clearWaitlist_beside (w : Whole s) (m : Fin 24) : (s.slot m).state.beside (s.clearWaitlist.slot m).state := by
  unfold State.clearWaitlist Machine.overSlots
  have q : Quiet s { s with queues := Vector.replicate 4 [] } := (Quiet.refl s).change rfl rfl rfl
  have w2 := Law.quiet w q
  have hq : ∀ c, ({ s with queues := Vector.replicate 4 [] } : State).queue c = [] := fun c => by simp [State.queue]
  rw [← q.state m]
  generalize ({ s with queues := Vector.replicate 4 [] } : State) = t at *
  clear q w
  generalize allSlots = l
  induction l generalizing t with
  | nil => exact .refl _
  | cons n l ih =>
    simp only [List.foldl_cons]
    split
    · next e =>
      have q := (Quiet.refl t).dropReservation n
      have w3 := Law.quiet w2 q
      have hn : ((t.dropReservation n).slot n).state = .reserved := (q.state n).trans e
      have hq3 : ∀ c, (t.dropReservation n).queue c = [] := hq
      rw [← q.state m]
      generalize t.dropReservation n = u at *
      obtain ⟨w4, s4⟩ := Whole.spare w3 (hn ▸ spare_reserved) (st := .idle) rfl
      have hq4 : ∀ c, (u.enter n .idle).queue c = [] := fun c => (enter_queue u n .idle c).trans (hq3 c)
      rw [enterIdle_alone u n hq3]
      refine SlotState.beside.trans ?_ (ih _ w4 hq4)
      by_cases hm : m = n
      · subst hm; rw [s4, hn]; exact .inr (.inl ⟨rfl, rfl⟩)
      · exact (Beside.refl n u).enter .idle m hm
    · exact ih t w2 hq

theorem Beside.holdsEnded {n : Fin 24} (h : Beside n a s) (w : Whole s) : Beside n a s.holdsEnded := by
  unfold State.holdsEnded State.enterRoom
  split
  · dsimp only
    rw [if_neg (by decide)]
    have q := (Quiet.refl s).changeRoom .closed .holdsEnded
    exact (h.quiet q).trans fun m _ => clearWaitlist_beside (Law.quiet w q) m
  · exact h

/-! ### The cycle end -/

theorem allSlots_none (s : State) : s.holdCount = 0 ↔ ∀ m, s.hold m = none := by
  unfold State.holdCount
  rw [List.length_eq_zero_iff, List.filter_eq_nil_iff]
  constructor
  · intro h m
    have := h m (List.mem_finRange m)
    simpa using this
  · intro h m _
    simp [h m]

theorem changeRoom_room (s : State) (r : RoomState) (c : RoomCause) : (s.changeRoom r c).room.state = r := by
  have e : ∀ (l : List (Fin 16)) (t : State) (f : Terminal → Terminal), (l.foldl (fun s x => s.modTerminal x f) t).room = t.room := by
    intro l; induction l with
    | nil => intro t f; rfl
    | cons x l ih => intro t f; exact ih _ f
  unfold State.changeRoom State.roomDisplay
  dsimp only
  split
  · simp
  · split
    · simp
    · simp [State.displayAll, e]

/-- What a cycle end does (R6). -/
theorem cycleEnd_ended (w : Whole s) (n : Fin 24) (h : Hold) (hn : s.hold n = some h) (r : Reason)
    (f : Option (FaultCode × Option Nat)) {st : SlotState} (hb : st.busy = false) (hs : st ≠ .reserved) (alone : Bool := true) :
    s.cycleEnded n h r f st (s.cycleEnd n r f st alone) := by
  have hw := w.cycleEnd n r f hb alone
  have ho := ((Acts.refl s).cycleEnd n r f st alone).outside
  -- the settlement
  have e1 : s.settle n r f = s.settle n r f := rfl
  obtain ⟨g1, g2⟩ := settle_rest s n r f
  have k : Law (fun m => False ∨ m = n) (s.settle n r f) := by
    refine ⟨?_, fun m _ => ?_, fun m hm => ?_⟩
    · simpa only [State.oneRequest, State.granted, State.waiting, g2] using w.once
    · simpa only [State.heatAt, State.granted, State.waiting, g2, State.slot, g1] using w.heat m id
    · rw [settle_hold, if_neg (fun e => hm (.inr e.symm))]
      simpa only [State.slot, g1] using w.busy m id
  have gh : ∀ m, (s.settle n r f).hold m = if m = n then none else s.hold m := fun m => by
    rw [settle_hold]; simp only [eq_comm]
  have gq : (s.settle n r f).settlement = { s.settlement with
      records := s.settlement.records ++ [s.settlementRecord n h r f], next := (s.settlement.next + 1) % 2 ^ 32 } := by
    unfold State.settle; rw [hn]; rfl
  have ga : ∀ i, (s.settle n r f).account i = if i = h.account then
      (s.account i).settled s.clock.day (s.settlementRecord n h r f).charge h.amount else s.account i := fun i => by
    unfold State.settle; rw [hn]
    show Accounts.read (Accounts.write _ _ _) i = _
    rw [Accounts.read_write]
    split
    · next e => subst e; rw [if_pos rfl]
    · next e => rw [if_neg (Ne.symm e)]; rfl
  have gr : (s.settle n r f).room = s.room := by unfold State.settle; split <;> rfl
  have gs : ∀ m, (s.settle n r f).slot m = s.slot m := fun m => by simp only [State.slot, g1]
  have gg : ∀ m ∈ (s.settle n r f).granted, m ≠ n → ((s.settle n r f).slot m).state.heated := fun m hm hmn => by
    rw [gs]; exact w.heated m (by simpa only [State.granted, g2] using hm)
  revert hw ho
  unfold State.cycleEnd
  rw [hn]
  dsimp only
  generalize s.settle n r f = a at *
  -- the event and the heat given up
  have q := (Quiet.refl a).post (.cycleEnd n s.settlement.next)
  have cal := (Calm.refl a).post (.cycleEnd n s.settlement.next)
  have b1 := (Bare.refl a).post (.cycleEnd n s.settlement.next)
  have r1 : (a.post (.cycleEnd n s.settlement.next)).room = a.room := by simp
  generalize a.post (.cycleEnd n s.settlement.next) = b at *
  obtain ⟨k2, d⟩ := (k.quiet q).dropHeat n alone
  have cal2 := cal.trans ((Calm.refl b).dropHeat n alone)
  have b2 := Bare.dropHeat b n alone
  have r2 : (b.dropHeat n alone).room = b.room := room_of_aside (aside_dropHeat n alone)
  have bs : Beside n b (b.dropHeat n alone) := by
    intro m hm
    have hg : ∀ m ∈ b.granted, m ≠ n → (b.slot m).state.heated := fun m hm hmn => by
      rw [q.state]; exact gg m (q.granted ▸ hm) hmn
    unfold State.dropHeat
    have q0 : Quiet b (b.modSlot n fun x => { x with heatReq := false }) :=
      (Quiet.refl b).modSlot n (fun x => { x with heatReq := false }) fun _ => ⟨rfl, rfl⟩
    rw [← q0.state m]
    have hg0 : ∀ m ∈ (b.modSlot n fun x => { x with heatReq := false }).granted, m ≠ n →
        ((b.modSlot n fun x => { x with heatReq := false }).slot m).state.heated := fun m hm hmn => by
      rw [q0.state]; exact hg m (q0.granted ▸ hm) hmn
    generalize b.modSlot n (fun x => { x with heatReq := false }) = c at *
    dsimp only
    split
    · have e : (((c.removeRequest n).setGrant n false).slot m).state = (c.slot m).state := State.setGrant_state _ _ _
      split
      case isFalse => exact .inl e
      unfold State.giveUpGrant State.dropGrant
      rw [← e]
      refine reckon_beside _ _ _ _ (fun i hi => ?_) m
      have hi' : i ∈ (c.removeRequest n).granted := hi
      rw [State.removeRequest_granted] at hi'
      rw [State.setGrant_state]
      exact hg0 i hi'.1 hi'.2
    · unfold State.withdraw
      rw [(Quiet.refl (c.removeRequest n)).tidyStamp.state]
      exact .refl _
  have hh : ∀ m, ((b.dropHeat n alone).hold m).isSome = (a.hold m).isSome := fun m => (d.hold m).trans (q.hold m)
  have bs : ∀ m, m ≠ n → (s.slot m).state.beside ((b.dropHeat n alone).slot m).state := fun m hm => by
    have := bs m hm; rwa [q.state, gs] at this
  have hbare : ∀ m, ((b.dropHeat n alone).slot m).bare = if m = n then { (s.slot m).bare with heatReq := false } else (s.slot m).bare := by
    intro m
    rw [b2, State.slot_modSlot]
    split
    · next e =>
      subst e
      have := b1 n
      rw [gs] at this
      rw [if_pos rfl, ← this]; rfl
    · next e => rw [if_neg (Ne.symm e), b1, gs]
  generalize b.dropHeat n alone = c at *
  -- the target
  have q3 : Quiet c (c.modSlot n fun x => { x with warning := false, resume := none }) :=
    (Quiet.refl c).modSlot n (fun x => { x with warning := false, resume := none }) fun _ => ⟨rfl, rfl⟩
  have cal3 : Calm a (c.modSlot n fun x => { x with warning := false, resume := none }) :=
    cal2.modSlot n (fun x => { x with warning := false, resume := none }) fun _ => ⟨rfl, rfl⟩
  have hbare : ∀ m, ((c.modSlot n fun x => { x with warning := false, resume := none }).slot m).bare =
      if m = n then { (s.slot m).bare with heatReq := false, resume := none, warning := false } else (s.slot m).bare := by
    intro m
    rw [State.slot_modSlot]
    split
    · next e =>
      subst e
      rw [if_pos rfl]
      have := hbare n
      rw [if_pos rfl] at this
      show { (c.slot n).bare with warning := false, resume := none } = _
      rw [this]
    · next e => rw [hbare, if_neg (Ne.symm e), if_neg (Ne.symm e)]
  have r3 : (c.modSlot n fun x => { x with warning := false, resume := none }).room = s.room :=
    Eq.trans rfl (r2.trans (r1.trans gr))
  have k3 := k2.quiet q3
  have hu := mt (q3.asked n).1 d.asked
  have hf := (q3.flag n).trans d.flag
  have hh : ∀ m, ((c.modSlot n fun x => { x with warning := false, resume := none }).hold m).isSome = (a.hold m).isSome :=
    fun m => (q3.hold m).trans (hh m)
  have bs : ∀ m, m ≠ n → (s.slot m).state.beside
      ((c.modSlot n fun x => { x with warning := false, resume := none }).slot m).state := fun m hm => by
    rw [q3.state]; exact bs m hm
  generalize c.modSlot n (fun x => { x with warning := false, resume := none }) = u at *
  have hun : (u.hold n).isSome = false := by rw [hh, gh, if_pos rfl]; rfl
  have hgu : ∀ m ∈ u.granted, m ≠ n → (u.slot m).state.heated := fun m hm hmn =>
    .inl ((k3.heat m (by simpa using hmn)).2.1 hm)
  have w4 (st : SlotState) (hb : st.busy = false) : Whole (u.enter n st) :=
    Law.enter k3 hu hf (hun.trans hb.symm)
  have u4 (st : SlotState) : ¬ (u.enter n st).asked n := by
    simpa only [State.asked, State.enter_granted, State.enter_waiting] using hu
  have s4 (st : SlotState) : ((u.enter n st).slot n).state = st := by rw [State.enter_state, if_pos rfl]
  have n4 (st : SlotState) : Beside n u (u.enter n st) := (Beside.refl n u).enter st
  have into : ∀ v, v = (if st = .idle then u.enterIdle n else u.enterEnded n st alone) → Whole v ∧ ¬ v.asked n ∧
      ((v.slot n).state = st ∨ st = .idle ∧ (v.slot n).state = .reserved) ∧ Beside n u v ∧ Bare u v ∧ v.room = u.room ∧ Calm u v := by
    rintro v rfl
    split
    · next e =>
      subst e
      have wi := Whole.offer (w4 .idle rfl) (by rw [s4]; exact spare_idle)
      have hst : (((u.enter n .idle).offer n).slot n).state = .idle ∨ (((u.enter n .idle).offer n).slot n).state = .reserved := by
        unfold State.offer
        split
        · exact .inl (s4 _)
        · split
          · exact .inl (s4 _)
          · next c _ _ e l _ =>
            right
            have hs5 := s4 .idle
            generalize u.enter n .idle = x at *
            unfold State.reserve
            dsimp only
            have qx : Quiet x ((x.setQueue c l).modSlot n fun y => { y with
                reservation := some ⟨e.card, e.account, e.joined, (x.setQueue c l).settings.room.window * 60⟩ }) :=
              Quiet.modSlot ((Quiet.refl x).setQueue c l) n (fun y => { y with
                reservation := some ⟨e.card, e.account, e.joined, (x.setQueue c l).settings.room.window * 60⟩ })
                fun _ => ⟨rfl, rfl⟩
            generalize (x.setQueue c l).modSlot n (fun y => { y with
                reservation := some ⟨e.card, e.account, e.joined, (x.setQueue c l).settings.room.window * 60⟩ }) = y at *
            rw [((Quiet.refl _).post _).showLasting n _ |>.state n]
            rw [if_neg (by rw [qx.state, hs5]; decide)]
            rw [State.enter_state, if_pos rfl]
      refine ⟨wi, ?_, ?_, (n4 .idle).offer (s4 _), (Bare.refl u).enterIdle n, enterIdle_room u n,
        (Calm.refl u).enterIdle n⟩
      · exact (wi.unasked id (by rcases hst with e | e <;> rw [e] <;> simp [SlotState.cold])).1
      · rcases hst with e | e
        · exact .inl e
        · exact .inr ⟨rfl, e⟩
    · rcases enterEnded_cases u n st alone with e | e <;> rw [e]
      · exact ⟨w4 st hb, u4 st, .inl (s4 st), n4 st, (Bare.refl u).enter n st, room_of_aside (aside_enter n st),
          (Calm.refl u).enter n st⟩
      · refine ⟨(w4 st hb).reckon _ _ _, mt ((reckon_reckoned _ _ _ _).asked n).1 (u4 st), .inl (enterTold_state st hu),
          fun m hm => (n4 st m hm).trans (reckon_beside _ _ _ _ (fun i hi => ?_) m), ((Bare.refl u).enter n st).reckon _ _ _,
          room_of_aside (aside_enterTold n st), (Calm.refl u).enterTold n st⟩
        have hn : i ≠ n := fun x => u4 st (.inl (x ▸ hi))
        rw [State.enter_state, if_neg (Ne.symm hn)]
        exact hgu i (by simpa only [State.enter_granted] using hi) hn
  obtain ⟨w5, u5, s5, n5, b5, r5, c5⟩ := into _ rfl
  clear into
  generalize (if st = .idle then u.enterIdle n else u.enterEnded n st alone) = v at *
  -- room control
  have c6 := (cal3.trans c5).trans (Calm.refl v).holdsEnded
  have b6 := b5.trans (Bare.refl v).holdsEnded
  have n6 := n5.trans ((Beside.refl n v).holdsEnded w5)
  have r6 : v.holdsEnded.room.state = if s.room.state = .closing ∧ (∀ m, m ≠ n → s.hold m = none) then .closed else s.room.state := by
    have hc : v.holdCount = 0 ↔ ∀ m, m ≠ n → s.hold m = none := by
      rw [allSlots_none]
      have bk := (cal3.trans c5).books
      have bh : v.holds = a.holds := by
        have := congrArg (fun b => b.1.2.1) bk
        exact this
      have e : ∀ m, v.hold m = a.hold m := fun m => by simp only [State.hold, bh]
      simp only [e, gh]
      constructor
      · intro x m hm; have := x m; rwa [if_neg hm] at this
      · intro x m; split
        · rfl
        · exact x m ‹_›
    have rv : v.room.state = s.room.state := by rw [r5, r3]
    unfold State.holdsEnded
    rw [rv]
    by_cases x : s.room.state = .closing ∧ ∀ m, m ≠ n → s.hold m = none
    · rw [if_pos x, if_pos ⟨x.1, hc.2 x.2⟩]
      unfold State.enterRoom
      dsimp only
      rw [if_neg (by decide), clearWaitlist_room, changeRoom_room]
    · rw [if_neg x, if_neg (fun y => x ⟨y.1, hc.1 y.2⟩), rv]
  have s6 : (v.holdsEnded.slot n).state = st ∨ st = .idle ∧ (v.holdsEnded.slot n).state = .reserved := by
    unfold State.holdsEnded
    split
    · unfold State.enterRoom
      dsimp only
      rw [if_neg (by decide)]
      have q := (Quiet.refl v).changeRoom .closed .holdsEnded
      have z := clearWaitlist_beside (Law.quiet w5 q) n
      rw [q.state] at z
      rcases z with z | ⟨z1, z2⟩ | ⟨z1, z2⟩
      · rw [z]; exact s5
      · rcases s5 with x | x
        · exact absurd (x.symm.trans z1) hs
        · exact .inl (z2.trans x.1.symm)
      · rcases s5 with x | x
        · rw [x] at z1; rcases z1 with z1 | z1 <;> rw [z1] at hb <;> cases hb
        · rw [x.2] at z1; rcases z1 with z1 | z1 <;> cases z1
    · exact s5
  intro hw ho
  have bk := c6.books
  simp only [State.books, Prod.mk.injEq] at bk
  refine ⟨fun m => ?_, bk.1.2.2.1.trans gq, fun i => ?_, s6, ?_, ?_, fun m hm => ⟨?_, ?_⟩, r6, ho⟩
  · rw [← gh]; simp only [State.hold, bk.1.2.1]
  · rw [← ga]; simp only [State.account, bk.1.1]
  · have := hw.unasked (n := n) id (by
      rcases s6 with x | x
      · rw [x]
        cases st <;> simp_all [SlotState.cold, SlotState.busy]
      · rw [x.2]; simp [SlotState.cold])
    exact ⟨this.2, this.1⟩
  · rw [b6, hbare, if_pos rfl]
    have := (b6 n).trans (hbare n)
    rw [if_pos rfl] at this
    have hc : (v.holdsEnded.slot n).causes = (s.slot n).bare.causes := by
      have e : (v.holdsEnded.slot n).bare.causes = _ := congrArg Slot.causes this
      exact e
    rw [hc]
  · rw [b6, hbare, if_neg hm]
  · exact (bs m hm).trans (n6 m hm)

end Sys2Proof.Machine
end

