-- ==== Sys2Proof/Laws/Requests.lean ====
section
/-!
SUPPORT. Requests: the numbers that a body's bytes spell (R202), what a request taken on an IDLE port becomes (R187 to R190),
and what a wrong turn of one becomes.
-/

namespace Sys2Proof.Machine

/-! ### Numbers in bytes (R202) -/

theorem toNat_ofNat8 (n : Nat) : (BitVec.ofNat 8 n).toNat = n % 256 := by simp

@[simp] theorem beBytes_one (n : Nat) : beBytes 1 n = [BitVec.ofNat 8 n] := by simp [beBytes]
@[simp] theorem beBytes_two (n : Nat) : beBytes 2 n = [BitVec.ofNat 8 (n / 256), BitVec.ofNat 8 n] := by simp [beBytes]
@[simp] theorem beBytes_three (n : Nat) :
    beBytes 3 n = [BitVec.ofNat 8 (n / 65536), BitVec.ofNat 8 (n / 256), BitVec.ofNat 8 n] := by simp [beBytes]
@[simp] theorem beBytes_four (n : Nat) :
    beBytes 4 n = [BitVec.ofNat 8 (n / 16777216), BitVec.ofNat 8 (n / 65536), BitVec.ofNat 8 (n / 256), BitVec.ofNat 8 n] := by
  simp [beBytes]

theorem beNat_two {n : Nat} (h : n < 65536) : beNat [BitVec.ofNat 8 (n / 256), BitVec.ofNat 8 n] = n := by
  simp [beNat]; omega
theorem beNat_three {n : Nat} (h : n < 16777216) :
    beNat [BitVec.ofNat 8 (n / 65536), BitVec.ofNat 8 (n / 256), BitVec.ofNat 8 n] = n := by
  simp [beNat]; omega
theorem beNat_four {n : Nat} (h : n < 4294967296) :
    beNat [BitVec.ofNat 8 (n / 16777216), BitVec.ofNat 8 (n / 65536), BitVec.ofNat 8 (n / 256), BitVec.ofNat 8 n] = n := by
  simp [beNat]; omega

/-! ### A request taken -/

variable {s : State} {p : Port}

theorem State.readyFor.hears (h : s.readyFor p) : s.hears p = true := by
  obtain ⟨h1, h2, h3, -⟩ := h; simp [State.hears, State.listens, State.deaf, h1, h2, h3, Activity.isSending]
theorem State.readyFor.free (h : s.readyFor p) : s.portBusy p = false := by simp [State.portBusy, h.2.2.1]

/-- A frame at a port that is ready for one acts. -/
theorem State.readyFor.arrives (h : s.readyFor p) (k : FrameClass) (act : State → State) : s.frameArrives p k act = act s := by
  rw [frameArrives_none h.hears h.2.2.2, h.free]; rfl

/-- A request at a BUSY port (R187). -/
theorem take_busy {α : Type} (hh : s.hears p = true) (hf : (s.port p).frame = none) (hb : (s.port p).activity ≠ .idle) (kind : Nat)
    (e : Except Status α) (go : α → State → State) : s.take p kind e go = s.countOverrun p := by
  have : s.portBusy p = true := by simp [State.portBusy, hb]
  rw [State.take, frameArrives_none hh hf, if_pos this]

/-- A request that passes the tests before its own rule. -/
theorem take_ok {α : Type} (h : s.readyFor p) {kind : Nat} (hk : kindRefused p kind = false) {e : Except Status α} {a : α}
    (he : e = .ok a) (ht : kindWrites kind = true → s.turn ≠ some (otherPort p)) (go : α → State → State) :
    s.take p kind e go = go a (s.countTaken p) := by
  have ht : (kindWrites kind && (s.countTaken p).turn == some (otherPort p)) = false := by
    have e : (s.countTaken p).turn = s.turn := by cases p <;> rfl
    rw [e]
    cases hw : kindWrites kind
    · rfl
    · simpa using ht hw
  subst he
  simp only [State.take, h.arrives, hk, ht, Bool.false_eq_true, if_false]

theorem request_ok {α : Type} (h : s.readyFor p) {kind : Nat} (hk : kindRefused p kind = false) {e : Except Status α} {a : α}
    (he : e = .ok a) (ht : kindWrites kind = true → s.turn ≠ some (otherPort p)) (act : α → State → Answer) :
    s.request p kind e act = (act a (s.countTaken p)).finish p kind (s.countTaken p).writes.length :=
  take_ok h hk he ht _

/-- A request refused for its port (R192). -/
theorem request_refused {α : Type} (h : s.readyFor p) {kind : Nat} (hk : kindRefused p kind = true) (e : Except Status α)
    (act : α → State → Answer) : s.request p kind e act = (s.countTaken p).answer p kind .notPermitted := by
  simp only [State.request, State.take, h.arrives, hk, if_true]

@[simp] theorem countTaken_writes : (s.countTaken p).writes = s.writes := by cases p <;> rfl

/-- An answer that begins no change of the store is sent. -/
theorem finish_sent {x : Answer} {k w : Nat} (h : x.state.writes.length = w) :
    x.finish p k w = x.state.answer p k x.status x.body := by simp [Answer.finish, h]

/-- An answer that began changes waits for them. -/
theorem finish_stored {x : Answer} {k w : Nat} (h : x.state.writes.length ≠ w) :
    x.finish p k w =
      { x.state.setActivity p (.storing ⟨k, x.status, x.body⟩ x.state.writes.length) with turn := some p } := by
  simp [Answer.finish, h]

theorem answer_replied (kind : Nat) (st : Status) (b : ReplyBody) :
    (s.countTaken p).answer p kind st b = s.replied p ⟨kind, st, b⟩ := by cases p <;> rfl

/-! ### A host port's frames (R185, R186, R201) -/

/-- A request taken out of a frame is the command of its kind. -/
theorem takeRequest_eq (s : State) (p : Port) (kind : Byte) (body : List Byte) :
    s.takeRequest p kind body = exec (requestCommand p kind body) s := by
  unfold State.takeRequest requestCommand
  generalize kind.toNat = k
  split <;> first | rfl | (split <;> first | rfl | contradiction)

/-- A broadcast taken out of a frame is the command of its kind. -/
theorem takeBroadcast_eq (s : State) (p : Port) (kind : Byte) (body : List Byte) :
    s.takeBroadcast p kind body = exec (broadcastCommand p kind body) s := by
  unfold State.takeBroadcast broadcastCommand
  generalize kind.toNat = k
  split <;> first | rfl | (split <;> first | rfl | contradiction)

/-- An ended frame changes its port alone, or is the request or the broadcast that it carries. -/
theorem frameEnded_cases (s : State) (p : Port) (e : FrameEnd) : (∃ u, s.frameEnded p e = s.setPort p u) ∨
    ∃ kind body, s.frameEnded p e = s.after (exec (requestCommand p kind body) s) ∨
      s.frameEnded p e = s.after (exec (broadcastCommand p kind body) s) := by
  have self : ∃ u, s = s.setPort p u := ⟨_, (s.setPort_self p).symm⟩
  unfold State.frameEnded State.takeFrame
  simp only [takeRequest_eq, takeBroadcast_eq]
  split
  · exact .inl self
  · split
    · split
      · split
        · exact .inr ⟨_, _, .inl rfl⟩
        · exact .inr ⟨_, _, .inr rfl⟩
        · exact .inl self
      · exact .inl (frameDropped_port ..)
    all_goals exact .inl (frameDropped_port ..)

/-- What requests, broadcasts and changes of a port alone keep, HOST_FRAME_DISCARD keeps. -/
theorem hostFrameDiscard_keeps {P : State → Prop} {p : Port} (hp : ∀ s u, P s → P (s.setPort p u))
    (hr : ∀ s t kind body, P s → exec (requestCommand p kind body) s = .next t → P t)
    (hb : ∀ s t kind body, P s → exec (broadcastCommand p kind body) s = .next t → P t)
    {s t : State} {chars : List RxChar} (h : P s) (e : exec (.hostFrameDiscard p chars) s = .next t) : P t := by
  have one (s : State) (f : FrameEnd) (h : P s) : P (s.frameEnded p f) := by
    have after (c : Instr) (k : ∀ t, exec c s = .next t → P t) : P (s.after (exec c s)) := by
      unfold State.after; split
      · exact k _ ‹_›
      · exact h
      · exact h
    rcases frameEnded_cases s p f with ⟨u, e⟩ | ⟨kind, body, e | e⟩ <;> rw [e]
    · exact hp s u h
    · exact after _ fun t => hr s t kind body h
    · exact after _ fun t => hb s t kind body h
  have all (l : List FrameEnd) (s : State) (h : P s) : P (l.foldl (fun s e => s.frameEnded p e) s) := by
    induction l generalizing s with
    | nil => exact h
    | cons f l ih => exact ih _ (one s f h)
  obtain rfl : (if s.listens p then s.hearChars p chars else s) = t := Host.Outcome.next.inj e
  split
  · unfold State.hearChars
    dsimp only
    obtain ⟨u, e⟩ := leaveOpen_port ((assemble (s.port p).frame chars).1.foldl (fun s e => s.frameEnded p e) s) p
      ((s.port p).frame.isSome && (assemble (s.port p).frame chars).1.isEmpty) (assemble (s.port p).frame chars).2
    rw [e]
    exact hp _ u (all _ s h)
  · exact h

end Sys2Proof.Machine
end

