-- ==== Sys2Proof/Laws/Alone.lean ====
section
/-!
SUPPORT. Slots without a heat request, which a reckoning leaves alone (R112, R114): entry to a state (R3), the offer to a class
queue (R5, R162), and what a suspended governor leaves.
-/

namespace Sys2Proof.Machine

variable {s : State}

/-! ### The reckoning -/

theorem revokeSlots_slot (l : List HeatRequest) (s : State) (n : Fin 24) (h : n ∉ slotsOf l) :
    (l.foldl (fun s x => s.revokeSlot x.slot) s).slot n = s.slot n := by
  induction l generalizing s with
  | nil => rfl
  | cons r l ih =>
    simp only [slotsOf, List.map_cons, List.mem_cons, not_or] at h
    rw [List.foldl_cons, ih _ h.2]
    unfold State.revokeSlot
    rw [State.enter_slot, if_neg (Ne.symm h.1)]
    exact State.slot_modSlot_ne _ (Ne.symm h.1) _

theorem grantSlots_slot (l : List HeatRequest) (s : State) (n : Fin 24) (h : n ∉ slotsOf l) :
    (l.foldl (fun s x => s.grantSlot x.slot) s).slot n = s.slot n := by
  induction l generalizing s with
  | nil => rfl
  | cons r l ih =>
    simp only [slotsOf, List.map_cons, List.mem_cons, not_or] at h
    rw [List.foldl_cons, ih _ h.2]
    unfold State.grantSlot
    dsimp only
    split
    · rw [State.enter_slot, if_neg (Ne.symm h.1)]
      exact State.slot_modSlot_ne _ (Ne.symm h.1) _
    · exact State.slot_modSlot_ne _ (Ne.symm h.1) _

theorem revoke_slot (s : State) (fell : Bool) (n : Fin 24) (h : ¬ s.asked n) : ((s.revoke fell).1).slot n = s.slot n := by
  unfold State.revoke
  refine revokeSlots_slot (s.revocation fell).2 _ n fun hm => h (.inl ?_)
  rw [granted_eq]
  exact (revocation_split s fell).subset (List.mem_append_right _ hm)

theorem newGrants_slots (heat : Fin 4 → Nat) (v : List (Fin 24)) (room : Int) (l : List HeatRequest) :
    ∀ m ∈ slotsOf (newGrants (walk heat v room l)), m ∈ slotsOf l := by
  intro m hm
  exact (walk_perm heat v room l).subset (List.mem_append_left _ hm)

theorem grantPass_slot (s : State) (v : List (Fin 24)) (n : Fin 24) (h : ¬ s.asked n) : (s.grantPass v).slot n = s.slot n := by
  unfold State.grantPass
  refine grantSlots_slot _ _ n fun hm => h (.inr ?_)
  rw [waiting_eq]
  exact newGrants_slots _ _ _ _ n hm

/-- A reckoning leaves a slot without a request as it is. -/
theorem reckon_slot (s : State) (x y z : Bool) (n : Fin 24) (h : ¬ s.asked n) : (s.reckon x y z).slot n = s.slot n := by
  unfold State.reckon
  dsimp only
  have q : Quiet s ((s.modGov fun g => { g with motor := s.motorSum }).modGov fun g =>
      { g with heat := (s.modGov fun g => { g with motor := s.motorSum }).heatBudget }) := by
    refine Quiet.modGov (Quiet.modGov (Quiet.refl s) _ ?_) _ ?_ <;> exact fun _ => ⟨rfl, rfl⟩
  have e : ((s.modGov fun g => { g with motor := s.motorSum }).modGov fun g =>
      { g with heat := (s.modGov fun g => { g with motor := s.motorSum }).heatBudget }).slot n = s.slot n := by
    simp only [State.slot, State.modGov]
  generalize ((s.modGov fun g => { g with motor := s.motorSum }).modGov fun g =>
      { g with heat := (s.modGov fun g => { g with motor := s.motorSum }).heatBudget }) = t at *
  have ht : ¬ t.asked n := mt (q.asked n).1 h
  have d (u : State) : u.tidyStamp.slot n = u.slot n := by unfold State.tidyStamp; split <;> rfl
  rw [d]
  have k (f : Bool) : ((t.revoke f).1).slot n = s.slot n := (revoke_slot t f n ht).trans e
  split
  · rw [grantPass_slot _ _ _ (mt ((revoke_reckoned t _).asked n).1 ht)]; exact k _
  · exact k _

/-! ### Entry to a state, and the offer -/

theorem enter_asked (n m : Fin 24) (st : SlotState) : (s.enter n st).asked m ↔ s.asked m := by
  simp only [State.asked, State.enter_granted, State.enter_waiting]

theorem enterTold_asked (n m : Fin 24) (st : SlotState) : (s.enterTold n st).asked m ↔ s.asked m :=
  ((reckon_reckoned _ _ _ _).asked m).trans (enter_asked n m st)

/-- Entry to a state, at a slot without a request (R3). -/
theorem enterTold_slot (n m : Fin 24) (st : SlotState) (h : ¬ s.asked m) :
    (s.enterTold n st).slot m = if n = m then { s.slot n with
      state := st, outputs := outputsOf st (s.slot n).heatGrant, sense := (s.slot n).sense.disturb,
      timer := (s.stateSeconds st).map (s.elapsed + ·) } else s.slot m :=
  (reckon_slot _ _ _ _ _ (mt (enter_asked n m st).1 h)).trans (State.enter_slot n st m)

end Sys2Proof.Machine
end

