-- ==== Sys2Proof/Tests/Slice0.lean ====
section
/-!
SUPPORT. Tests of one step each, the terms that the well-formedness check refuses, and, for every statement with
hypotheses, a state that meets them. Expected values are worked out by hand from the rules named.
-/

namespace Sys2Proof.Tests
set_option Elab.async false
open Sys2Proof Sys2Proof.Machine

/-! ### Small states -/

/-- A running part with nothing configured. -/
def up : State := { State.reset with life := .running }

/-- Slot 0: a washer of class 0 on half A of terminal 0. -/
def washerCfg : SlotCfg := ⟨0, 0, .a⟩
/-- Slot 1: a dryer of class 1 on half B of terminal 0. -/
def dryerCfg : SlotCfg := ⟨1, 0, .b⟩

/-- Class 1 is a dryer; a start of class 0 costs 300 units, one of class 1 200; a dryer's top-up is 10 minutes for 50. -/
def shopSettings : Settings :=
  { Settings.default with
    classes := Settings.default.classes.set 1 ⟨.dryer, 5, 180⟩,
    prices := { PriceCfg.default with entries := (PriceCfg.default.entries.set 0 ⟨300, 1800, 10, 0⟩).set 2 ⟨200, 1200, 10, 50⟩ } }

def shopHold : Hold := ⟨3, 77, 300, ⟨0, .washer, 0, 300, 1800, 0, 0, 5, 120⟩, 0, 0, 0, 0⟩
def dryHold : Hold := ⟨4, 78, 200, ⟨1, .dryer, 0, 200, 1200, 10, 50, 5, 120⟩, 0, 0, 0, 0⟩

/-- A configured slot in a state, its door closed and locked, its machine running, its timer at 5 seconds. -/
def slotIn (c : SlotCfg) (st : SlotState) : Slot :=
  { Slot.start with
    cfg := some c, state := st, outputs := outputsOf st false, timer := some 5,
    view := ⟨false, .locked, .running, 0, false, .none⟩ }

/-- Two slots in one state, with their holds where it is busy, 100 seconds after start-up; terminal 0 PRESENT. -/
def shop (st : SlotState) : State :=
  { up with
    elapsed := 100, settings := shopSettings,
    slots := (up.slots.set 0 (slotIn washerCfg st)).set 1 (slotIn dryerCfg st),
    terminals := up.terminals.set 0 { Terminal.start .paired .blank .blank with presence := .present },
    holds := if st.busy then (up.holds.set 0 (some shopHold)).set 1 (some dryHold) else up.holds,
    accounts := [(3, ⟨77, .active, 5000, if st.busy then 300 else 0, 0, 0, 0⟩),
      (4, ⟨78, .active, 1000, if st.busy then 200 else 0, 0, 0, 0⟩)],
    gov := { Governor.start 20000 with motor := 0 } }

/-- The state that a command answers. -/
def after (c : Instr) (s : State) : State :=
  match exec c s with
  | .next t => t
  | .fault _ | .refused _ => s

/-- The reply that a port has built or sends, or holds until the store is done. -/
def replyOf (s : State) (p : Port) : Option Reply :=
  match (s.port p).activity with
  | .built r | .sending r | .storing r _ => some r
  | .idle | .sensing _ | .deferred _ => none

def replyStatus (s : State) (p : Port) : Option Status := (replyOf s p).map fun r => r.status

theorem shop_laws (st : SlotState) : (shop st).heatLaw ∧ (shop st).busyLaw := by
  unfold State.heatLaw State.busyLaw State.oneRequest State.heatAt
  cases st <;> decide +kernel

theorem shop_ready (st : SlotState) (p : Port) : (shop st).readyFor p := by
  unfold State.readyFor
  cases st <;> cases p <;> decide +kernel

/-! ### The terms that the well-formedness check refuses -/

theorem test_count_ill : (Instr.conversionResult 4096).wellFormed = false := by decide
theorem test_strap_count_ill : (Instr.startUp ⟨4096, false, []⟩).wellFormed = false := by decide
theorem test_record_ill : (Instr.strapReread ⟨0, false, [⟨1, 24⟩]⟩).wellFormed = false := by decide
theorem test_group_ill : (Instr.startUp ⟨0, false, [⟨12, 0⟩]⟩).wellFormed = false := by decide
theorem test_reply_length_ill : (Instr.terminalReply [cleanChar 0 ⟨0x20, true⟩]).wellFormed = false := by decide
theorem test_position_ill : (Instr.waitlistEntryExpiry 0 0).wellFormed = false ∧
    (Instr.waitlistEntryExpiry 0 9).wellFormed = false := by decide
theorem test_frame_ill : (Instr.hostFrameDiscard .building []).wellFormed = false := by decide
theorem test_body_ill : (Instr.roomStatus .building (List.replicate 200 0)).wellFormed = false := by decide +kernel
theorem test_kind_ill : (Instr.unknownKindRequest .service 0x60 []).wellFormed = false := by decide
theorem test_form_ill : (Instr.priceSetEntry .building [1]).wellFormed = false ∧
    (Instr.senseSetGeneral .building [0]).wellFormed = false := by decide
theorem test_action_ill : (Instr.slotServiceTake .building [0, 1, 0]).wellFormed = false ∧
    (Instr.slotServiceReturn .building [0, 0, 0]).wellFormed = false := by decide
theorem test_well_formed : (Instr.startUp ⟨300, false, [⟨1, 23⟩]⟩).wellFormed = true ∧
    (Instr.slotServiceReturn .service [0, 1, 0]).wellFormed = true := by decide
theorem test_no_word : Sys2Proof.decodeTableWord 16 0x1234 = none := rfl

/-! ### One step each -/

/-- The check value of the nine characters "123456789" (R57 names CRC-16 with this polynomial and start value). -/
theorem test_crc : crc16 [0x31, 0x32, 0x33, 0x34, 0x35, 0x36, 0x37, 0x38, 0x39] = 0x29B1 := by decide +kernel

/-- A refusal of unit 3: 0x13, length 2, kind 0x55, status UNKNOWN_KIND (1), and a check that agrees (R185, R188, R201). -/
theorem test_reply_frame : (Reply.frame 3 ⟨0x55, .unknownKind, .empty⟩ []).take 4 =
      [⟨0x13, true⟩, ⟨2, false⟩, ⟨0x55, false⟩, ⟨1, false⟩] ∧
    (Reply.frame 3 ⟨0x55, .unknownKind, .empty⟩ []).length = 6 ∧
    checkAgrees ((Reply.frame 3 ⟨0x55, .unknownKind, .empty⟩ []).tail.map fun c => c.data) = true := by decide +kernel
/-- The charge of 300 units for half of the paid time in steps of 5 (R88), and below the grace. -/
theorem test_charge : chargeOf .fault 300 1800 5 120 907 = 150 ∧ chargeOf .fault 300 1800 5 120 119 = 0 := by decide
/-- A count of 1,124 with zero 100 and scale 50 is 50 deciamps, and 1,150 watts at 230 volts (R128). -/
theorem test_scale : ampsOf ⟨100, 50⟩ 999 1124 = 50 ∧ wattsOf 230 50 = 1150 := by decide
/-- Stray load: 1,210 watts at the feed, 1,000 at the slots (R105: up to a multiple of 100). -/
theorem test_stray : strayOf 1210 1000 = 300 ∧ strayOf 900 1000 = 0 := by decide
/-- A span across midnight (R84). -/
theorem test_span : inSpan 1380 60 0 = true ∧ inSpan 1380 60 60 = false ∧ inSpan 1380 60 1380 = true := by decide
/-- A strap of 1,024 + 40 is band 2, and one of 1,024 + 32 is marginal (R135). -/
theorem test_strap : strapAddress 1064 = 2 ∧ strapIsMarginal 1064 = false ∧ strapIsMarginal 1056 = true := by decide
theorem test_start_up : (after (.startUp ⟨1064, false, []⟩) State.reset).unit = 2 ∧
    (after (.startUp ⟨1064, false, []⟩) State.reset).life = .running := by decide +kernel
theorem test_reread : (after (.startUp ⟨1056, false, []⟩) State.reset).life = .strap 1 ∧
    (after (.strapReread ⟨1056, false, []⟩) { State.reset with life := .strap 3 }).strapMarginal = true := by decide +kernel
/-- The first poll is to address 0: its frame has the address, the length 14 and, with both halves idle, its check; the address
alone has the ninth bit set (R38, R59). -/
theorem test_poll : ((after .rotationPoll (shop .idle)).bus.sent).take 4 =
      [⟨0, true⟩, ⟨14, false⟩, ⟨8, false⟩, ⟨0, false⟩] ∧
    ((after .rotationPoll (shop .idle)).bus.sent).length = 18 := by decide +kernel
theorem test_probe_due : (after .rotationPoll { shop .idle with bus := { Bus.start false with probeDue := true } }).bus.turn =
    .between := by decide +kernel
theorem test_probe : (after .probePoll { shop .idle with bus := { Bus.start false with probeDue := true } }).bus.turn =
    .exchange 1 .probe := by decide +kernel
theorem test_window : (after (.contentionWindow 0 0 1 5 0) { up with bus := { Bus.start false with turn := .window } }).bus.turn =
    .between := by decide +kernel
/-- A tap of card 77 on the IDLE washer holds 300 units (R75) and the slot is ARMED for 180 s (R9). -/
theorem test_tap : ((shop .idle).tap 0 77).account 3 = ⟨77, .active, 5000, 300, 0, 0, 0⟩ ∧
    (((shop .idle).tap 0 77).slot 0).timer = some 280 := by decide +kernel
/-- A start press locks the door of an ARMED slot for 20 s (R11, R3). -/
theorem test_start : (((shop .armed).startPress 0).slot 0).state = .locking ∧
    (((shop .armed).startPress 0).slot 0).timer = some 120 := by decide +kernel
theorem test_armed_deadline : ((after (.armedDeadline 0) (shop .armed)).account 3).held = 0 ∧
    ((after (.armedDeadline 0) (shop .armed)).account 3).balance = 5000 := by decide +kernel
theorem test_locking_deadline : ((after (.lockingDeadline 0) (shop .locking)).slot 0).state = .faulted ∧
    ((after (.lockingDeadline 0) (shop .locking)).slot 0).causes.lockout = true := by decide +kernel
theorem test_run_second : ((after .runSecond (shop .running)).slot 0).run = 1 ∧
    ((after .runSecond (shop .running)).slot 1).remaining = 0 := by decide +kernel
theorem test_unlock : ((after (.unlockDeadline 1) (shop .finishing)).slot 1).state = .outOfService := by decide +kernel
theorem test_collect : ((after (.collectWindowExpiry 0) (shop .collect)).slot 0).state = .idle := by decide +kernel
theorem test_recovery : ((after (.recoveryDeadline 0) (shop .recovering)).slot 0).state = .faulted := by decide +kernel
theorem test_clock : (after .clockSecond { up with clock := ⟨86399, 65535, true⟩ }).clock = ⟨0, 0, true⟩ := by decide +kernel
theorem test_interlock : ((after .interlockActive (shop .running)).slot 0).state = .suspended ∧
    (after .interlockActive (shop .running)).room.timer = .running 1900 := by decide +kernel
theorem test_stop : ((after (.slotStop .building [0]) (shop .running)).slot 0).state = .faulted ∧
    ((after (.slotStop .building [0]) (shop .running)).account 3).balance = 5000 := by decide +kernel
theorem test_take_service : ((after (.slotServiceTake .service [0, 0, 0]) (shop .idle)).slot 0).causes.service = true ∧
    ((after (.slotServiceTake .service [0, 0, 0]) (shop .idle)).slot 0).state = .outOfService := by decide +kernel
theorem test_credit : replyStatus (after (.accountCredit .building [0, 3, 0x0F, 0x42, 0x3F]) (shop .idle)) .building =
    some .limit := by decide +kernel
theorem test_account_put : (after (.accountPut .building [0, 9, 0, 0, 0, 5, 1, 0, 3, 0xE8, 0, 0, 0]) up).account 9 =
    ⟨5, .active, 1000, 0, 0, 0, 0⟩ := by decide +kernel
theorem test_bad_length : replyStatus (after (.accountRemove .service [0]) up) .service = some .badLength := by decide +kernel
theorem test_not_permitted : replyStatus (after (.eventsRead .service [1]) up) .service = some .notPermitted := by decide +kernel
theorem test_event_bytes : (⟨513, .storeSuspect 1 23, ⟨3600, 7, true⟩⟩ : Event).bytes =
    [2, 1, 11, 0, 7, 0, 14, 16, 1, 1, 0, 23, 0, 0, 0, 0] := by decide +kernel
theorem test_time_set : (after (.timeSet .building [0, 7, 0, 14, 16]) up).clock = ⟨3600, 7, true⟩ := by decide +kernel
theorem test_budget : (after (.budgetSet .building [0, 0x27, 0x10]) up).gov.heat = 10000 := by decide +kernel
/-- A gap of three character times, 528 samples, keeps the frame open; one more sample ends it (R57). -/
theorem test_gap : (assemble none [cleanChar 0 ⟨0, true⟩, cleanChar 528 ⟨1, false⟩]).1 = [] ∧
    (assemble none [cleanChar 0 ⟨0, true⟩, cleanChar 529 ⟨1, false⟩]).1 = [.gap 0] := by decide +kernel
/-- A good frame of kind 0x02 for unit 0 is its request (R192, R201): one taken, and a reply of that kind. -/
theorem test_frame_taken : let s := after (.hostFrameDiscard .service ((requestFrame 0 0x02 [1]).map (cleanChar 0))) up
    s.service.counts.taken = 1 ∧ (replyOf s .service).map (fun r => r.kind) = some 0x02 := by decide +kernel
/-- Class 0 made a dryer's: its idle slot's phase is DRY (R1). -/
theorem test_class_phase : ((after (.classSet .building [0, 1, 5, 0, 180]) (shop .idle)).slot 0).phase = .dry := by decide +kernel
/-- A lost terminal with slot 1 on half A and slot 0 on half B: slot 0's cycle ends first (R6). -/
theorem test_lost_order : let s := (shop .running).modSlot 0 fun x => { x with cfg := some ⟨0, 0, .b⟩ }
    let s := s.modSlot 1 fun x => { x with cfg := some ⟨1, 0, .a⟩ }
    ((s.loseSlots 0).settlement.records.map fun r => r.slot) = [0, 1] := by decide +kernel
theorem test_restart : (after (.hostReplyEnd .building) (after (.restart .building []) up)).life = .restartDue := by
  decide +kernel
/-- The bytes of a SLOT_STATUS request for slot 3, its check behind them, and a port that has the first three. -/
def asked : List Byte := sealed [2, 0x02, 3]
def heldFrame (p : Port) : State := up.setPort p { up.port p with frame := some (0, asked.take 3) }
/-- A slot moved to another class during a scan is judged under its old one at its end (R123). -/
theorem test_moved_mid_scan : let s := (shop .idle).markScan
    let t := after (.slotSet .building [0, 1, 0, 0]) s
    ((t.slot 0).cfg.map fun c => c.cls) = some 1 ∧ (t.slot 0).sense.scanned = some 0 := by decide +kernel
/-- GOVERNOR_SET of a class's priority alone keeps its slots' strike counters; a draw changed returns them to 0 (R131). -/
theorem test_governor_strikes : let s := (shop .idle).modSense 0 fun x => { x with idleDraw := ⟨5, false⟩ }
    let g := (shop .idle).govClass 0
    let set (m : Nat) := after (.governorSetClass .building ([1, 0] ++ beBytes 2 m ++ beBytes 2 g.heat ++ [3])) s
    g.priority ≠ 3 ∧ ((set g.motor).slot 0).sense.idleDraw.count = 5 ∧
    ((set (g.motor + 50)).slot 0).sense.idleDraw.count = 0 := by decide +kernel
/-- A frame open before the other port's RESTART is taken after it, and start-up waits for its reply (R187, R196). -/
theorem test_restart_open_frame : let s := after (.restart .service []) (heldFrame .building)
    let t := after (.hostFrameDiscard .building ((lineOf 9 (asked.drop 3)).drop 1)) s
    t.building.counts.taken = 1 ∧ (after (.hostReplyEnd .service) t).life = .running ∧
    (after (.hostReplyEnd .building) (after (.hostReplyEnd .service) t)).life = .restartDue := by decide +kernel
/-- A RESTART that ends a frame open on the other port leaves both ports without new frames (R196). -/
theorem test_restart_both : let rest : List Byte := sealed [1, 0x60]
    let held := up.setPort .building { up.building with frame := some (0, [1]) }
    let s := after (.hostFrameDiscard .building ((lineOf 9 (rest.drop 1)).drop 1)) (after (.restart .service []) held)
    s.restart = ⟨.taken, .taken⟩ ∧
    (let t := after (.hostReplyEnd .service) s
     t.life = .running ∧ after (.slotStatus .service [3]) t = t ∧ (after (.hostReplyEnd .building) t).life = .restartDue) := by
  decide +kernel
/-- A second RESTART on the waiting one's port leaves the wait as it is (R196). -/
theorem test_restart_again : let s : State := { up with restart := ⟨.ended, .none⟩, service := ⟨.built ⟨0x02, .ok, .empty⟩, ⟨1, 0, 0, 0⟩, none⟩ }
    (after (.hostReplyEnd .service) (after (.restart .building []) s)).life = .restartDue := by decide +kernel
/-- One that opens after it is disregarded (R196). -/
theorem test_restart_new_frame : let s := after (.restart .service []) up
    after (.hostFrameDiscard .building (lineOf 0 asked)) s = s := by decide +kernel

/-! ### States and operands that meet the hypotheses of the statements, under the statement's name -/

theorem witness_StepTakesTheFront : ({ up with pending := [.powerLoss] } : State).pending = Instr.powerLoss :: [] ∧
    up.pending = [] := ⟨rfl, rfl⟩
/-- The building port's reply is built and has not begun; the service port is IDLE. -/
theorem witness_StepTakesTheFront_empty : let s := { up with building := ⟨.built ⟨0x60, .ok, .empty⟩, ⟨1, 0, 0, 0⟩, none⟩ }
    s.pending = [] ∧ s.life = .running ∧ (s.port .building).activity = .built ⟨0x60, .ok, .empty⟩ ∧
    (∀ r, (s.port .service).activity ≠ .built r) ∧ State.reset.life ≠ .running :=
  ⟨rfl, rfl, rfl, fun _ => by simp [State.port, up, State.reset, PortUnit.start], by decide⟩
theorem witness_NothingActsWithoutPower : State.reset.life = .waiting ∧ (∀ i, Instr.scanStart ≠ .startUp i) ∧
    Instr.scanStart ≠ .powerLoss := by simp [State.reset]
/-- A store with two accounts, the first account's hold on slot 0, and a settlement queue of one record at the place 63. -/
def stocked : Store :=
  { (shop .running).store with
    accounts := [(3, ⟨77, .active, 5000, 300, 0, 0, 0⟩), (4, ⟨78, .active, 1000, 0, 0, 0, 0⟩)],
    holds := up.holds.set 0 (some shopHold), slots := (Vector.replicate 24 none).set 0 (some (some washerCfg)),
    places := (Vector.replicate 64 none).set 63 (some ((shop .running).settlementRecord 0 shopHold .completed none)),
    header := some ⟨63, 1, 1⟩ }
/-- Counts that are marginal and ones that are not, the store in order, and every life a start-up is taken in. -/
theorem witness_StartUpGivesTheStartStates : let s := { State.reset with store := stocked }
    s.store.inOrder ∧ (∃ j, 1 ≤ j ∧ j ≤ 7 ∧ 512 * j ≤ 1056 + 32 ∧ 1056 ≤ 512 * j + 32) ∧
    (∃ j, 1 ≤ j ∧ j ≤ 7 ∧ 512 * j ≤ 480 + 32 ∧ 480 ≤ 512 * j + 32) ∧
    (¬ ∃ j, 1 ≤ j ∧ j ≤ 7 ∧ 512 * j ≤ 1057 + 32 ∧ 1057 ≤ 512 * j + 32) ∧ s.life = .waiting ∧ 2 < 3 ∧
    ({ s with life := .strap 3 } : State).life = .strap 3 ∧ ({ s with life := .restartDue } : State).life = .restartDue ∧
    (∀ k, up.life ≠ .strap k) :=
  ⟨by unfold Store.inOrder; decide, ⟨2, by decide⟩, ⟨1, by decide⟩, by rintro ⟨j, h⟩; omega, rfl, by decide, rfl, rfl,
    fun _ => by simp [up]⟩
/-- Records that the store check fails or passes, a hold that stays, and a place that its header names. -/
theorem witness_StartUp_store : let i : StartInput := ⟨1064, false, [⟨1, 23⟩]⟩
    recordFails i 1 0 = false ∧ recordFails i 3 0 = false ∧ stocked.header = some ⟨63, 1, 1⟩ ∧ 0 < 1 ∧
    (stocked.places[(63 + 0) % 64]?).isSome ∧ (stocked.places[(63 + 0) % 64]?.bind id).isSome ∧
    stocked.holds[(0 : Fin 24).val] = some shopHold ∧ recordFails i 1 23 = true ∧ State.reset.events = ⟨[], 0, 0⟩ ∧
    (⟨1064, false, []⟩ : StartInput).failed = [] := by decide +kernel
/-- From that store the hold stands and its slot is RECOVERING; the record in the queue stays (R207 to R209). -/
theorem test_start_up_store : let t := after (.startUp ⟨1064, false, []⟩) { State.reset with store := stocked }
    t.hold 0 = some shopHold ∧ (t.slot 0).state = .recovering ∧ (t.account 3).held = 300 ∧
    t.settlement.records.length = 1 ∧ t.settlement.oldest = 63 := by decide +kernel
theorem witness_PollTurns : (shop .idle).life = .running ∧ (shop .idle).bus.turn = .between ∧
    (shop .idle).bus.winner = none ∧ (shop .idle).bus.broadcast = false ∧ (shop .idle).bus.probeDue = false ∧
    (shop .idle).bus.position = 15 ∧ ((shop .idle).terminal 0).presence = .present ∧
    (∀ u : Fin 16, u < 0 → ((shop .idle).terminal u).presence ≠ .present) := by decide +kernel
/-- The probe pointer at 15: the addresses from it on wrap around. -/
theorem witness_PollTurns_probe : let s := { shop .idle with bus := { Bus.start false with probeDue := true, pointer := 15 } }
    s.bus.probeDue = true ∧ (15 : Fin 16) = s.bus.pointer + 0 ∧ (s.terminal 15).presence ≠ .present ∧
    (∀ k : Fin 16, k < 0 → (s.terminal (s.bus.pointer + k)).presence = .present) := by decide +kernel
/-- Terminal 0 alone PRESENT and the position at 3: the rotation ends and the next begins, or, as the tenth, a probe is due. -/
theorem witness_PollTurns_wrap : let s := { shop .idle with bus := { Bus.start false with position := 3, count := 8 } }
    let u := { shop .idle with bus := { Bus.start false with position := 3, count := 9, pointer := 4 } }
    s.bus.probeDue = false ∧ s.bus.position ≠ 15 ∧ (∀ t, s.bus.position < t → (s.terminal t).presence ≠ .present) ∧
    ((s.terminal 0).presence = .present ∧ ∀ t : Fin 16, t < 0 → (s.terminal t).presence ≠ .present) ∧ s.bus.count + 1 < 10 ∧
    10 ≤ u.bus.count + 1 ∧ (4 : Fin 16) = u.bus.pointer + 0 ∧ (u.terminal 4).presence ≠ .present ∧
    (∀ t, (up.terminal t).presence ≠ .present) := by decide +kernel
/-- Every terminal PRESENT with a probe due. -/
theorem witness_PollTurns_lapse : let s := { up with
      bus := { Bus.start false with probeDue := true, position := 14 },
      terminals := up.terminals.map fun (x : Terminal) => { x with presence := .present } }
    s.bus.probeDue = true ∧ (∀ u, (s.terminal u).presence = .present) ∧ (15 : Fin 16) = s.bus.position + 1 := by decide +kernel
theorem witness_TurnsAheadOfTheRotation : let s := { shop .idle with bus := { Bus.start true with winner := some 0 } }
    let u := { shop .idle with bus := Bus.start true }
    s.life = .running ∧ s.bus.turn = .between ∧ s.bus.winner = some 0 ∧ u.life = .running ∧ u.bus.turn = .between ∧
    u.bus.winner = none ∧ u.bus.broadcast = true := by decide +kernel
/-- Terminal 0 in an exchange, with as many misses. -/
def polled (misses : Nat) (st : SlotState) : State :=
  { shop st with
    bus := { Bus.start false with turn := .exchange 0 .rotation },
    terminals := (shop st).terminals.set 0 { Terminal.start .paired .blank .blank with presence := .present, misses := misses } }
theorem witness_MissesAreCounted : (polled 1 .idle).life = .running ∧ (polled 1 .idle).bus.turn = .exchange 0 .rotation ∧
    ((polled 1 .idle).terminal 0).presence = .present ∧ ((polled 1 .idle).terminal 0).misses < 2 ∧
    goodReply 0 [] = none := by decide +kernel
theorem witness_MissesAreCounted_absent : let s := { up with bus := { Bus.start false with turn := .exchange 3 .probe } }
    s.life = .running ∧ s.bus.turn = .exchange 3 .probe ∧ (s.terminal 3).presence ≠ .present := by decide +kernel
theorem witness_ThirdMissLosesTheTerminal : ((polled 2 .running).heatLaw ∧ (polled 2 .running).busyLaw) ∧
    (polled 2 .running).life = .running ∧ (polled 2 .running).bus.turn = .exchange 0 .rotation ∧
    ((polled 2 .running).terminal 0).presence = .present ∧ 2 ≤ ((polled 2 .running).terminal 0).misses ∧
    goodReply 0 [] = none ∧ (polled 2 .running).slotAt 0 .a = some 0 ∧ (polled 2 .running).slotAt 0 .b = some 1 ∧
    ((polled 2 .running).slot 0).state ≠ .unconfigured ∧ ((polled 2 .running).slot 0).causes.lost = false :=
  ⟨shop_laws .running, by decide +kernel⟩
theorem witness_ContentionWindowIsRead : let s := { shop .idle with bus := { Bus.start false with turn := .window } }
    s.life = .running ∧ s.bus.turn = .window ∧
    (0 : Fin 16).val = 8 * bit (majority 1) + 4 * bit (majority 0) + 2 * bit (majority 2) + bit (majority 4) ∧
    (15 : Fin 16).val = 8 * bit (majority 3) + 4 * bit (majority 5) + 2 * bit (majority 6) + bit (majority 7) := by
  decide +kernel
theorem witness_BriefDisplayEnds : let s := (shop .collect).showBrief 0 .collect
    let t := { s with elapsed := 106 }
    t.life = .running ∧ (t.half 0 .a).brief = some 106 ∧ 106 ≤ t.elapsed := by decide +kernel
def plainHalf : HalfReply := ⟨⟨false, .locked, .running, 0, false, .none⟩, false, true, true, 77⟩
def plainReply : TerminalReply := ⟨255, plainHalf, { plainHalf with tap := false, card := 0 }⟩
theorem witness_GoodReplyIsHeard : (polled 2 .running).life = .running ∧
    (polled 2 .running).bus.turn = .exchange 0 .rotation ∧ goodReply 0 (replyLine 0 plainReply) = some plainReply := by
  decide +kernel
/-- A report of a closed door, locked, its machine running; and of an open, unlocked one. -/
def shut : View := ⟨false, .locked, .running, 0, false, .wash⟩
def open_ : View := ⟨true, .unlocked, .running, 0, false, .wash⟩
/-- A door open while it is locked (R22). -/
def broken : View := { shut with doorOpen := true }
theorem witness_GoodReplyIsHeard_locking : ((shop .locking).heatLaw ∧ (shop .locking).busyLaw) ∧
    (shop .locking).slotCls 0 = some 0 ∧ (shop .locking).slotCls 1 = some 1 ∧ ((shop .locking).slot 0).state = .locking ∧
    (shop .locking).hold 0 = some shopHold ∧ (shop .locking).slotAt 0 .a = some 0 ∧ (shop .locking).slotAt 1 .a = none ∧
    (shut.lock = .locked ∧ shut.doorOpen = false ∧ ¬(shut.forced = true)) ∧ (open_.doorOpen = true ∧ open_.lock ≠ .locked) ∧
    (broken.doorOpen = true ∧ broken.lock = .locked) := ⟨shop_laws _, by decide +kernel⟩
/-- The washer of slot 0 in AWAIT_POWER with its heat request flag set. -/
def heating : State := (shop .awaitPower).modSlot 0 fun x => { x with heatReq := true }
theorem heating_laws : heating.heatLaw ∧ heating.busyLaw := by
  unfold State.heatLaw State.busyLaw State.oneRequest State.heatAt; decide +kernel
theorem witness_GoodReplyIsHeard_running : ((shop .running).heatLaw ∧ (shop .running).busyLaw) ∧
    (heating.heatLaw ∧ heating.busyLaw) ∧ (shop .running).slotCls 0 = some 0 ∧ ((shop .running).slot 0).state = .running ∧
    (shop .running).kind 0 = .washer ∧ (shop .running).kind 1 = .dryer ∧ ({ shut with status := .done } : View).status = .done ∧
    ((shop .running).slot 0).heatReq = false ∧ ({ shut with heat := true } : View).heat = true ∧
    (heating.slotCls 0 = some 0 ∧ (heating.slot 0).state = .awaitPower ∧ (heating.slot 0).heatReq = true ∧ shut.heat = false) :=
  ⟨shop_laws _, heating_laws, by decide +kernel⟩
theorem witness_GoodReplyIsHeard_ended : ((shop .finishing).heatLaw ∧ (shop .finishing).busyLaw) ∧
    ((shop .collect).heatLaw ∧ (shop .collect).busyLaw) ∧ (shop .finishing).slotCls 0 = some 0 ∧
    ((shop .finishing).slot 0).state = .finishing ∧ ((shop .collect).slot 0).state = .collect ∧
    (shop .collect).slotCls 0 = some 0 ∧ open_.lock = .unlocked ∧ open_.doorOpen = true ∧ shut.doorOpen = false :=
  ⟨shop_laws _, shop_laws _, by decide +kernel⟩
theorem witness_GoodReplyIsHeard_faults : ((shop .running).heatLaw ∧ (shop .running).busyLaw) ∧
    broken.forced = true ∧ shut.forced = false ∧ ((shop .running).slot 0).state.forcible = true ∧
    ((shop .running).slot 0).state.busy = true ∧ (shop .running).hold 0 = some shopHold ∧
    ((shop .finishing).slot 0).state.forcible = true ∧ ((shop .finishing).slot 0).state.busy = false ∧
    ({ shut with status := .error } : View).status = .error ∧ shut.status ≠ .error ∧
    ((shop .running).slot 0).state ≠ .recovering ∧ (shop .idle).hold 0 = none ∧ (shop .idle).slotCls 0 = some 0 :=
  ⟨shop_laws _, by decide +kernel⟩
theorem witness_GoodReplyIsHeard_recovering : ((shop .recovering).heatLaw ∧ (shop .recovering).busyLaw) ∧
    (shop .recovering).slotCls 0 = some 0 ∧ ((shop .recovering).slot 0).state = .recovering ∧
    (shop .recovering).hold 0 = some shopHold ∧ ((shop .recovering).slot 0).causes.isEmpty = true ∧ shut.status = .running ∧
    shut.forced = false ∧ broken.forced = true ∧ (shop .recovering).room.state ≠ .suspended ∧
    (shop .recovering).room.state ≠ .held ∧ (shop .recovering).room.timer ≠ .reached ∧
    (let s := { shop .recovering with room := ⟨.held, false, .reached⟩ }
     s.room.state = .held ∧ s.room.timer = .reached ∧ (s.slot 0).state = .recovering) ∧
    (((shop .recovering).setCause 0 .host true).slot 0).causes.isEmpty = false ∧
    ((shop .recovering).kind 1 = .dryer ∧ (shop .recovering).kind 0 = .washer) := ⟨shop_laws _, by decide +kernel⟩
/-- Terminal 0 LOST with both its slots OUT_OF_SERVICE by TERMINAL_LOST, slot 1 also by HOST; and terminal 5 ABSENT. -/
def lostShop : State :=
  { ((shop .outOfService).setCause 0 .lost true).setCause 1 .lost true with
    terminals := (shop .idle).terminals.set 0 { Terminal.start .paired .blank .blank with presence := .lost } }.setCause 1 .host true
theorem lost_laws : lostShop.heatLaw ∧ lostShop.busyLaw := by
  unfold State.heatLaw State.busyLaw State.oneRequest State.heatAt; decide +kernel
theorem witness_GoodReplyIsHeard_lost : (lostShop.heatLaw ∧ lostShop.busyLaw) ∧ (lostShop.terminal 0).presence = .lost ∧
    (lostShop.terminal 5).presence = .absent ∧ ((shop .idle).terminal 0).presence = .present ∧
    lostShop.slotAt 0 .a = some 0 ∧ lostShop.slotAt 0 .b = some 1 ∧ (lostShop.slot 0).state = .outOfService ∧
    ((lostShop.slot 0).causes.lost = true ∧ ({ (lostShop.slot 0).causes with lost := false } : Causes).isEmpty = true) ∧
    ({ (lostShop.slot 1).causes with lost := false } : Causes).isEmpty = false ∧ (lostShop.slot 2).cfg = none ∧
    lostShop.events.queue.length < 64 := ⟨lost_laws, by decide +kernel⟩
/-- A reply with a press and a tap, its tag new or taken last; and a half with a slot and one without. -/
theorem witness_GoodReplyIsHeard_tag : let s := shop .idle
    let u := s.modTerminal 0 fun x => { x with tag := 255, tagValid := true }
    (plainReply.a.start || plainReply.a.tap) = true ∧ ¬((s.terminal 0).tagValid = true ∧ (s.terminal 0).tag = plainReply.tag) ∧
    ((u.terminal 0).tagValid = true ∧ (u.terminal 0).tag = plainReply.tag) ∧ s.slotAt 0 .a = some 0 ∧ s.slotAt 1 .a = none := by
  decide +kernel
/-- A terminal back from LOST frees slot 0, and slot 1 stays OUT_OF_SERVICE by HOST (R30, R41). -/
theorem test_heard_again : ((lostShop.hearTerminal 0).slot 0).state = .idle ∧
    ((lostShop.hearTerminal 0).slot 1).state = .outOfService := by decide +kernel
theorem witness_ReplyRoundTrip : plainReply.ok = true := by decide
theorem witness_ReceiverTakesOneBadSample : 3 ≤ 3 ∧ 32 < 33 ∧ 2 < 3 := by decide
theorem witness_TimersEndCycles : ((shop .armed).heatLaw ∧ (shop .armed).busyLaw) ∧ (shop .armed).life = .running ∧
    (shop .armed).hold 0 = some shopHold ∧ ((shop .armed).slot 0).timer = some 5 ∧ 5 ≤ (shop .armed).elapsed ∧
    ((shop .armed).slot 0).state = .armed := ⟨shop_laws .armed, by decide +kernel⟩
theorem witness_TimersEndCycles_recovering : ((shop .recovering).heatLaw ∧ (shop .recovering).busyLaw) ∧
    (shop .recovering).life = .running ∧ (shop .recovering).hold 0 = some shopHold ∧
    ((shop .recovering).slot 0).timer = some 5 ∧ 5 ≤ (shop .recovering).elapsed ∧
    ((shop .recovering).slot 0).state = .recovering := ⟨shop_laws .recovering, by decide +kernel⟩
/-- The dryer of slot 1 in a phase, with its counters at 0. -/
def drying (ph : Phase) (topUp : Nat) : State :=
  (shop .running).modSlot 1 fun x => { x with phase := ph, topUp := topUp, heatReq := false }
theorem drying_laws : ((drying .cool 0).heatLaw ∧ (drying .cool 0).busyLaw) ∧ (drying .dry 0).heatLaw ∧ (drying .dry 0).busyLaw := by
  unfold State.heatLaw State.busyLaw State.oneRequest State.heatAt; decide +kernel
theorem witness_TimersEndCycles_cool : ((drying .cool 0).heatLaw ∧ (drying .cool 0).busyLaw) ∧
    (drying .cool 0).life = .running ∧ (drying .cool 0).hold 1 = some dryHold ∧ ((drying .cool 0).slot 1).state = .running ∧
    (drying .cool 0).kind 1 = .dryer ∧ ((drying .cool 0).slot 1).phase = .cool ∧ ((drying .cool 0).slot 1).cool = 0 :=
  ⟨drying_laws.1, by decide +kernel⟩
theorem witness_FaultTimersEndCycles : ((shop .locking).heatLaw ∧ (shop .locking).busyLaw) ∧
    (shop .locking).life = .running ∧ (shop .locking).hold 0 = some shopHold ∧ ((shop .locking).slot 0).state = .locking ∧
    ((shop .locking).slot 0).timer = some 5 ∧ 5 ≤ (shop .locking).elapsed := ⟨shop_laws .locking, by decide +kernel⟩
/-- The washer of slot 0 one second past twice its planned time. -/
def overdue : State := { shop .running with holds := up.holds.set 0 (some { shopHold with snap := { shopHold.snap with planned := 0 } }),
                                            slots := up.slots.set 0 { slotIn washerCfg .running with run := 1 } }
theorem witness_FaultTimersEndCycles_overrun : (overdue.heatLaw ∧ overdue.busyLaw) ∧ overdue.life = .running ∧
    (overdue.hold 0).isSome ∧ overdue.kind 0 = .washer ∧
    2 * (overdue.hold 0).elim 0 (fun h => h.snap.planned) < (overdue.slot 0).run ∧
    (overdue.faults.find (some 0) .overrun).isSome = false ∧ overdue.faults.table.length < 32 := by
  unfold State.heatLaw State.busyLaw State.oneRequest State.heatAt; decide +kernel
theorem witness_UnlockDeadlineLocksTheSlotOut : ((shop .finishing).heatLaw ∧ (shop .finishing).busyLaw) ∧
    (shop .finishing).life = .running ∧ ((shop .finishing).slot 0).state = .finishing ∧
    ((shop .faulted).slot 0).state = .faulted ∧ ((shop .finishing).slot 0).timer = some 5 ∧ 5 ≤ (shop .finishing).elapsed :=
  ⟨shop_laws .finishing, by decide +kernel⟩
theorem witness_CollectWindowFreesTheSlot : ((shop .collect).heatLaw ∧ (shop .collect).busyLaw) ∧
    (shop .collect).life = .running ∧ ((shop .collect).slot 0).state = .collect ∧
    ((shop .collect).slot 0).timer = some 5 ∧ 5 ≤ (shop .collect).elapsed := ⟨shop_laws .collect, by decide +kernel⟩
theorem witness_SecondIsCounted : (shop .running).life = .running ∧ ((shop .running).slot 0).state = .running ∧
    (shop .running).endDue 0 = false ∧ (shop .running).kind 0 = .washer := by decide +kernel
/-- A washer within its warning minutes and an entry of its class that was not told; and one that was warned before. -/
theorem witness_SecondIsCounted_warning : let s := (shop .running).modSlot 0 fun x => { x with run := 1700 }
    let t := s.setQueue 0 [⟨77, 3, .start, 60, true⟩, ⟨78, 4, .start, 60, false⟩]
    let u := s.modSlot 0 fun x => { x with warning := true }
    t.slotCls 0 = some 0 ∧ (t.slot 0).warning = false ∧ t.estimate 0 ≤ 60 * (t.cls 0).warning ∧
    (t.queue 0)[1]? = some ⟨78, 4, .start, 60, false⟩ ∧ (t.queue 0)[0]? = some ⟨77, 3, .start, 60, true⟩ ∧
    (∀ e ∈ s.queue 0, e.notified = true) ∧ (u.slot 0).warning = true ∧
    60 * ((shop .running).cls 0).warning < (shop .running).estimate 0 := by decide +kernel
/-- That washer's next second sets its flag and tells the entry; the event queue has room. -/
theorem test_soon : let s := ((shop .running).modSlot 0 fun x => { x with run := 1700 }).setQueue 0 [⟨78, 4, .start, 60, false⟩]
    s.events.queue.length ≤ 40 ∧ ((after .runSecond s).slot 0).warning = true ∧
    ((after .runSecond s).events.queue.map fun e => e.body).head? = some (.waitlistSoon 78 0 2) := by decide +kernel
theorem witness_PaidSecondsRunOut : ((drying .dry 0).heatLaw ∧ (drying .dry 0).busyLaw) ∧ (drying .dry 0).life = .running ∧
    ((drying .dry 0).slot 1).state = .running ∧ (drying .dry 0).kind 1 = .dryer ∧ ((drying .dry 0).slot 1).phase = .dry ∧
    ((drying .dry 0).slot 1).remaining = 0 ∧ ((drying .dry 0).slot 1).topUp = 0 ∧ (drying .dry 0).slotCls 1 = some 1 ∧
    0 < ((drying .dry 10).slot 1).topUp := ⟨drying_laws.2, by decide +kernel⟩
def waiting : WaitEntry := ⟨77, 3, .start, 0, false⟩
theorem witness_WaitlistPlacesExpire : let s := up.setQueue 0 [waiting]
    s.life = .running ∧ (s.queue 0)[0]? = some waiting ∧ waiting.lifetime = 0 := by decide +kernel
/-- Slot 0 RESERVED for card 77, its window run out, and the same card waiting in class 0 (a state of the statement, with the
dryer RESERVED without a reservation). -/
def reservedShop : State := (shop .reserved).modSlot 0 fun x => { x with reservation := some ⟨77, 3, .start, 0⟩ }
theorem reserved_laws : reservedShop.heatLaw ∧ reservedShop.busyLaw := by
  unfold State.heatLaw State.busyLaw State.oneRequest State.heatAt; decide +kernel
theorem witness_WaitlistPlacesExpire_reservation : (reservedShop.heatLaw ∧ reservedShop.busyLaw) ∧
    reservedShop.life = .running ∧ (reservedShop.slot 0).state = .reserved ∧
    (reservedShop.slot 0).reservation = some ⟨77, 3, .start, 0⟩ ∧ reservedShop.slotCls 0 = some 0 ∧ reservedShop.queue 0 = [] :=
  ⟨reserved_laws, by decide +kernel⟩
theorem witness_AcceptedTapPlacesTheHold : ((shop .idle).heatLaw ∧ (shop .idle).busyLaw) ∧
    (shop .idle).room.state = .openRoom ∧ ((shop .idle).slot 0).state = .idle ∧ (shop .idle).slotCls 0 = some 0 ∧
    (shop .idle).findCard 77 = some 3 ∧ ((shop .idle).account 3).state = .active ∧
    (shop .idle).settlement.records.length + (shop .idle).holdCount < 64 ∧
    (shop .idle).currentPrice 0 ≤ ((shop .idle).account 3).available ∧ ((shop .idle).account 3).cap = 0 ∧
    (shop .idle).gov.motor + ((shop .idle).govClass 0).motor + (shop .idle).gov.stray ≤ (shop .idle).settings.governor.budget :=
  ⟨shop_laws .idle, by decide +kernel⟩
theorem witness_AcceptedTapPlacesTheHold_reserved : (reservedShop.heatLaw ∧ reservedShop.busyLaw) ∧
    (reservedShop.slot 0).state = .reserved ∧ (reservedShop.slot 0).reservationCard = 77 ∧
    reservedShop.findCard 77 = some 3 ∧ reservedShop.currentPrice 0 = 300 := ⟨reserved_laws, by decide +kernel⟩
/-- The dryer of slot 1 in DRY, tapped by its hold's card. -/
theorem witness_AcceptedTapPlacesTheHold_topUp : let s := drying .dry 0
    let a := s.account 4
    s.room.state = .openRoom ∧ (s.slot 1).cfg = some dryerCfg ∧ s.kind 1 = .dryer ∧ s.hold 1 = some dryHold ∧
    ((s.slot 1).state = .running ∧ (s.slot 1).phase = .dry) ∧ s.findCard dryHold.card = some 4 ∧ 4 = dryHold.account ∧
    a.state = .active ∧ (dryHold.steps + 1) * dryHold.snap.step ≤ 60 ∧ dryHold.snap.stepPrice ≤ a.available ∧ a.cap = 0 ∧
    ((shop .armed).slot 1).state = .armed ∧ (s.half 0 .b).lasting.code ≠ .running := by decide +kernel
/-- Card 78 at the busy washer, no slot of its class free. -/
theorem witness_AcceptedTapPlacesTheHold_join : let s := shop .running
    s.room.state = .openRoom ∧ (s.slot 0).state.busy = true ∧ s.slotCls 0 = some 0 ∧ s.hold 0 = some shopHold ∧
    shopHold.card ≠ 78 ∧ (∀ m, s.slotCls m = some 0 → (s.slot m).state ≠ .idle ∧ (s.slot m).state ≠ .reserved) ∧
    s.findCard 78 = some 4 ∧ (s.account 4).state = .active ∧ (∀ e ∈ s.queue 0, e.card ≠ 78) ∧
    s.currentPrice 0 ≤ (s.account 4).available ∧ (s.queue 0).length < 8 := by decide +kernel
/-- The dryer in DRY with a hold and an account that fail one check each of a top-up. -/
theorem witness_RefusedTapOnlyShows_topUp : let s := drying .dry 0
    let h := { dryHold with steps := 6 }
    s.room.state = .openRoom ∧ s.slotCls 1 = some 1 ∧ (s.setHold 1 (some h)).hold 1 = some h ∧ (s.slot 1).state.busy = true ∧
    60 < (h.steps + 1) * h.snap.step ∧ s.findCard 79 = none ∧ s.findCard 77 = some 3 ∧ 3 ≠ dryHold.account ∧
    ((s.setAccount 4 ⟨78, .blocked, 1000, 200, 0, 0, 0⟩).account 4).state ≠ .active ∧
    ((s.setAccount 4 ⟨78, .active, 249, 200, 0, 0, 0⟩).account 4).available < dryHold.snap.stepPrice ∧
    (let b := (⟨78, .active, 1000, 200, 249, 9, 1⟩ : Account).rolled s.clock.day
     249 < b.spent + b.held + dryHold.snap.stepPrice) ∧
    ¬((drying .cool 0).slot 1).phase = .dry ∧ s.kind 0 = .washer := by decide +kernel
/-- Card 78 at the busy washer, with another washer RESERVED for it or IDLE, in the queue, or the queue full. -/
theorem witness_RefusedTapOnlyShows_busy : let s := (shop .running).modSlot 5 fun _ =>
      { slotIn ⟨0, 5, .a⟩ .reserved with reservation := some ⟨78, 4, .start, 0⟩ }
    let u := (shop .running).modSlot 5 fun _ => slotIn ⟨0, 5, .a⟩ .idle
    let e : WaitEntry := ⟨78, 4, .start, 0, false⟩
    (s.slotCls 5 = some 0 ∧ (s.slot 5).state = .reserved ∧ (s.slot 5).reservation = some ⟨78, 4, .start, 0⟩) ∧
    (u.slotCls 5 = some 0 ∧ (u.slot 5).state = .idle ∧ (u.slot 0).state.busy = true) ∧ shopHold.card ≠ 78 ∧
    (u.setQueue 0 [e]).queue 0 = [e] ∧ 8 ≤ ((u.setQueue 0 (List.replicate 8 waiting)).queue 0).length ∧
    (∀ x ∈ (u.setQueue 0 (List.replicate 8 waiting)).queue 0, x.card ≠ 78) := by decide +kernel
theorem witness_RefusedTapOnlyShows_room : ({ up with room := ⟨.closed, false, .idle⟩ } : State).room.state ≠ .openRoom ∧
    up.room.state = .openRoom := by decide
theorem witness_RefusedTapOnlyShows_state : (reservedShop.slot 0).state = .reserved ∧
    (reservedShop.slot 0).reservationCard ≠ 78 ∧ ((shop .finishing).slot 0).state = .finishing ∧
    ((shop .collect).slot 0).state = .collect ∧ ((shop .outOfService).slot 0).state = .outOfService ∧
    (shop .idle).findCard 79 = none := by decide +kernel
/-- Accounts that fail one check each: blocked; with 299 units; with a cap of 299. -/
def poor (a : Account) : State := { shop .idle with accounts := [(3, a)] }
theorem witness_RefusedTapOnlyShows_account : ((poor ⟨77, .blocked, 5000, 0, 0, 0, 0⟩).account 3).state ≠ .active ∧
    ((poor ⟨77, .active, 299, 0, 0, 0, 0⟩).account 3).available < (poor ⟨77, .active, 299, 0, 0, 0, 0⟩).currentPrice 0 ∧
    (let s := poor ⟨77, .active, 5000, 0, 299, 9, 1⟩
     let b := (s.account 3).rolled s.clock.day
     (s.account 3).cap ≠ 0 ∧ (s.account 3).cap < b.spent + b.held + s.currentPrice 0) := by decide +kernel
theorem witness_RefusedTapOnlyShows_room64 : let r := (shop .running).settlementRecord 0 shopHold .completed none
    let s := { shop .idle with settlement := ⟨List.replicate 64 r, 0, 64⟩ }
    64 ≤ s.settlement.records.length + s.holdCount ∧ (s.account 3).state = .active := by decide +kernel
theorem witness_RefusedTapOnlyShows_power : let s := { shop .idle with gov := { Governor.start 0 with stray := 19700 } }
    (s.account 3).cap = 0 ∧ s.settings.governor.budget < s.gov.motor + (s.govClass 0).motor + s.gov.stray := by decide +kernel
theorem witness_StopPressEndsTheCycle : ((shop .suspended).heatLaw ∧ (shop .suspended).busyLaw) ∧
    (shop .suspended).hold 0 = some shopHold ∧ ((shop .suspended).slot 0).state = .suspended ∧
    ((shop .locking).slot 0).state = .locking ∧ ((shop .armed).slot 0).state = .armed ∧
    ((shop .recovering).slot 0).state = .recovering := ⟨shop_laws .suspended, by decide +kernel⟩
theorem witness_StartPressIsTested : ((shop .armed).heatLaw ∧ (shop .armed).busyLaw) ∧ (shop .armed).slotCls 0 = some 0 ∧
    ((shop .armed).slot 0).state = .armed ∧ (shop .armed).room.state = .openRoom ∧
    ((shop .armed).slot 0).view.doorOpen = false ∧
    (shop .armed).gov.motor + ((shop .armed).govClass 0).motor + (shop .armed).gov.stray ≤
      (shop .armed).settings.governor.budget := ⟨shop_laws .armed, by decide +kernel⟩
theorem witness_StartPressIsTested_power : let s := { shop .armed with gov := { Governor.start 0 with motor := 19601 } }
    (s.slot 0).state = .armed ∧ s.settings.governor.budget < s.gov.motor + (s.govClass 0).motor + s.gov.stray := by
  decide +kernel
theorem witness_ScanStarts : (shop .idle).life = .running ∧ (shop .idle).scanner.active = false ∧
    (shop .idle).scanner.converter = none ∧ (shop .idle).scanner.waiting = [] ∧
    ({ Scanner.start with active := true } : Scanner).active = true := by decide +kernel
/-- A converter at work. -/
def converting (x : Conversion) : State := { shop .idle with scanner := { Scanner.start with active := true, converter := some x } }
theorem witness_ResultIsScaled : (converting (.scan 23)).life = .running ∧
    (converting (.scan 23)).scanner.converter = some (.scan (23 : Fin 24).val) ∧
    (converting (.scan 24)).scanner.converter = some (.scan 24) := by decide +kernel
theorem witness_ReferenceJudgesTheScan : (converting (.scan 26)).life = .running ∧
    (converting (.scan 26)).scanner.converter = some (.scan 26) ∧ (1950 ≤ 1950 ∧ 1950 ≤ 2150) ∧ 2150 < 2151 ∧
    (converting (.scan 26)).scanner.refFault = false ∧ (converting (.scan 26)).faults.table.length < 32 ∧
    (converting (.scan 26)).faults.find none .senseReference = none := by decide +kernel
/-- A valid scan with a result of slot 0; one over the budget with no request, and with a grant whose room has not shrunk. -/
theorem witness_ReferenceJudgesTheScan_valid : let s := converting (.scan 26)
    let r := ({ s.markScan with scanner := { s.scanner with results := [⟨0, 10, 230⟩], feed := 1210 } } : State)
    let u := ({ s with scanner := { s.scanner with feed := 20001 }, gov := { s.gov with feedOver := 9 } } : State)
    let v := ({ u with gov := { u.gov with grants := [⟨0, 0, 0, 0, false⟩], heat := -20100 } } : State)
    (r.scanner.results.filter fun x => (r.slot x.slot).cfg.isSome && (r.slot x.slot).sense.scanned.isSome) = [⟨0, 10, 230⟩] ∧
    r.scanner.feed ≤ r.settings.governor.budget ∧ u.settings.governor.budget < u.scanner.feed ∧
    (u.gov.grants = [] ∧ u.gov.waits = [] ∧ 10 ≤ u.gov.feedOver + 1 ∧ u.gov.feedRaised = false ∧
      u.faults.find none .feedOver = none ∧ u.faults.table.length < 32) ∧
    (v.gov.grants ≠ [] ∧ v.gov.heat ≤ (v.settings.governor.budget : Int) - v.motorSum - (20001 - 0 + 99) / 100 * 100) ∧
    s.scanner.results = [] := by decide +kernel
theorem witness_OnDemandResultIsAnswered : (converting (.onDemand .service 25)).life = .running ∧
    (converting (.onDemand .service 24)).scanner.converter = some (.onDemand .service 24) ∧
    (converting (.onDemand .service 25)).scanner.converter = some (.onDemand .service 25) := by decide +kernel
/-- An input calibrated 1 to 1 on an IDLE slot: 201 watts are idle draw (R132). -/
def calibrated : State :=
  { shop .idle with settings := { shopSettings with sense := { SenseCfg.default with inputs := Vector.replicate 25 ⟨0, 1024⟩ } } }
theorem witness_StrikesRaiseOncePerOnset : (calibrated.markScan.slot 0).sense.scanned = some 0 ∧
    calibrated.strikeCondition 0 .idleDraw 201 = true ∧
    calibrated.strikeCondition 0 .idleDraw 200 = false ∧
    ((calibrated.slot 0).sense.strike .idleDraw).count + 1 < SenseTest.idleDraw.strikes := by decide +kernel
/-- A closed schedule: the room is called closed from its first minute on. -/
def closing (st : SlotState) : State :=
  { shop st with settings := { shopSettings with room := { RoomCfg.default with mode := .forceClosed } } }
theorem closing_laws (st : SlotState) : (closing st).heatLaw ∧ (closing st).busyLaw := shop_laws st
theorem witness_TheRoomFollowsItsClock : ((closing .idle).heatLaw ∧ (closing .idle).busyLaw) ∧
    (closing .idle).life = .running ∧ (closing .idle).life ≠ .waiting ∧ (closing .idle).room.state ≠ .suspended ∧
    (closing .idle).room.state ≠ .held ∧ (closing .idle).modeState = .closed ∧ (closing .armed).modeState = .closing ∧
    (closing .idle).modeState ≠ (closing .idle).room.state ∧ (shop .idle).modeState = (shop .idle).room.state :=
  ⟨closing_laws _, by decide +kernel⟩
theorem witness_InterlockSuspendsTheRoom : ((shop .running).heatLaw ∧ (shop .running).busyLaw) ∧
    (shop .running).life = .running ∧ (shop .running).room.interlock = false ∧ (shop .running).room.state ≠ .suspended ∧
    ((shop .running).slot 0).state = .running ∧ ((shop .locking).slot 0).state = .locking :=
  ⟨shop_laws .running, by decide +kernel⟩
/-- A room in a state with the interlock and the suspension timer given. -/
def inRoom (st : SlotState) (r : Room) : State := { shop st with room := r }
theorem inRoom_laws (st : SlotState) (r : Room) : (inRoom st r).heatLaw ∧ (inRoom st r).busyLaw := shop_laws st
theorem witness_SuspensionsEnd : (inRoom .suspended ⟨.suspended, true, .running 100⟩).life = .running ∧
    (inRoom .suspended ⟨.suspended, true, .running 100⟩).room.interlock = true ∧
    ((inRoom .suspended ⟨.suspended, true, .running 100⟩).heatLaw ∧ (inRoom .suspended ⟨.suspended, true, .running 100⟩).busyLaw) ∧
    (inRoom .suspended ⟨.suspended, true, .running 100⟩).room.timer = .running 100 ∧
    100 ≤ (inRoom .suspended ⟨.suspended, true, .running 100⟩).elapsed ∧
    ((inRoom .suspended ⟨.suspended, true, .running 100⟩).slot 0).state = .suspended :=
  ⟨rfl, rfl, inRoom_laws _ _, by decide +kernel⟩
theorem witness_StoreTakesTheOldestChange : let s := { up with
      writes := [[StoreWrite.account 3 .free]], turn := some .building,
      building := ⟨.storing ⟨0x23, .ok, .empty⟩ 1, ⟨1, 0, 0, 0⟩, none⟩ }
    s.life = .running ∧ s.writes = [StoreWrite.account 3 .free] :: [] ∧
    (s.port .building).activity = .storing ⟨0x23, .ok, .empty⟩ 1 ∧ s.turn = some .building := by decide +kernel
theorem witness_ReplyEndFreesThePort : let s := { up with building := ⟨.sending ⟨0x60, .ok, .empty⟩, ⟨1, 0, 0, 0⟩, none⟩,
                                                          restart := ⟨.taken, .none⟩ }
    s.life = .running ∧ (s.port .building).activity = .sending ⟨0x60, .ok, .empty⟩ ∧ s.restart.of .building = .taken ∧ s.restart.of (otherPort .building) ≠ .ended ∧
    ((s.port (otherPort .building)).activity = .idle) ∧
    ({ s with restart := ⟨.none, .ended⟩ } : State).restart.of (otherPort .building) = .ended ∧
    ({ s with building := ⟨.built ⟨0x60, .ok, .empty⟩, ⟨1, 0, 0, 0⟩, none⟩ } : State).building.activity = .built ⟨0x60, .ok, .empty⟩ ∧
    ({ s with service := ⟨.storing ⟨0x23, .ok, .empty⟩ 1, ⟨1, 0, 0, 0⟩, none⟩ } : State).service.activity =
      .storing ⟨0x23, .ok, .empty⟩ 1 := by decide +kernel
theorem witness_readyFor : up.readyFor .building ∧ up.readyFor .service := by unfold State.readyFor; decide
theorem witness_BadFramesAreCounted : (up.hears .building = true ∧ up.building.frame = none) ∧
    frameClass up.unit .building 0 = .request ∧ frameClass up.unit .building 1 = .notForUnit ∧
    frameClass up.unit .building 0x1F = .broadcast ∧ frameClass up.unit .service 8 = .inError ∧
    ([1] : List Byte).length < 200 ∧ (requestFrame 0 0x04 [1]).map (cleanChar 0) ≠ [] ∧
    assemble none (lineOf 0 [1, 1, 0, 0]) = ([.complete 0 [1, 1, 0, 0]], none) ∧ checkAgrees [1, 1, 0, 0] = false ∧
    assemble none (lineOf 0 [2]) = ([], some (0, [2])) ∧
    assemble none (lineOf 0 [2] ++ lineOf 0x1F []) = ([.broken 0], some (0x1F, [])) := by decide +kernel
/-- A frame held open: it goes on, ends badly, is broken off and ends well. -/
theorem witness_BadFramesAreCounted_held : (heldFrame .building).listens .building = true ∧
    (heldFrame .building).building.frame = some (0, asked.take 3) ∧ (heldFrame .building).building.activity = .idle ∧
    frameClass (heldFrame .building).unit .building 0 = .request ∧
    assemble (some (0, asked.take 3)) ((lineOf 9 (asked.drop 3)).drop 1) =
      ([.complete 0 (sealed (BitVec.ofNat 8 (([3] : List Byte).length + 1) :: 0x02 :: [3]))], none) ∧
    assemble (some (0, asked.take 3)) ((lineOf 9 [7]).drop 1) = ([], some (0, asked.take 3 ++ [7])) ∧
    assemble (some (0, asked.take 3)) ((lineOf 9 [7, 7]).drop 1) = ([.complete 0 (asked.take 3 ++ [7, 7])], none) ∧
    checkAgrees (asked.take 3 ++ [7, 7]) = false ∧
    assemble (some (0, asked.take 3)) (lineOf 0x1F []) = ([.broken 0], some (0x1F, [])) ∧
    frameOf (.slotStatus .building [3]) = some (.building, .request) ∧
    frameOf (.broadcastDropped .building 0x05 []) = some (.building, .broadcast) := by decide +kernel
/-- A RESTART was taken on the other port: a frame held open, or none. -/
theorem witness_BadFramesAreCounted_restart :
    let s : State := { heldFrame .building with restart := ⟨.none, .taken⟩ }
    s.restart.of (otherPort .building) ≠ .none ∧ s.restart.of .building = .none ∧ s.listens .building = true ∧
    s.building.frame = some (0, asked.take 3) ∧ s.building.activity = .idle ∧ frameClass s.unit .building 0 = .request ∧
    (s.setFrame .building none).building.frame = none := by decide +kernel
theorem witness_FramesAtABusyPort : let s := { up with service := ⟨.deferred 1000, ⟨0, 0, 0, 0⟩, none⟩ }
    s.hears .service = true ∧ (s.port .service).activity ≠ .idle ∧ (s.port .service).frame = none ∧
    frameClass s.unit .service 7 = .request ∧ requestOf (.restart .service []) = some (.service, 0x60) := by decide +kernel
theorem witness_FramesAtABusyPort_built : let s := { up with service := ⟨.built ⟨0x60, .ok, .empty⟩, ⟨0, 0, 0, 0⟩, none⟩ }
    s.life = .running ∧ s.restart.of (otherPort .service) = .none ∧ (s.port .service).activity = .built ⟨0x60, .ok, .empty⟩ ∧
    s.hears .service = true ∧ (s.port .service).activity ≠ .idle ∧ (s.port .service).frame = none ∧
    frameClass s.unit .service 7 = .request := by decide +kernel
theorem witness_FramesAtABusyPort_sending : let s := { up with service := ⟨.sending ⟨0x60, .ok, .empty⟩, ⟨0, 0, 0, 0⟩, none⟩ }
    (s.port .service).activity = .sending ⟨0x60, .ok, .empty⟩ ∧ requestOf (.restart .service []) = some (.service, 0x60) := by
  decide
theorem witness_BroadcastsAct : up.readyFor .building ∧
    ([0xFF, 0xFF, 1, 0x51, 0x7F] : List Byte) = beBytes 2 65535 ++ beBytes 3 86399 ∧ 65535 < 65536 ∧ 86399 < 86400 ∧
    ([0, 3, 0xE8] : List Byte) = beBytes 3 1000 ∧ ([3, 0x0D, 0x40] : List Byte) = beBytes 3 200000 ∧
    up.turn ≠ some (otherPort .building) ∧ ({ up with turn := some .service } : State).turn = some (otherPort .building) :=
  ⟨witness_readyFor.1, by decide +kernel⟩
theorem witness_BroadcastsAct_deferred : let u := { up with building := ⟨.deferred 1000, ⟨0, 0, 0, 0⟩, none⟩ }
    u.life = .running ∧ (u.port .building).activity = .deferred 1000 ∧ u.turn = none := by decide +kernel
theorem witness_RequestsAreTested : up.readyFor .service ∧ catalogueKinds.contains (0x05 : Byte).toNat = false ∧
    requestFields (.eventsRead .service []) = some (.service, 0x08, []) ∧
    requestFields (.classSet .service [1]) = some (.service, 0x10, [1]) ∧ lengthTest 0x10 [1] = some .badLength ∧
    lengthTest 0x11 [2] = some .badValue ∧ lengthTest 0x15 [1, 0, 100] = none ∧ kindWrites 0x15 = true ∧
    requestFields (.senseSetGeneral .service [1, 0, 100]) = some (.service, 0x15, [1, 0, 100]) ∧
    ({ up with turn := some .building } : State).turn = some (otherPort .service) := ⟨witness_readyFor.2, by decide⟩
theorem witness_EveryRequestIsAnswered : up.readyFor .building ∧ catalogueKinds.contains (0xFF : Byte).toNat = false ∧ requestOf (.roomStatus .building []) = some (.building, 1) :=
  ⟨witness_readyFor.1, by decide, rfl⟩
theorem witness_RefusalChangesNothing : up.readyFor .building ∧
    requestOf (.accountRemove .building [2, 0]) = some (.building, 0x23) ∧
    ((after (.accountRemove .building [2, 0]) up).port .building).activity = .built ⟨0x23, .badValue, .empty⟩ ∧
    Status.badValue ≠ .ok := ⟨witness_readyFor.1, by decide +kernel⟩
theorem witness_ReadsAreAnswered : up.readyFor .service ∧ (1 ≤ 4 ∧ 4 ≤ 4) ∧ (31 ≤ 31 ∧ 8 ≤ 8) ∧ (65535 < 65536 ∧ 6 ≤ 6) ∧
    (shop .running).hold 0 = some shopHold ∧ (shop .running).roomReport.states[SlotState.running.code]? = some 2 :=
  ⟨witness_readyFor.2, by decide +kernel⟩
theorem witness_CountsAndEventsAreTaken : up.readyFor .building ∧ up.readyFor .service ∧ (1 ≤ 1 ∧ 1 ≤ 8 ∧ 8 ≤ 8) ∧
    (0 < 256 ∧ 8 < 9 ∧ 255 < 256) := ⟨witness_readyFor.1, witness_readyFor.2, by decide⟩
theorem witness_AccountIsRead : up.readyFor .building ∧ 511 < 512 ∧ up.turn ≠ some (otherPort .building) ∧
    (up.account 511).state = .free ∧ (let s := poor ⟨77, .active, 5000, 0, 299, 9, 1⟩
     (s.account 3).state ≠ .free ∧ (s.account 3).spendDay ≠ s.clock.day) := ⟨witness_readyFor.1, by decide +kernel⟩
theorem witness_SenseReadConverts : up.readyFor .service ∧ 26 ≤ 26 ∧ up.scanner.converter = none ∧ up.scanner.waiting = [] ∧
    (converting (.scan 3)).scanner.converter = some (.scan 3) ∧ (27 ≤ 27 ∧ 31 ≤ 31) := ⟨witness_readyFor.2, by decide +kernel⟩
theorem witness_ClassesAndPricesAreSet : (shop .idle).readyFor .building ∧ (shop .idle).turn ≠ some (otherPort .building) ∧
    (1 ≤ 15 ∧ 15 ≤ 15 ∧ 60 ≤ 600) ∧ (∀ n : Fin 24, (shop .idle).slotCls n = some 0 → ((shop .idle).slot n).state.busy = false) ∧
    (shop .idle).slotCls 0 = some 0 ∧ ((shop .idle).cls 0).kind ≠ .dryer ∧
    PriceEntry.ok ⟨9999, 10800, 30, 9999⟩ = true ∧ (100 = 100 ∧ 600 ≤ 600 ∧ 1439 ≤ 1439) :=
  ⟨shop_ready _ _, by decide +kernel⟩
theorem witness_SensingIsSet : (shop .idle).readyFor .building ∧ (shop .idle).turn ≠ some (otherPort .building) ∧ 24 < 25 ∧
    (∀ n : Fin 24, ((shop .idle).slot n).state.busy = false) ∧ (4095 ≤ 4095 ∧ 65535 < 65536) ∧ (100 ≤ 260 ∧ 260 ≤ 260) :=
  ⟨shop_ready _ _, by decide +kernel⟩
theorem witness_TheGovernorIsSet : (shop .idle).readyFor .service ∧ (shop .idle).turn ≠ some (otherPort .service) ∧
    (1000 ≤ 200000 ∧ 200000 ≤ 200000 ∧ 2000 ≤ 2000) ∧ GovClass.ok ⟨3000, 12000, 3⟩ = true ∧
    (∀ n : Fin 24, (shop .idle).slotCls n = some 0 →
      ((shop .idle).slot n).state.busy = false ∧ ((shop .idle).slot n).motorActive = false) ∧
    (shop .idle).slotCls 0 = some 0 ∧ 3000 ≠ ((shop .idle).govClass 0).motor := ⟨shop_ready _ _, by decide +kernel⟩
theorem witness_SlotsAndTerminalsAreSet : (shop .idle).readyFor .building ∧ ((shop .idle).heatLaw ∧ (shop .idle).busyLaw) ∧
    (shop .idle).turn ≠ some (otherPort .building) ∧ ((shop .idle).slot 0).state.settable = true ∧
    ((shop .idle).slot 0).cfg = some washerCfg ∧ (shop .idle).slotAt 0 .a = some 0 ∧
    ((shop .idle).cls washerCfg.cls).kind ≠ ((shop .idle).cls 1).kind ∧ ((shop .idle).slot 23).state.settable = true ∧ (shop .idle).slotAt 5 .a = none ∧
    ((shop .idle).slot 23).cfg = none ∧ ((shop .idle).terminal 5).presence ≠ .lost ∧
    ((shop .idle).slot 23).causes.lost = false ∧ ((shop .idle).terminal 0).mode = .paired ∧
    ((shop .idle).terminal 5).mode ≠ .paired ∧ (shop .idle).slotAt 5 .b = none := ⟨shop_ready _ _, shop_laws _, by decide +kernel⟩
theorem witness_TheRoomIsSet : (shop .idle).readyFor .building ∧ (shop .idle).turn ≠ some (otherPort .building) ∧
    (1439 ≤ 1439 ∧ 5 ≤ 120 ∧ 120 ≤ 120 ∧ 1 ≤ 60 ∧ 60 ≤ 60 ∧ 10 ≤ 480 ∧ 480 ≤ 480 ∧ 1 ≤ 30 ∧ 30 ≤ 30) ∧
    (shop .idle).settings.room.mode = .schedule ∧ (shop .idle).settings.room.mode ≠ .forceOpen ∧ (3 ≤ 3 ∧ 255 < 256) ∧
    (shop .idle).clock.isSet = false ∧ (let s := { shop .idle with clock := ⟨59, 0, true⟩ }
      s.clock.isSet = true ∧ s.clock.second / 60 = 0 / 60 ∧ s.clock.second / 60 ≠ 60 / 60) :=
  ⟨shop_ready _ _, by decide +kernel⟩
theorem witness_ResumeSetsTheRoomGoing : (inRoom .suspended ⟨.held, false, .idle⟩).readyFor .building ∧
    ((inRoom .suspended ⟨.held, false, .idle⟩).heatLaw ∧ (inRoom .suspended ⟨.held, false, .idle⟩).busyLaw) ∧
    (inRoom .suspended ⟨.held, false, .idle⟩).room.state = .held ∧
    (inRoom .suspended ⟨.held, false, .idle⟩).turn ≠ some (otherPort .building) ∧
    ((inRoom .suspended ⟨.held, false, .idle⟩).slot 0).state = .suspended ∧
    ((inRoom .suspended ⟨.held, false, .idle⟩).slot 0).resume ≠ some .locking ∧
    ((((inRoom .suspended ⟨.held, false, .idle⟩).modSlot 1 fun x => { x with resume := some .locking }).slot 1).resume =
      some .locking) := by
  refine ⟨?_, inRoom_laws _ _, by decide +kernel⟩
  unfold State.readyFor; decide +kernel
theorem witness_AccountsAreWritten : (shop .idle).readyFor .building ∧ (shop .idle).turn ≠ some (otherPort .building) ∧
    511 < 512 ∧ (0 < 2 ^ 32 - 1 ∧ 2 ^ 32 - 1 < 2 ^ 32) ∧ ((shop .idle).account 3).held ≤ 999999 ∧
    (∀ j, (shop .idle).findCard 77 = some j → j = 3) ∧ ((shop .idle).account 3).state = .active ∧
    ((shop .idle).account 3).card ≠ 0 ∧ 999999 < ((shop .idle).account 3).balance + 994_999 + 1 ∧
    ((shop .idle).account 3).balance + 994_999 ≤ 999999 ∧ ((shop .idle).account 3).held = 0 ∧
    0 < ((shop .armed).account 3).held := by
  refine ⟨shop_ready _ _, by decide +kernel, by decide, by decide, by decide +kernel, fun j h => ?_, by decide +kernel⟩
  have e : (shop .idle).findCard 77 = some 3 := by decide +kernel
  rw [e] at h; exact (Option.some.inj h).symm
theorem witness_AccountsAreWritten_credit : up.readyFor .service ∧ up.turn ≠ some (otherPort .service) ∧ (0 = 0 ∧ 999999 < 1000000) ∧
    (1 ≤ 1 ∧ 999999 ≤ 999999) ∧ (up.account 0).state = .free ∧ ((poor .suspect).account 3).state = .suspect ∧
    ((poor ⟨77, .blocked, 5000, 0, 0, 0, 0⟩).account 3).state = .blocked := ⟨witness_readyFor.2, by decide +kernel⟩
theorem witness_RecordsAndPlacesAreReleased : let r := (shop .running).settlementRecord 0 shopHold .completed none
    let s := { shop .idle with settlement := ⟨[{ r with number := 7 }, { r with number := 8 }], 63, 9⟩ }
    s.readyFor .building ∧ s.turn ≠ some .service ∧ 8 < 2 ^ 32 ∧ s.settlement.records[1]? = some { r with number := 8 } ∧
    (∀ x ∈ s.settlement.records, x.number ≠ 9) := by
  refine ⟨?_, by decide +kernel⟩
  unfold State.readyFor; decide +kernel
theorem witness_RecordsAndPlacesAreReleased_card : reservedShop.readyFor .service ∧ (0 < 77 ∧ 77 < 2 ^ 32) ∧
    (reservedShop.heatLaw ∧ reservedShop.busyLaw) ∧ (∀ e ∈ reservedShop.queue 0, e.card ≠ 77) ∧
    reservedShop.reservedFor 0 77 = some 0 ∧ reservedShop.reservedFor 0 78 = none ∧
    (up.setQueue 0 [waiting]).queue 0 = [waiting] := by
  refine ⟨?_, by decide, reserved_laws, by decide +kernel⟩
  unfold State.readyFor; decide +kernel
theorem witness_SlotsAreTakenAndStopped : ((shop .running).readyFor .building) ∧
    ((shop .running).heatLaw ∧ (shop .running).busyLaw) ∧ (shop .running).turn ≠ some (otherPort .building) ∧
    ((shop .running).slot 0).state ≠ .unconfigured ∧ ((shop .running).slot 0).state.busy = true ∧
    ((shop .idle).slot 0).state.busy = false ∧ ((shop .running).slot 0).causes.has (portCause .building) = false ∧
    (shop .running).hold 0 = some shopHold ∧ ((shop .armed).slot 0).state = .armed ∧ (shop .armed).hold 0 = some shopHold :=
  ⟨shop_ready _ _, shop_laws _, by decide +kernel⟩
/-- SLOT_STOP of the ARMED washer: it is FAULTED and its draw of 400 watts stands in the motor allowance (R104). -/
theorem test_stop_armed : ((after (.slotStop .building [0]) (shop .armed)).slot 0).state = .faulted ∧
    (after (.slotStop .building [0]) (shop .armed)).gov.motor = 400 ∧
    (after (.slotStop .building [0]) (shop .armed)).gov.heat = 19600 := by decide +kernel
/-- An open entry of slot 0, its condition and severity given, and FAULT_LOCKOUT in its cause set. -/
def troubled (c : Condition) (v : Severity) : State :=
  { (shop .outOfService).setCause 0 .lockout true with
    faults := ⟨[⟨some 0, .lockFail, none, .start, .start, 1, c, v⟩], [], 0⟩ }
theorem witness_FaultsAreCleared : ((troubled .latched .lockout).readyFor .building) ∧
    (troubled .latched .lockout).turn ≠ some (otherPort .building) ∧
    (troubled .active .lockout).faults.find (some 0) .lockFail = some ⟨some 0, .lockFail, none, .start, .start, 1, .active, .lockout⟩ ∧
    (troubled .latched .stop).faults.find (some 0) .lockFail = some ⟨some 0, .lockFail, none, .start, .start, 1, .latched, .stop⟩ ∧
    (troubled .latched .stop).faults.find (some 0) .overrun = none ∧
    ((troubled .latched .stop).slot 0).causes.lockout = true ∧
    (∀ x ∈ (troubled .latched .stop).faults.table, x.source = some (0 : Fin 24) → x.severity ≠ .lockout) := by
  refine ⟨?_, by decide +kernel⟩
  unfold State.readyFor; decide +kernel
theorem witness_ChargesFollowTheReason : let x := (shop .running).settlementRecord 0 shopHold .fault none
    x.run < shopHold.snap.grace ∧
    (let y := ((shop .running).modSlot 0 fun z => { z with run := 120 }).settlementRecord 0 shopHold .fault none
     shopHold.snap.grace ≤ y.run) := by decide +kernel
theorem witness_TheGovernorKeepsItsLists : up.capped ∧
    ([⟨0, 0, 5, 0, false⟩, ⟨1, 0, 5, 0, true⟩] : List HeatRequest).Pairwise (fun x y =>
      (0 : Nat) < 0 ∨ (0 : Nat) = 0 ∧ x.stamp ≤ y.stamp) ∧ (-1 : Int) < 0 ∧
    (1 : Fin 24) ∉ ([0] : List (Fin 24)) ∧ ((3999 : Int) < 4000) := by
  refine ⟨Or.inr rfl, by decide⟩
/-- An aged request of 4,000 watts behind one of 1,000 that is granted, with 4,500 watts of room. -/
theorem witness_TheGovernorKeepsItsLists_aged : let heat : Fin 4 → Nat := fun c => if c = 0 then 1000 else 4000
    let front : List HeatRequest := [⟨0, 0, 5, 0, false⟩]
    let r : HeatRequest := ⟨1, 1, 6, 0, true⟩
    r.slot ∉ ([] : List (Fin 24)) ∧ r.aged = true ∧
    (4500 : Int) - ((newGrants (walk heat [] 4500 front)).map fun x => (heat x.cls : Int)).sum < heat r.cls := by decide
/-- The laws hold together in a shop with cycles under way. -/
theorem witness_StepsKeep : (∃ t, step { shop .running with pending := [.runSecond] } = .next t) ∧
    (shop .running).outputsAgree ∧ (shop .running).events.ok ∧ (shop .running).clock.ok ∧ (shop .running).faults.ok ∧
    stocked.inOrder := by
  refine ⟨⟨_, rfl⟩, ?_⟩
  unfold State.outputsAgree Slot.agrees EventQueue.ok Clock.ok Faults.ok Store.inOrder; decide +kernel
theorem witness_StepsKeepHeatAndHolds : (shop .running).heatLaw ∧ (shop .running).busyLaw := shop_laws .running
theorem shop_purse : (shop .running).purse := by
  have ha : ∀ i, (shop .running).account i = if i = 3 then ⟨77, .active, 5000, 300, 0, 0, 0⟩
      else if i = 4 then ⟨78, .active, 1000, 200, 0, 0, 0⟩ else .free := fun i => by
    simp only [State.account, Accounts.read, shop, Accounts.find, SlotState.busy]
    by_cases h3 : i = 3
    · simp [h3]
    · by_cases h4 : i = 4
      · simp [h4]
      · simp [h3, h4, Ne.symm h3, Ne.symm h4]
  refine ⟨by decide +kernel, fun i => ?_, fun i h => ?_, fun i h => ?_, fun i j h k c e => ?_, by decide +kernel⟩
  · rw [ha]
    by_cases h3 : i = 3
    · subst h3; decide +kernel
    · by_cases h4 : i = 4
      · subst h4; decide +kernel
      · have hs : ∀ n : Fin 24, ((shop .running).hold n).elim 0 (fun h => if h.account = i then h.amount else 0) = 0 := fun n => by
          have : ∀ n : Fin 24, (shop .running).hold n = some shopHold ∨ (shop .running).hold n = some dryHold ∨
              (shop .running).hold n = none := by decide +kernel
          rcases this n with h | h | h <;> simp [h, shopHold, dryHold, Ne.symm h3, Ne.symm h4]
        simp [h3, h4, hs, Account.free]
  · revert h; rw [ha]; split
    · simp
    · split <;> simp
  · revert h; rw [ha]; split
    · simp
    · split <;> simp [Account.free]
  · rw [ha] at h c e; rw [ha] at k e
    by_cases i3 : i = 3 <;> by_cases j3 : j = 3 <;> by_cases i4 : i = 4 <;> by_cases j4 : j = 4 <;>
      simp_all [Account.free]
theorem witness_CommandsKeepThePurse : (shop .running).heatLaw ∧ (shop .running).busyLaw ∧ (shop .running).purse ∧
    (∀ i, Instr.coolDownEnd 1 ≠ .startUp i) ∧ (∀ i, Instr.coolDownEnd 1 ≠ .strapReread i) :=
  ⟨(shop_laws _).1, (shop_laws _).2, shop_purse, by simp, by simp⟩
/-- The shop with its records in the store. -/
def kept : State :=
  { shop .running with store := { (shop .running).store with
    accounts := (shop .running).accounts, holds := (shop .running).holds,
    classes := shopSettings.classes.map some, prices := some shopSettings.prices,
    slots := ((Vector.replicate 24 none).set 0 (some (some washerCfg))).set 1 (some (some dryerCfg)),
    terminals := (Vector.replicate 16 none).set 0 (some .paired) } }
theorem witness_CommandsKeepTheStoreInStep : (kept.heatLaw ∧ kept.busyLaw) ∧ kept.purse ∧ kept.mirrored ∧ kept.life ≠ .waiting ∧
    (∀ i, Instr.coolDownEnd 1 ≠ .startUp i) ∧ (∀ i, Instr.coolDownEnd 1 ≠ .strapReread i) := by
  refine ⟨shop_laws .running, ⟨shop_purse.canon, shop_purse.held, shop_purse.free, shop_purse.suspect, shop_purse.cards,
    shop_purse.room⟩, ⟨fun _ => rfl, rfl, by decide +kernel, by decide +kernel, by decide +kernel, by decide +kernel,
    by decide +kernel, by decide +kernel⟩, by decide, by simp, by simp⟩

end Sys2Proof.Tests
end

/-! ## The payment unit's records through the acts at the slots -/

namespace Sys2Proof.Machine

/-! ### What a cycle end and the acts made of it do to the payment unit's records (R64, R74)

Only a settlement, a start, a top-up, a rollover and the stored run seconds change the records; all else is calm. -/

section
variable {a s : State}

theorem Calm.enterEnded (h : Calm a s) (n : Fin 24) (st : SlotState) (b : Bool) : Calm a (s.enterEnded n st b) := by
  unfold State.enterEnded; exact Calm.ite (h.enterTold n st) (h.enter n st)

/-- What follows the settlement in a cycle end leaves the books alone. -/
theorem cycleEnd_calm (n : Fin 24) (r : Reason) (f : Option (FaultCode × Option Nat)) (st : SlotState) (b : Bool := true)
    (hh : (s.hold n).isSome) : Calm (s.settle n r f) (s.cycleEnd n r f st b) := by
  unfold State.cycleEnd
  split
  · next e => simp [e] at hh
  · have k := Calm.modSlot ((((Calm.refl (s.settle n r f)).post (.cycleEnd n s.settlement.next))).dropHeat n b) n
      (fun x => { x with warning := false, resume := none }) fun _ => ⟨rfl, rfl⟩
    exact Calm.holdsEnded (Calm.ite (k.enterIdle n) (k.enterEnded n st b))

theorem cycleEnd_none {n : Fin 24} (h : s.hold n = none) (r : Reason) (f : Option (FaultCode × Option Nat))
    (st : SlotState) (b : Bool := true) : s.cycleEnd n r f st b = s := by
  simp only [State.cycleEnd, h]

namespace State.purse

theorem ite {c : Prop} [Decidable c] {t u : State} (ht : t.purse) (hu : u.purse) : (if c then t else u).purse := by
  split <;> assumption

theorem branch {c : Prop} [Decidable c] {t u : State} (ht : c → t.purse) (hu : ¬ c → u.purse) :
    (if c then t else u).purse := by
  split
  · exact ht ‹_›
  · exact hu ‹_›

theorem foldl {α : Type} {f : State → α → State} (hf : ∀ s x, s.purse → (f s x).purse) (l : List α) (s : State)
    (h : s.purse) : (l.foldl f s).purse := by
  induction l generalizing s with
  | nil => exact h
  | cons x l ih => exact ih _ (hf s x h)

theorem overSlots {f : Fin 24 → State → State} (h : s.purse) (hf : ∀ n s, s.purse → (f n s).purse) :
    (overSlots f s).purse := foldl (fun s n => hf n s) _ _ h

theorem setCause (h : s.purse) (n : Fin 24) (m : Cause) (v : Bool) : (s.setCause n m v).purse := h.same rfl rfl rfl

theorem writeCauses (h : s.purse) (n : Fin 24) (m : Cause) : (s.writeCauses n m).purse := by
  unfold State.writeCauses; exact ite h (h.same rfl rfl rfl)

theorem post (h : s.purse) (b : EventBody) : (s.post b).purse := h.calm ((Calm.refl s).post b)
theorem latch (h : s.purse) (c : Option (Fin 24)) (f : FaultCode) : (s.latch c f).purse := h.same rfl rfl rfl
theorem modSlot (h : s.purse) (n : Fin 24) (f : Slot → Slot) : (s.modSlot n f).purse := h.same rfl rfl rfl
theorem modTerminal (h : s.purse) (t : Fin 16) (f : Terminal → Terminal) : (s.modTerminal t f).purse := h.same rfl rfl rfl
theorem setRoom (h : s.purse) (r : Room) : ({ s with room := r } : State).purse := h.same rfl rfl rfl
theorem showBrief (h : s.purse) (n : Fin 24) (c : DisplayCode) (p : Nat) : (s.showBrief n c p).purse :=
  h.calm ((Calm.refl s).showBrief n c p)
theorem reckon (h : s.purse) (x y z : Bool) : (s.reckon x y z).purse := h.calm ((Calm.refl s).reckon x y z)

theorem cycleEnd (h : s.purse) (n : Fin 24) (r : Reason) (f : Option (FaultCode × Option Nat)) (st : SlotState)
    (b : Bool := true) : (s.cycleEnd n r f st b).purse := by
  cases e : s.hold n with
  | none => rw [cycleEnd_none e r f st b]; exact h
  | some x => exact (h.settle n r f).calm (cycleEnd_calm n r f st b (by simp [e]))

/-! ### Running, recovery, suspension and resumption -/

theorem recoverRunning (h : s.purse) (n : Fin 24) : (s.recoverRunning n).purse := by
  have k := h.calm ((Calm.refl s).recoverCounters n)
  have m := (k.modSlot n fun x => { x with resume := some .running }).calm ((Calm.refl _).enter n .suspended)
  unfold State.recoverRunning
  exact ite (ite (m.cycleEnd _ _ _ _) m) (k.calm (((Calm.refl _).enter n _).askIfWanted n))

theorem recover (h : s.purse) (n : Fin 24) : (s.recover n).purse := by
  unfold State.recover
  dsimp only
  split
  · exact ite (h.recoverRunning n) (h.cycleEnd _ _ _ _)
  all_goals exact h.cycleEnd _ _ _ _

theorem suspendSlot (h : s.purse) (n : Fin 24) : (s.suspendSlot n).purse := by
  unfold State.suspendSlot
  split
  iterate 3 exact h.calm ((Calm.refl s).haltSlot _ _)
  · exact h.cycleEnd _ _ _ _
  all_goals exact h

theorem suspend (h : s.purse) : s.suspend.purse := by
  have k := h.calm ((Calm.refl s).changeRoom .suspended .interlockActive)
  unfold State.suspend
  exact ((ite (k.setRoom _) k).calm (Calm.refl _).clearGovernor).overSlots fun n _ m => m.suspendSlot n

theorem limitSlot (h : s.purse) (n : Fin 24) : (s.limitSlot n).purse := by
  unfold State.limitSlot; exact ite (h.cycleEnd _ _ _ _) h

theorem suspensionLimit (h : s.purse) : s.suspensionLimit.purse := (h.setRoom _).overSlots fun n _ k => k.limitSlot n

theorem resumeSlot (h : s.purse) (n : Fin 24) : (s.resumeSlot n).purse := by
  unfold State.resumeSlot
  dsimp only
  refine ite h ?_
  have k := h.modSlot n fun x => { x with resume := none }
  split
  · exact ite (k.calm ((Calm.refl _).startRunning n)) (k.calm ((Calm.refl _).enter n _))
  all_goals exact ite (h.cycleEnd _ _ _ _) (h.calm ((Calm.refl _).resumeRunning n))

theorem resumeSlots (h : s.purse) : s.resumeSlots.purse :=
  (foldl (fun _ n k => k.resumeSlot n) _ _ h).calm ((Calm.refl _).askHeat _)

theorem resumeRoom (h : s.purse) : s.resumeRoom.purse := by
  have k := ((h.setRoom { s.room with timer := .idle }).calm ((Calm.refl _).changeRoom
    ({ s with room := { s.room with timer := .idle } } : State).modeState .resume)).resumeSlots
  unfold State.resumeRoom
  exact ite (k.calm (Calm.refl _).openDisplays) (k.calm (Calm.refl _).clearWaitlist)

/-! ### Faults -/

theorem joinCause (h : s.purse) (n : Fin 24) (m : Cause) : (s.joinCause n m).purse := by
  unfold State.joinCause
  exact ite h (((h.setCause n m true).writeCauses n m).calm ((Calm.refl _).followJoin n))

theorem joinLost (h : s.purse) (n : Fin 24) : (s.joinLost n).purse := by
  have k := h.setCause n .lost true
  unfold State.joinLost
  refine ite h ?_
  dsimp only
  split
  · exact k
  · exact k.calm ((Calm.refl _).postSlot n)
  iterate 5 exact k.calm ((Calm.refl _).takeOut n)
  all_goals exact k.cycleEnd _ _ _ _ _

theorem removeCause (h : s.purse) (n : Fin 24) (m : Cause) : (s.removeCause n m).purse := by
  have k := ((h.setCause n m false).writeCauses n m).calm ((Calm.refl _).postSlot n)
  unfold State.removeCause
  exact ite h (ite (k.calm ((Calm.refl _).enterIdle n)) k)

theorem faultEnd (h : s.purse) (n : Fin 24) (c : FaultCode) (e : Option Nat) : (s.faultEnd n c e).purse := by
  unfold State.faultEnd; exact ite (h.cycleEnd _ _ _ _) h

theorem unlockFailed (h : s.purse) (n : Fin 24) : (s.unlockFailed n).purse := by
  unfold State.unlockFailed
  exact (ite h ((h.setCause n _ true).writeCauses n _)).calm ((Calm.refl _).enterTold n _)

theorem faultAct (h : s.purse) (n : Fin 24) (c : FaultCode) (e : Option Nat) (v : Severity) : (s.faultAct n c e v).purse := by
  unfold State.faultAct
  split
  · exact h
  · exact h.faultEnd _ _ _
  · exact ite (h.unlockFailed n) ((h.faultEnd _ _ _).joinCause n _)
  · exact h.joinLost n

theorem raise (h : s.purse) (src : Option (Fin 24)) (c : FaultCode) (e : Option Nat) : (s.raise src c e).purse := by
  have k := State.purse.post (s := { s with faults := (s.faults.enter src c e s.clock).1 }) (h.same rfl rfl rfl)
    (.faultRaised src c (s.faults.enter src c e s.clock).2.1.errorCode (s.faults.enter src c e s.clock).2.1.occurrences
      (s.faults.enter src c e s.clock).2.1.severity (s.faults.enter src c e s.clock).2.2)
  unfold State.raise
  cases src with
  | none => exact ite (k.latch _ _) k
  | some n => exact ite ((k.faultAct n c e _).latch _ _) (k.faultAct n c e _)

theorem regainSlot (h : s.purse) (n : Fin 24) : (s.regainSlot n).purse := (h.latch _ _).removeCause n _

theorem loseSlots (h : s.purse) (t : Fin 16) : (s.loseSlots t).purse := by
  unfold State.loseSlots State.reckonAfter
  exact State.purse.reckon (foldl (fun _ n k => k.raise (some n) _ _) _ _ h) _ _ _

theorem regainSlots (h : s.purse) (t : Fin 16) : (s.regainSlots t).purse := by
  unfold State.regainSlots
  exact State.purse.reckon (foldl (fun _ n k => k.regainSlot n) _ _ h) _ _ _

/-! ### Reports, taps and presses -/

theorem reportFaults (h : s.purse) (n : Fin 24) (b v : View) : (s.reportFaults n b v).purse := by
  have k := ite (c := v.forced ∧ !b.forced ∧ (s.slot n).state.forcible) (h.raise (some n) .doorForced none) h
  unfold State.reportFaults
  exact ite (k.raise _ _ _) k

theorem reportAct (h : s.purse) (n : Fin 24) (w : Bool) (v : View) : (s.reportAct n w v).purse := by
  unfold State.reportAct
  split
  · exact h.calm ((Calm.refl s).lockingReport n v)
  iterate 2 exact ite (ite (h.cycleEnd _ _ _ _) (h.calm ((Calm.refl s).heatChange n w))) h
  iterate 2 exact ite (h.calm ((Calm.refl s).confirmUnlock n)) h
  · exact ite (h.calm ((Calm.refl s).enterIdle n)) h
  all_goals exact h

theorem actOn (h : s.purse) (n : Fin 24) (w : Bool) (b v : View) : (s.actOn n w b v).purse := by
  unfold State.actOn
  exact ite ((h.reportFaults n b v).reportAct n w v) (h.reportFaults n b v)

theorem report (h : s.purse) (n : Fin 24) (b v : View) : (s.report n b v).purse := by
  have k := h.calm (((Calm.refl s).takeView n v).latchReport n v)
  unfold State.report
  exact ite ((k.recover n).actOn n _ b v) (k.actOn n _ b v)

theorem stopPress (h : s.purse) (n : Fin 24) : (s.stopPress n).purse := by
  unfold State.stopPress
  split
  iterate 5 exact h.cycleEnd _ _ _ _
  all_goals exact h

/-- A start takes a slot that holds no hold, for an ACTIVE record with the price available and room in the queue (R74). -/
theorem startTap (h : s.purse) {n : Fin 24} (hn : s.hold n = none) (card : Nat) : (s.startTap n card).purse := by
  unfold State.startTap
  split
  · exact h
  split
  · exact h.showBrief _ _ _
  next i hi =>
  have refused (ha : ¬ (s.account i).state ≠ .active) : (if (s.account i).cap = 0 then s else s.rollAccount i).purse :=
    ite h (h.rollAccount i (by rw [not_not.1 ha]; decide))
  refine branch (fun _ => h.showBrief _ _ _) fun ha => branch (fun _ => h.showBrief _ _ _) fun hr =>
    branch (fun _ => h.showBrief _ _ _) fun hp => ite ((refused ha).showBrief _ _ _) (ite ((refused ha).showBrief _ _ _) ?_)
  exact h.placeHold _ i _ card hn (not_not.1 ha) (by split <;> simp) (by omega) (by omega)

/-- A top-up raises the hold and the held amount of its account together (R76, R77). -/
theorem topUpTap (h : s.purse) (n : Fin 24) (card : Nat) : (s.topUpTap n card).purse := by
  unfold State.topUpTap
  split
  · exact h
  next x hx =>
  split
  · exact h.showBrief _ _ _
  next i hi =>
  refine branch (fun _ => h.showBrief _ _ _) fun he => branch (fun _ => h.showBrief _ _ _) fun ha =>
    ite (h.showBrief _ _ _) (branch (fun _ => h.showBrief _ _ _) fun hp => ite ?_ ?_)
  · exact (ite h (h.rollAccount i (by rw [not_not.1 ha]; decide))).showBrief _ _ _
  · exact h.takeTopUp i _ hx (not_not.1 he) (not_not.1 ha) (by split <;> simp) (by omega)

theorem ownTap (h : s.purse) (n : Fin 24) (card : Nat) : (s.ownTap n card).purse := by
  unfold State.ownTap
  split
  iterate 2 exact h.topUpTap n card
  iterate 2 exact ite (h.topUpTap n card) (h.showBrief _ _ _)
  exact h.showBrief _ _ _

/-- A tap starts a cycle only on a slot that is not busy, and so holds no hold (R72). -/
theorem tap (h : s.purse) (w : s.busyLaw) (n : Fin 24) (card : Nat) : (s.tap n card).purse := by
  have free (hb : (s.slot n).state.busy = false) : s.hold n = none := by
    have := w n; rw [hb] at this; exact Option.isNone_iff_eq_none.1 (by simpa using this)
  unfold State.tap
  refine ite (h.showBrief _ _ _) ?_
  split
  · next e => exact h.startTap (free (by rw [e]; rfl)) card
  · next e => exact ite (h.startTap (free (by rw [e]; rfl)) card) (h.showBrief _ _ _)
  iterate 6 exact ite (h.ownTap n card) (h.calm ((Calm.refl s).busyPath n card))
  iterate 4 exact h.showBrief _ _ _
  exact h

theorem takeEvents (h : s.purse) (w : Whole s) (n : Fin 24) (r : HalfReply) : (s.takeEvents n r).purse := by
  have k : (if r.stop then s.stopPress n else s).purse ∧ Whole (if r.stop then s.stopPress n else s) :=
    ⟨ite (h.stopPress n) h, Whole.ite (fun _ => w.stopPress n) fun _ => w⟩
  have m := k.1.calm ((Calm.refl _).startPress n)
  have v := Whole.ite (c := r.start = true) (fun _ => k.2.startPress n) fun _ => k.2
  unfold State.takeEvents
  exact ite ((ite m k.1).tap (whole_iff.1 v).2 n _) (ite m k.1)

theorem handReport (h : s.purse) (t : Fin 16) (k : Half) (b : Option View) (v : View) : (s.handReport t k b v).purse := by
  unfold State.handReport; split
  · exact h.report _ _ _
  · exact h

theorem handEvents (h : s.purse) (w : Whole s) (t : Fin 16) (k : Half) (r : HalfReply) : (s.handEvents t k r).purse := by
  unfold State.handEvents; split
  · exact h.takeEvents w _ _
  · exact h

/-! ### The bus, time and the scan -/

theorem miss (h : s.purse) (t : Fin 16) : (s.miss t).purse := by
  have k := h.modTerminal t fun x => { x with misses := x.misses + 1 }
  unfold State.miss
  exact ite h (ite k (((k.modTerminal t fun x => { x with presence := .lost }).post _).loseSlots t))

theorem missExchange (h : s.purse) : s.missExchange.purse := by
  unfold State.missExchange
  split
  · exact (h.miss _).same rfl rfl rfl
  · exact h
  · exact h

theorem hearTerminal (h : s.purse) (t : Fin 16) : (s.hearTerminal t).purse := by
  have k := h.modTerminal t fun x => { x with misses := 0, presence := .present }
  unfold State.hearTerminal
  exact ite k (ite ((k.post _).regainSlots t) (k.post _))

theorem goodReply (h : s.purse) (w : Whole s) (t : Fin 16) (r : TerminalReply) : (s.goodReply t r).purse := by
  have k := (((h.hearTerminal t).modTerminal t fun x =>
    { x with halfA := { x.halfA with report := some r.a.view }, halfB := { x.halfB with report := some r.b.view } }).handReport
      t .a ((s.hearTerminal t).half t .a).report r.a.view).handReport t .b ((s.hearTerminal t).half t .b).report r.b.view
  have m : Whole (((s.hearTerminal t)).takeReports t r) := by
    unfold State.takeReports
    exact Whole.handReport (Whole.handReport (Law.quiet (w.hearTerminal t) ((Quiet.refl _).modTerminal t _)) _ _ _ _) _ _ _ _
  have v : Whole _ := Law.quiet m ((Quiet.refl _).modTerminal t fun x => { x with tag := r.tag, tagValid := true })
  unfold State.goodReply State.takeTagged
  exact ite k (ite k ((((State.purse.modTerminal k t _).handEvents v t .a _)).handEvents (Whole.handEvents v t .a _) t .b _))

theorem slotSecond (h : s.purse) (n : Fin 24) : (s.slotSecond n).purse := by
  have k := h.modSlot n (Slot.counted (s.kind n))
  have m := (ite (c := ((s.modSlot n (Slot.counted (s.kind n))).slot n).run = (s.slot n).run) k (k.storeRun n)).calm
    ((Calm.refl _).pointA n)
  unfold State.slotSecond
  exact ite h (ite m (m.calm ((Calm.refl _).showLasting n _)))

theorem endCondition (h : s.purse) (n : Fin 24) (t : SenseTest) : (s.endCondition n t).purse := by
  unfold State.endCondition; exact ite ((h.modSlot n _).latch _ _) h

theorem strikeTest (h : s.purse) (n : Fin 24) (w : Nat) (t : SenseTest) : (s.strikeTest n w t).purse := by
  unfold State.strikeTest State.strikeTrue
  exact ite (ite (State.purse.raise (h.modSlot n _) _ _ _) (h.modSlot n _)) (State.purse.endCondition (h.modSlot n _) n t)

theorem strikeTests (h : s.purse) (r : ScanResult) : (s.strikeTests r).purse := by
  unfold State.strikeTests
  exact ite h ((foldl (fun _ t k => k.strikeTest _ _ t) _ _ h).modSlot _ _)

theorem endedTests (h : s.purse) (r : ScanResult) : (s.endedTests r).purse := by
  unfold State.endedTests
  exact ite h (foldl (fun _ t k => ite k (k.endCondition _ t)) _ _ h)

theorem modGov (h : s.purse) (f : Governor → Governor) : (s.modGov f).purse := h.same rfl rfl rfl

theorem feedOver (h : s.purse) (feed : Nat) : (s.feedOver feed).purse := by
  unfold State.feedOver
  exact ite (ite (ite ((h.modGov _).raise _ _ _) (h.modGov _)) (h.modGov _)) (ite ((h.modGov _).latch _ _) (h.modGov _))

theorem modScanner (h : s.purse) (f : Scanner → Scanner) : (s.modScanner f).purse := h.same rfl rfl rfl

theorem validScan (h : s.purse) : s.validScan.purse := by
  unfold State.validScan State.takeFigures State.takeDraws
  have k := ite (c := s.scanner.refFault = true) (State.purse.latch (h.modScanner fun c => { c with refFault := false }) none
    .senseReference) h
  refine foldl (fun _ r k => k.strikeTests r) _ _ (foldl (fun _ r k => k.endedTests r) _ _ ?_)
  exact (State.purse.reckon (State.purse.modGov (foldl (fun _ r k => k.modSlot _ _) _ _ (k.modScanner _)) _) _ _ _).feedOver _

theorem invalidScan (h : s.purse) : s.invalidScan.purse := by
  unfold State.invalidScan
  exact ite (h.modScanner _) (State.purse.raise ((h.modScanner _).modScanner _) _ _ _)

theorem endScan (h : s.purse) (c : Nat) : (s.endScan c).purse := by
  unfold State.endScan
  have k := h.modScanner fun c => { c with converter := none, active := false, ended := c.number }
  exact (State.purse.modScanner ((ite k.validScan k.invalidScan).calm (Calm.refl _).clearMarks) _).calm (Calm.refl _).startNext

end State.purse
end
end Sys2Proof.Machine

namespace Sys2Proof.Machine

/-! ## Commands by their form -/

/-- A command other than a strap reading or characters of a frame: those two are made of other commands. -/
def plainCommand : Instr → Bool
  | .startUp _ | .strapReread _ | .hostFrameDiscard _ _ => false
  | _ => true

theorem requestCommand_plain (p : Port) (kind : Byte) (body : List Byte) :
    plainCommand (requestCommand p kind body) = true := by
  unfold requestCommand
  split <;> rfl

theorem broadcastCommand_plain (p : Port) (kind : Byte) (body : List Byte) :
    plainCommand (broadcastCommand p kind body) = true := by
  unfold broadcastCommand
  split <;> rfl

/-- Every command answers a next state (log 33). -/
theorem exec_after {c : Instr} {s t : State} (h : exec c s = .next t) : s.after (exec c s) = t := by rw [h]; rfl

/-- What a change of a port and every plain command keep, characters of a frame keep. -/
theorem frameCharacters_keep {P : State → Prop} (hp : ∀ p s u, P s → P (s.setPort p u))
    (hx : ∀ c s, plainCommand c = true → P s → P (s.after (exec c s))) {p : Port} {chars : List RxChar} {s t : State} (h : P s)
    (e : exec (.hostFrameDiscard p chars) s = .next t) : P t :=
  hostFrameDiscard_keeps (hp p)
    (fun s _ kind body k e => exec_after e ▸ hx _ s (requestCommand_plain p kind body) k)
    (fun s _ kind body k e => exec_after e ▸ hx _ s (broadcastCommand_plain p kind body) k) h e

/-! ## The records in form (R3, R142, R151, R172, R198) -/

theorem Keeps.ifRunning {a s t : State} (h : Keeps a s) (k : Keeps a t) : Keeps a (s.ifRunning t) := Keeps.ite k h

theorem Keeps.setLife {a s : State} (h : Keeps a s) (l : Life) (hl : ∀ k, l ≠ .strap k) : Keeps a { s with life := l } :=
  h.trans ⟨id, id, id, id, fun _ => hl⟩

theorem Keeps.priceSet {a s : State} (h : Keeps a s) (p : Port) (b : List Byte) : Keeps a (s.priceSet p b) := by
  refine h.request p _ _ _ fun x t k => ?_
  cases x
  · exact k.priceEntrySet _ _ _
  · exact k.priceGeneralSet _

theorem Keeps.governorSet {a s : State} (h : Keeps a s) (p : Port) (b : List Byte) : Keeps a (s.governorSet p b) := by
  refine h.request p _ _ _ fun x t k => ?_
  cases x
  · exact k.governorGeneralSet _
  · exact k.governorClassSet _

theorem Keeps.senseSet {a s : State} (h : Keeps a s) (p : Port) (b : List Byte) : Keeps a (s.senseSet p b) := by
  refine h.request p _ _ _ fun x t k => ?_
  cases x
  · exact k.senseInputSet _
  · exact k.senseGeneralSet _

theorem Keeps.slotService {a s : State} (h : Keeps a s) (p : Port) (b : List Byte) : Keeps a (s.slotService p b) := by
  refine h.request p _ _ _ fun x t k => ?_
  split
  · exact k.serviceTake _ _ _
  · exact k.serviceReturn _ _
  · exact k

/-- Every request keeps the records in form. -/
theorem request_keeps (c : Instr) {f : Port × Nat × List Byte} (hc : requestFields c = some f) (s : State) :
    Keeps s (s.after (exec c s)) := by
  have h := Keeps.refl s
  cases c with
  | roomStatus p b => exact h.request p _ _ _ fun x t m => m
  | slotStatus p b | terminalStatus p b =>
    refine h.request p _ _ _ fun x t m => ?_
    split <;> exact m
  | portStatus p b =>
    refine h.request p _ _ _ fun x t m => ?_
    split
    · exact Keeps.ite (m.modCounts _ _) m
    · exact m
  | eventsRead p b => exact h.request p _ _ _ fun x t m => by split; exacts [m.readEvents _, m]
  | classSet p b => exact h.request p _ _ _ fun x t m => m.classSet x
  | priceSetEntry p b | priceSetGeneral p b => exact h.priceSet p b
  | slotSet p b => exact h.request p _ _ _ fun x t m => m.slotSet x
  | terminalSet p b =>
    refine h.request p _ _ _ fun x t m => ?_
    split
    · exact m.terminalSet _ _
    · exact m
  | governorSetGeneral p b | governorSetClass p b => exact h.governorSet p b
  | senseSetInput p b | senseSetGeneral p b => exact h.senseSet p b
  | roomSet p b => exact h.request p _ _ _ fun x t m => m.roomSet x
  | timeSet p b =>
    refine h.request p _ _ _ fun x t m => ?_
    split
    · exact m.setClock _ _ ‹_›
    · exact m
  | accountPut p b => exact h.request p _ _ _ fun x t m => m.accountPut x
  | accountCredit p b => exact h.request p _ _ _ fun x t m => m.accountCredit _ _
  | accountState p b => exact h.request p _ _ _ fun x t m => m.accountState _ _
  | accountRemove p b => exact h.request p _ _ _ fun x t m => m.accountRemove _
  | accountRead p b => exact h.request p _ _ _ fun x t m => m.accountRead _
  | settlementRead p b | faultsRead p b | historyRead p b =>
    exact h.request p _ _ _ fun x t m => by split <;> exact m
  | settlementRelease p b => exact h.request p _ _ _ fun x t m => m.settlementRelease _
  | slotServiceTake p b | slotServiceReturn p b => exact h.slotService p b
  | slotStop p b => exact h.request p _ _ _ fun x t m => by split; exacts [m.slotStop _, m]
  | faultClear p b => exact h.request p _ _ _ fun x t m => by split; exacts [m.faultClear _ _ _, m]
  | budgetSet p b =>
    refine h.request p _ _ _ fun x t m => ?_
    split
    · dsimp only [State.ok]; exact m.setBudget x
    · exact m
  | grantsRead p b => exact h.request p _ _ _ fun x t m => m
  | waitlistRead p b =>
    refine h.request p _ _ _ fun x t m => ?_
    split
    · split <;> exact m
    · exact m
  | waitlistRemove p b =>
    refine h.request p _ _ _ fun x t m => ?_
    split
    · split
      · exact m
      · exact m.waitlistRemove _ _
    · exact m
  | roomMode p b => exact h.request p _ _ _ fun x t m => by split; exacts [m.roomMode _, m]
  | roomResume p b => exact h.request p _ _ _ fun x t m => by split; exacts [m.resumeRoom, m]
  | senseRead p b =>
    simp only [exec, execSenseRead, State.after]
    refine h.take p _ _ _ fun x t m => ?_
    exact Keeps.ite (m.answer _ _ _ _) (Keeps.ite (m.answer _ _ _ _) (m.askConversion _ _))
  | restart p b => exact h.request p _ _ _ fun x t m => m.change rfl rfl rfl rfl rfl
  | _ => cases hc

/-- Every plain command keeps the records in form. -/
theorem exec_keeps (c : Instr) (hc : plainCommand c = true) (s : State) : Keeps s (s.after (exec c s)) := by
  have h := Keeps.refl s
  cases c with
  | startUp | strapReread | hostFrameDiscard => cases hc
  | rotationPoll | probePoll | outOfTurnPoll =>
    refine h.ifRunning ?_
    split
    · exact h.poll _ _ _
    · exact h
  | broadcastDisplay =>
    refine h.ifRunning ?_
    split
    · exact h.setBus _
    · exact h
  | terminalReply chars =>
    refine h.ifRunning ?_
    split
    · split
      · exact (h.goodReply _ _).setBus _
      · exact h.missExchange
    · exact h
    · exact h
  | malformedReply | replyTimeout => exact h.ifRunning h.missExchange
  | contentionWindow =>
    refine h.ifRunning ?_
    split
    · exact h.setBus _
    · exact h
    · exact h
  | briefDeadline t k => exact h.ifRunning (Keeps.ite (h.modHalf t k _) h)
  | armedDeadline n => exact h.ifRunning (Keeps.ite (h.act ((Acts.refl _).cycleEnd _ _ _ _)) h)
  | lockingDeadline n | unlockDeadline n => exact h.ifRunning (Keeps.ite (h.act ((Acts.refl _).raise _ _ _)) h)
  | collectWindowExpiry n => exact h.ifRunning (Keeps.ite (h.act ((Acts.refl _).enterIdle _)) h)
  | recoveryDeadline n => exact h.ifRunning (Keeps.ite (h.act ((Acts.refl _).cycleEnd _ _ _ _)) h)
  | runSecond => exact h.ifRunning h.runSecond
  | overrun n => exact h.ifRunning (Keeps.ite (h.act ((Acts.refl _).raise _ _ _)) h)
  | paidSecondsExhausted n =>
    exact h.ifRunning (Keeps.ite (Keeps.ite (h.act ((Acts.refl _).reload n)) (h.act ((Acts.refl _).coolDown n))) h)
  | coolDownEnd n => exact h.ifRunning (Keeps.ite (h.act ((Acts.refl _).cycleEnd _ _ _ _)) h)
  | waitlistEntryExpiry c k =>
    refine h.ifRunning ?_
    split
    · exact Keeps.ite (h.act (((Acts.refl _).setQueue _ _).post _)) h
    · exact h
  | reservationExpiry n =>
    refine h.ifRunning ?_
    split
    · exact Keeps.ite (h.act (((Acts.refl _).post _).handOn _)) h
    · exact h
  | scanStart => exact h.ifRunning (Keeps.ite h h.beginScan)
  | conversionResult k =>
    refine h.ifRunning ?_
    split
    · refine Keeps.ite (h.holdFeed k).startNext ?_
      split
      · exact (h.holdResult _ k).startNext
      · exact h
    · exact h
    · exact h
  | scanEnd k => exact h.ifRunning (Keeps.ite (h.endScan k) h)
  | onDemandConversionResult k =>
    refine h.ifRunning ?_
    split
    · exact (h.answerSense _ _ _).startNext
    · exact h
    · exact h
  | clockSecond =>
    have tick : Keeps s { s with clock := s.clock.tick } := ⟨id, id, id, Clock.tick_ok, fun k => k⟩
    show Keeps s (match s.life with | .waiting => s | .strap _ | .running | .restartDue => { s with clock := s.clock.tick })
    split
    · exact h
    all_goals exact tick
  | minuteChange => exact h.ifRunning (h.act ((Acts.refl _).followMode _))
  | interlockActive => exact h.ifRunning (Keeps.ite h h.interlockOn)
  | interlockInactive => exact h.ifRunning (Keeps.ite h.interlockOff h)
  | suspensionLimit => exact h.ifRunning (Keeps.ite h.suspensionLimit h)
  | storeWriteDone =>
    show Keeps s (match s.life with | .running | .restartDue => s.writeDone | .waiting | .strap _ => s)
    split
    · exact h.writeDone
    · exact h.writeDone
    all_goals exact h
  | hostReplyEnd p =>
    refine h.ifRunning ?_
    split
    iterate 2 exact (h.setActivity p _).replyEnded p
    all_goals exact h
  | frameGapTimeout l a =>
    cases l with
    | bus => exact h.ifRunning h.missExchange
    | host p =>
      exact Keeps.ite h (Keeps.ite (h.port (breakOff_port s p)) (Keeps.ite h (h.port (discardFrame_port s p a))))
  | hostFrameOverrun p a =>
    show Keeps s (match s.listens p && s.portBusy p, frameClass s.unit p a.toNat with
      | true, .request | true, .broadcast => if s.deaf p then s.breakOff p else (s.breakOff p).countOverrun p
      | _, _ => s)
    split
    iterate 2 exact Keeps.ite (h.port (breakOff_port s p)) (h.port (countOverrun_breakOff_port s p))
    exact h
  | frameNotForUnit a => exact Keeps.ite (h.port (breakOff_port s .building)) h
  | broadcastDropped p k b => exact h.frameArrives p _ _ fun t m => m
  | broadcastTimeSet p b =>
    simp only [exec, execBroadcastTimeSet, State.after]
    refine h.frameArrives p _ _ fun t m => ?_
    split
    · split
      · exact (m.setClock _ _ ‹_›).modCounts _ _
      · exact m
    · exact m
  | broadcastBudgetSet p b =>
    simp only [exec, execBroadcastBudgetSet, State.after]
    refine h.frameArrives p _ _ fun t m => ?_
    split
    · exact Keeps.ite m (Keeps.ite (m.setActivity _ _) ((m.setBudget _).modCounts _ _))
    · exact m
  | broadcastBudgetDeferred p =>
    refine h.ifRunning ?_
    split
    · exact ((h.setBudget _).modCounts _ _).setActivity _ _
    · exact h
  | unknownKindRequest p k b => exact Keeps.ite h (h.frameArrives p _ _ fun t m => (m.modCounts _ _).answer _ _ _ _)
  | powerLoss => exact (h.setLife .waiting (by simp)).change rfl rfl rfl rfl rfl
  | _ => exact request_keeps _ rfl s

end Sys2Proof.Machine

namespace Sys2Proof.Machine

/-! ## What a command does to the laws of the slots, the purse and the store (R18, R60 to R64, R72, R109, R204) -/

section
variable {a s : State}

/-- The store is as it was (its writes are begun, not done), and the laws that held hold. -/
structure Does (a s : State) : Prop where
  store : s.store = a.store
  whole : Whole a → Whole s
  purse : Whole a → a.purse → s.purse
  mirror : Whole a → a.purse → a.mirrored → s.mirrored

namespace Does

theorem refl (a : State) : Does a a := ⟨rfl, id, fun _ => id, fun _ _ => id⟩

theorem trans {b c : State} (h : Does a b) (k : Does b c) : Does a c :=
  ⟨k.store.trans h.store, fun w => k.whole (h.whole w), fun w p => k.purse (h.whole w) (h.purse w p),
    fun w p m => k.mirror (h.whole w) (h.purse w p) (h.mirror w p m)⟩

theorem ite {c : Prop} [Decidable c] {t u : State} (ht : Does a t) (hu : Does a u) : Does a (if c then t else u) := by
  split <;> assumption

/-- Acts that keep the store in step while the settlement queue has its room (R74, R204). -/
theorem books (k : Books a s) (w : Whole a → Whole s) (p : Whole a → a.purse → s.purse) : Does a s :=
  ⟨k.store, w, p, fun wa pa => k.mirror (by have := (p wa pa).room; omega)⟩

theorem calm (k : Calm a s) (w : Whole a → Whole s) : Does a s := books k.toBooks w fun _ p => p.calm k

theorem quiet (k : Calm a s) (q : Quiet a s) : Does a s := calm k fun w => Law.quiet w q

/-- A change of what none of the laws looks at. -/
theorem change {t : State} (h : Does a s) (hb : t.books = s.books) (hs : t.slots = s.slots) (ht : t.terminals = s.terminals)
    (hg : t.gov = s.gov) : Does a t := by
  have k : Calm s { t with events := s.events } := (Calm.refl s).change hb hs ht rfl
  have hh : t.holds = s.holds := congrArg (fun b => b.1.2.1) hb
  have q : Quiet s { t with events := s.events } := (Quiet.refl s).change hs hg hh
  have d := quiet k q
  exact h.trans ⟨d.store, fun w => Law.quiet w ((Quiet.refl s).change hs hg hh), fun w p => (d.purse w p).same rfl rfl rfl,
    fun w p m => (d.mirror w p m).casesOn fun m1 m2 m3 m4 m5 m6 m7 m8 => ⟨m1, m2, m3, m4, m5, m6, m7, m8⟩⟩

theorem setPort (h : Does a s) (p : Port) (u : PortUnit) : Does a (s.setPort p u) := by
  cases p <;> exact h.change rfl rfl rfl rfl

theorem port {t : State} (h : Does a s) {p : Port} (k : ∃ u, t = s.setPort p u) : Does a t := by
  obtain ⟨u, rfl⟩ := k
  exact h.setPort p u

/-! ### Commands and requests -/

theorem ifRunning {t : State} (k : Does s t) : Does s (s.ifRunning t) := ite k (refl s)

theorem frameArrives (s : State) (p : Port) (k : FrameClass) (f : State → State) (hf : ∀ t, Does t (f t)) :
    Does s (s.frameArrives p k f) := by
  obtain ⟨u, e | e⟩ := frameArrives_cases s p k f <;> rw [e]
  · exact (refl s).setPort p u
  · exact ((refl s).setPort p u).trans (hf _)

theorem finish {x : Answer} (h : Does a x.state) (p : Port) (k w : Nat) : Does a (x.finish p k w) := by
  unfold Answer.finish
  exact ite (h.setPort _ _) ((h.setPort _ _).change rfl rfl rfl rfl)

theorem take {α : Type} (s : State) (p : Port) (k : Nat) (e : Except Status α) (go : α → State → State)
    (hg : ∀ x t, Does t (go x t)) : Does s (s.take p k e go) := by
  refine frameArrives s p _ _ fun t => ?_
  have m : Does t (t.countTaken p) := (refl t).setPort _ _
  refine ite (m.setPort _ _) ?_
  split
  · exact m.setPort _ _
  · exact ite (m.setPort _ _) (m.trans (hg _ _))

theorem request {α : Type} (s : State) (p : Port) (k : Nat) (e : Except Status α) (act : α → State → Answer)
    (ha : ∀ x t, Does t (act x t).state) : Does s (s.request p k e act) :=
  take s p k e _ fun x t => finish (ha x t) p k _

/-! ### The requests that configure -/

/-- A setting and its write (R204): the slots, the heat requests and the payment unit's records do not see it. -/
theorem setting {f : Settings → Settings} {ws : List StoreWrite} (k : Books s ((s.modSettings f).write ws)) :
    Does s ((s.modSettings f).write ws) :=
  books k (fun w => Law.quiet w (((Quiet.refl s).modSettings f).write ws)) fun _ p => p.same rfl rfl rfl

theorem reckon (s : State) (x y z : Bool) : Does s (s.reckon x y z) :=
  calm ((Calm.refl s).reckon x y z) fun w => Law.reckon w x y z

theorem modSense (s : State) (n : Fin 24) (f : SlotSense → SlotSense) : Does s (s.modSense n f) :=
  quiet ((Calm.refl s).modSense n f) ((Quiet.refl s).modSense n f)

theorem restrike (s : State) (n : Fin 24) : Does s (s.restrike n) := modSense s n _

theorem overSlots {f : Fin 24 → State → State} (hf : ∀ n s, Does s (f n s)) (s : State) : Does s (overSlots f s) := by
  have fold (l : List (Fin 24)) (s : State) : Does s (l.foldl (fun s n => f n s) s) := by
    induction l generalizing s with
    | nil => exact refl s
    | cons n l ih => exact (hf n s).trans (ih _)
  exact fold _ s

theorem rephase (s : State) (c : Fin 4) (k : Kind) : Does s (s.rephase c k) := by
  unfold State.rephase
  let f (x : Slot) : Slot := { x with phase := phaseFor k (some (s.cls c).kind) x.phase }
  have m (n : Fin 24) (t : State) : Does t (t.modSlot n f) :=
    quiet ((Calm.refl t).modSlot n f fun _ => ⟨rfl, rfl⟩) ((Quiet.refl t).modSlot n f fun _ => ⟨rfl, rfl⟩)
  exact overSlots (fun n t => ite (m n t) (refl t)) s

theorem classSet (s : State) (f : Nat × Nat × Nat × Nat) : Does s (s.classSet f).state := by
  unfold State.classSet
  split
  · split
    · exact refl s
    split
    · exact refl s
    · exact (rephase s _ _).trans (setting ((Books.refl _).setClass _ _))
  · exact refl s

theorem priceSet (s : State) (p : Port) (b : List Byte) : Does s (s.priceSet p b) := by
  refine request s p _ _ _ fun x t => ?_
  cases x with
  | inl e =>
    dsimp only
    unfold State.priceEntrySet
    split
    · split
      · exact refl t
      · exact setting ((Books.refl t).setPrices _)
    · exact refl t
  | inr g =>
    dsimp only
    unfold State.priceGeneralSet
    split
    · exact refl t
    · exact setting ((Books.refl t).setPrices _)

theorem governorSet (s : State) (p : Port) (b : List Byte) : Does s (s.governorSet p b) := by
  refine request s p _ _ _ fun x t => ?_
  cases x with
  | inl g =>
    dsimp only
    unfold State.governorGeneralSet
    split
    · exact refl t
    · dsimp only [State.ok]
      exact (setting ((Books.refl t).setGovernor _)).trans (reckon _ _ _ _)
  | inr g =>
    dsimp only
    unfold State.governorClassSet
    split
    · exact refl t
    next c _ =>
    split
    · exact refl t
    split
    · exact refl t
    · have k := setting ((Books.refl t).setGovernor
        { t.settings.governor with classes := t.settings.governor.classes.set c.val g.2 })
      dsimp only [State.ok]
      exact ite (k.trans (overSlots (fun n u => ite (restrike u n) (refl u)) _)) k

theorem senseSet (s : State) (p : Port) (b : List Byte) : Does s (s.senseSet p b) := by
  refine request s p _ _ _ fun x t => ?_
  cases x with
  | inl g =>
    dsimp only
    unfold State.senseInputSet
    split
    · split
      · exact refl t
      split
      · exact refl t
      · have k := setting ((Books.refl t).setSense { t.settings.sense with inputs := t.settings.sense.inputs.set g.1 g.2 })
        dsimp only [State.ok]
        split
        · exact k.trans (restrike _ _)
        · exact k
    · exact refl t
  | inr v =>
    dsimp only
    unfold State.senseGeneralSet
    split
    · exact refl t
    split
    · exact refl t
    · dsimp only [State.ok]
      exact (setting ((Books.refl t).setSense _)).trans (overSlots (fun n u => restrike u n) _)

theorem followMode (s : State) (c : RoomCause) : Does s (s.followMode c) :=
  calm ((Calm.refl s).followMode c) fun w => w.followMode c

theorem roomSet (s : State) (f : Nat × Nat × Nat × Nat × Nat × Nat) : Does s (s.roomSet f).state := by
  unfold State.roomSet
  dsimp only
  split
  · exact refl s
  · exact (setting ((Books.refl s).setRoomCfg _)).trans (followMode _ _)

theorem roomMode (s : State) (m : Mode) : Does s (s.roomMode m).state := by
  unfold State.roomMode
  split
  · exact refl s
  · exact (setting ((Books.refl s).setRoomCfg _)).trans (followMode _ _)

theorem setClock (s : State) (d c : Nat) : Does s (s.setClock d c) := by
  unfold State.setClock
  have k : Does s { s with clock := ⟨c, d, true⟩ } := (refl s).change rfl rfl rfl rfl
  exact ite (k.trans (followMode _ _)) k

theorem setBudget (s : State) (w : Nat) : Does s (s.setBudget w) := by
  unfold State.setBudget
  exact (setting ((Books.refl s).setGovernor { s.settings.governor with budget := w })).trans (reckon _ _ _ _)

/-- A terminal's mode and its write (R34). -/
theorem terminalSet (s : State) (t : Fin 16) (m : TermMode) : Does s (s.terminalSet t m).state := by
  unfold State.terminalSet
  split
  · exact refl s
  split
  · exact refl s
  split
  · exact refl s
  refine ⟨rfl, fun w => Law.quiet w (((Quiet.refl s).modTerminal t _).write _), fun _ p => p.same rfl rfl rfl, fun _ _ k => ?_⟩
  obtain ⟨m1, m2, m3, m4, m5, m6, m7, m8⟩ := k
  show ((s.modTerminal t fun x => { x with mode := m }).write [.terminal t m]).mirrored
  have e := storeToBe_write (s.modTerminal t fun x => { x with mode := m }) [.terminal t m]
  simp only [Store.applyAll, List.foldl_cons, List.foldl_nil, Store.apply] at e
  refine ⟨?_, ?_, ?_, ?_, ?_, ?_, ?_, fun u => ?_⟩ <;> rw [e]
  · exact m1
  · exact m2
  · exact m3
  · exact m4
  · exact m5
  · exact m6
  · exact m7
  · show ((s.storeToBe.terminals.set t.val (some m))[u.val]).getD .single =
      (((s.modTerminal t fun x => { x with mode := m }).terminal u)).mode
    rw [Vector.getElem_set, State.terminal_modTerminal]
    by_cases h : t = u
    · simp [h]
    · rw [if_neg h, if_neg fun x => h (Fin.ext x)]; exact m8 u

/-! ### Slots -/

theorem raise (s : State) (src : Option (Fin 24)) {c : FaultCode} (hc : c ≠ .unlockFail) (e : Option Nat) :
    Does s (s.raise src c e) :=
  books ((Books.refl s).raise src c e) (fun w => w.raised src hc e) fun _ p => p.raise src c e

theorem regainSlot (s : State) (n : Fin 24) : Does s (s.regainSlot n) :=
  books ((Books.refl s).regainSlot n) (fun w => w.regainSlot n) fun _ p => p.regainSlot n

theorem cycleEnd (s : State) (n : Fin 24) (r : Reason) (f : Option (FaultCode × Option Nat)) {st : SlotState}
    (hb : st.busy = false) : Does s (s.cycleEnd n r f st) :=
  books ((Books.refl s).cycleEnd n r f st) (fun w => w.cycleEnd n r f hb) fun _ p => p.cycleEnd n r f st

end Does

theorem Calm.leaveHalf (s : State) (o : Option SlotCfg) (m : Option (Fin 16 × Half)) : Calm s (s.leaveHalf o m) := by
  unfold State.leaveHalf
  split
  · exact Calm.ite (Calm.refl s) ((Calm.refl s).modHalf _ _ _)
  · exact Calm.refl s

theorem Quiet.leaveHalf (s : State) (o : Option SlotCfg) (m : Option (Fin 16 × Half)) : Quiet s (s.leaveHalf o m) := by
  unfold State.leaveHalf
  split
  · exact Quiet.ite (Quiet.refl s) ((Quiet.refl s).modHalf _ _ _)
  · exact Quiet.refl s

theorem leaveHalf_write (s : State) (o : Option SlotCfg) (m : Option (Fin 16 × Half)) (ws : List StoreWrite) :
    (s.leaveHalf o m).write ws = (s.write ws).leaveHalf o m := by
  unfold State.leaveHalf
  split
  · split <;> rfl
  · rfl

/-- The books through a class removed (R2, R35, R154). -/
theorem removeClass_books (s : State) (n : Fin 24) : Books s (s.removeClass n) ∧ (s.removeClass n).accounts = s.accounts ∧
    (s.removeClass n).holds = s.holds ∧ (s.removeClass n).settlement = s.settlement := by
  let x : Slot := { s.slot n with cfg := none, causes := .empty, run := 0, phase := .none }
  have b0 : Books s (s.latchAll n) := (Books.refl s).calm ((Calm.refl s).setFaults _)
  have b1 : Books s (((s.latchAll n).setSlot n x).write [.slot n none, .causes n none]) := by
    refine b0.setSlotCfg n x _ (fun _ => ⟨rfl, rfl, rfl, rfl, rfl, rfl, rfl⟩) fun d _ m => ?_
    show ((d.causes.set n.val none)[m.val]).getD .empty = _
    rw [Vector.getElem_set]
    by_cases e : n = m
    · simp [e, x, Causes.stored, Causes.empty]
    · rw [if_neg e, if_neg fun k => e (Fin.ext k)]
  let u := ((s.latchAll n).setSlot n x).write [.slot n none, .causes n none]
  have c : Calm u (s.removeClass n) := by
    unfold State.removeClass
    have k := Calm.ite (c := (s.slot n).cfg.isSome = true) ((Calm.refl u).enterTold n .unconfigured) (Calm.refl u)
    have m := Calm.modSlot k n (fun y => { y with sense := .start }) fun _ => ⟨rfl, rfl⟩
    exact m.trans (Calm.leaveHalf _ _ _)
  have e := c.books
  simp only [State.books, Prod.mk.injEq] at e
  exact ⟨b1.calm c, e.1.1, e.1.2.1, e.1.2.2.1⟩

namespace Does

theorem removeClass (s : State) {n : Fin 24} (hs : (s.slot n).state.spare) : Does s (s.removeClass n) := by
  obtain ⟨b, e1, e2, e3⟩ := removeClass_books s n
  exact books b (fun w => w.removeClass hs) fun _ p => p.same e1 e2 e3

theorem followTerminal (s : State) (n : Fin 24) (t : Fin 16) : Does s (s.followTerminal n t) := by
  unfold State.followTerminal
  exact ite (raise s _ (by decide) _) (ite (regainSlot s n) (refl s))

/-- The configuration given to a slot and its write (R2), the half that it leaves blanked (R35). -/
theorem configure (s : State) (n : Fin 24) (c : SlotCfg) (f : Phase → Phase) (o : Option SlotCfg)
    (m : Option (Fin 16 × Half)) :
    Does s (((s.modSlot n fun x => { x with cfg := some c, phase := f x.phase }).leaveHalf o m).write [.slot n (some c)]) := by
  rw [leaveHalf_write]
  refine trans ?_ (quiet (Calm.leaveHalf _ o m) (Quiet.leaveHalf _ o m))
  refine books ?_ (fun w => Law.quiet w ?_) fun _ p => p.same rfl rfl rfl
  · refine (Books.refl s).setSlotCfg n _ _ (fun _ => ⟨rfl, rfl, rfl, rfl, rfl, rfl, rfl⟩) fun d hd k => ?_
    show (d.causes[k.val]).getD .empty = _
    split
    · next e => subst e; exact hd
    · rfl
  · exact ((Quiet.refl s).modSlot n (fun x => { x with cfg := some c, phase := f x.phase }) fun _ => ⟨rfl, rfl⟩).write _

theorem assignClass (s : State) {n : Fin 24} (hs : (s.slot n).state.spare) (c : SlotCfg) : Does s (s.assignClass n c) := by
  unfold State.assignClass
  dsimp only
  have q (f : Phase → Phase) : Quiet s (((s.modSlot n fun x => { x with cfg := some c, phase := f x.phase }).leaveHalf
      (s.slot n).cfg (some (c.term, c.half))).write [.slot n (some c)]) :=
    (((Quiet.refl s).modSlot n (fun x => { x with cfg := some c, phase := f x.phase }) fun _ => ⟨rfl, rfl⟩).trans
      (Quiet.leaveHalf _ _ _)).write _
  have k := configure s n c (phaseFor (s.cls c.cls).kind ((s.slot n).cfg.map fun o => (s.cls o.cls).kind)) (s.slot n).cfg
    (some (c.term, c.half))
  rw [← (q (phaseFor (s.cls c.cls).kind ((s.slot n).cfg.map fun o => (s.cls o.cls).kind))).state n] at hs
  generalize ((s.modSlot n _).leaveHalf _ _).write _ = u at *
  refine trans ?_ (reckon _ _ _ _)
  cases (s.slot n).cfg with
  | none => exact (k.trans (calm ((Calm.refl u).enterIdle n) fun w => w.enterIdle hs)).trans (followTerminal _ _ _)
  | some o =>
    dsimp only
    have k1 : Does s (if (!(o.term == c.term && o.half == c.half)) = true then u.showMoved n else u) :=
      ite (k.trans (quiet ((Calm.refl u).showLasting n _) ((Quiet.refl u).showLasting n _))) k
    generalize (if (!(o.term == c.term && o.half == c.half)) = true then u.showMoved n else u) = v at *
    have k2 : Does s (if o.cls ≠ c.cls ∧ (v.slot n).state = .idle then v.offer n else v) := by
      split
      · next e => exact k1.trans (calm ((Calm.refl v).offer n) fun w => w.offer (by rw [e.2]; exact spare_idle))
      · exact k1
    exact ite (k2.trans (followTerminal _ n _)) k2

theorem slotSet (s : State) (f : Nat × Nat × Nat × Nat) : Does s (s.slotSet f).state := by
  unfold State.slotSet
  split
  · exact refl s
  split
  · split
    · next e => exact removeClass s (settable_spare e)
    · exact refl s
  split
  · exact refl s
  split
  · exact refl s
  next e =>
  simp only [Bool.not_eq_true', Bool.not_eq_false] at e
  split
  · split
    · exact refl s
    · dsimp only [State.ok]
      exact assignClass s (settable_spare e) _
  · exact refl s

theorem joinCause (s : State) (n : Fin 24) (m : Cause) : Does s (s.joinCause n m) :=
  books ((Books.refl s).joinCause n m) (fun w => w.joinCause n m) fun _ p => p.joinCause n m

theorem removeCause (s : State) (n : Fin 24) (m : Cause) : Does s (s.removeCause n m) :=
  books ((Books.refl s).removeCause n m) (fun w => w.removeCause n m) fun _ p => p.removeCause n m

theorem serviceTake (s : State) (p : Port) (n : Fin 24) (f : Bool) : Does s (s.serviceTake p n f).state := by
  unfold State.serviceTake
  dsimp only
  split
  · exact refl s
  split
  · exact refl s
  split
  · exact refl s
  · exact (ite (cycleEnd s n _ _ rfl) (refl s)).trans (joinCause _ n _)

theorem slotService (s : State) (p : Port) (b : List Byte) : Does s (s.slotService p b) := by
  refine request s p _ _ _ fun x t => ?_
  split
  · exact serviceTake t _ _ _
  · unfold State.serviceReturn
    split
    · exact refl t
    · exact removeCause t _ _
  · exact refl t

theorem slotStop (s : State) (n : Fin 24) : Does s (s.slotStop n).state := by
  unfold State.slotStop
  split
  · exact cycleEnd s n _ _ rfl
  · exact refl s

theorem post (s : State) (b : EventBody) : Does s (s.post b) := quiet ((Calm.refl s).post b) ((Quiet.refl s).post b)

theorem clearTaken (s : State) (p : Port) (src : Option (Fin 24)) (c : FaultCode) (e : Option FaultEntry) :
    Does s (s.clearTaken p src c e).state := by
  unfold State.clearTaken State.releaseLockout
  cases src with
  | none => exact post s _
  | some n =>
    dsimp only [State.ok]
    exact (post s _).trans (ite (removeCause _ n _) (refl _))

theorem faultClear (s : State) (p : Port) (src : Option (Fin 24)) (c : FaultCode) : Does s (s.faultClear p src c).state := by
  unfold State.faultClear
  split
  · split
    · exact clearTaken _ _ _ _ _
    · exact refl s
  split
  · exact refl s
  split
  · exact refl s
  · next x _ _ _ =>
    have k : Does s { s with faults := (s.faults.remove src c).close x (.cleared p) s.clock } :=
      (refl s).change rfl rfl rfl rfl
    exact k.trans (clearTaken _ _ _ _ _)

theorem handOn (s : State) {n : Fin 24} (hs : (s.slot n).state.spare) : Does s (s.handOn n) :=
  calm ((Calm.refl s).handOn n) fun w => w.handOn hs

theorem waitlistRemove (s : State) (c : Fin 4) (k : Nat) : Does s (s.waitlistRemove c k).state := by
  unfold State.waitlistRemove
  split
  · exact quiet ((Calm.refl s).setQueue c _) ((Quiet.refl s).setQueue c _)
  split
  · next e => exact handOn s (by rw [reservedFor_state e]; exact spare_reserved)
  · exact refl s

theorem resumeRoom (s : State) : Does s s.resumeRoom :=
  books (Books.refl s).resumeRoom (fun w => w.resumeRoom) fun _ p => p.resumeRoom

end Does

/-! ### Accounts and the settlement queue -/

/-- The record that a card id names carries it (R62). -/
theorem findCard_account (h : s.purse) {k i : Nat} (e : s.findCard k = some i) :
    (s.account i).state ≠ .free ∧ (s.account i).card = k := by
  unfold State.findCard at e
  split at e
  · cases e
  · obtain ⟨x, hx, rfl⟩ := Option.map_eq_some_iff.1 e
    have m := Accounts.read_mem h.canon (List.mem_of_find?_eq_some hx)
    have p := List.find?_some hx
    simp only [decide_eq_true_eq] at p
    rw [State.account, m.2]
    exact p

/-- A card id that no record carries elsewhere (R62, R65). -/
theorem cardElsewhere_false (h : s.purse) {k i : Nat} (e : s.cardElsewhere k i = false) (hk : k ≠ 0) :
    ∀ j, j ≠ i → (s.account j).state ≠ .free → (s.account j).card ≠ k := by
  intro j hj hf hc
  have listed : (j, s.account j) ∈ s.accounts := Accounts.mem_read fun w => hf (by rw [State.account, w]; rfl)
  cases q : s.findCard k with
  | none =>
    simp only [State.findCard, if_neg hk, Option.map_eq_none_iff, List.find?_eq_none] at q
    exact q _ listed (by simp [hf, hc])
  | some m =>
    obtain ⟨f, c⟩ := findCard_account h q
    simp only [State.cardElsewhere, q, bne_eq_false_iff_eq] at e
    exact hj ((h.cards j m hf f (hc ▸ hk) (hc.trans c.symm)).trans e)

namespace Does

/-- An account record changed and written (R65 to R71). -/
theorem putAccount (s : State) (i : Nat) (x : Account) (hp : s.purse → (s.setAccount i x).purse) : Does s (s.putAccount i x) :=
  books ((Books.refl s).putAccount i x) (fun w => Law.quiet w (((Quiet.refl s).setAccount i x).write _)) fun _ p =>
    (hp p).same rfl rfl rfl

theorem cardLost (s : State) (k : Nat) : Does s (s.cardLost k) := by
  unfold State.cardLost
  exact ite (refl s) (calm ((Calm.refl s).losePlaces k) fun w => w.losePlaces k)

theorem accountPut (s : State) (f : Nat × Nat × Nat × Nat × Nat) : Does s (s.accountPut f).state := by
  obtain ⟨i, card, code, balance, cap⟩ := f
  unfold State.accountPut
  dsimp only
  split
  · next st hi hst =>
    split
    · exact refl s
    next hv =>
    split
    · exact refl s
    next he =>
    split
    · exact refl s
    next hb =>
    refine trans (putAccount s i _ fun p => ?_) (cardLost _ _)
    simp only [Bool.or_eq_true, decide_eq_true_eq, not_or] at hv
    have st' : st = .active ∨ st = .blocked := by
      unfold accountStateOf at hst
      split at hst <;> simp_all
    have sus := p.suspect i
    have fre := p.free i
    have law := (p.held i).2
    refine p.put i _ rfl (.inl (by simpa [indexOk] using hi)) rfl rfl ?_ ?_ ?_ ?_ ?_
    · unfold Account.replaced
      split
      · next e => rw [fre e]; rfl
      · next e => exact (sus e).symm
      all_goals rfl
    · unfold Account.replaced
      split <;> simp <;> omega
    · unfold Account.replaced
      split <;> rcases st' with rfl | rfl <;> simp
    · unfold Account.replaced
      split <;> rcases st' with rfl | rfl <;> simp
    · have c : ((s.account i).replaced s.clock.day card st balance cap).card = card := by
        unfold Account.replaced; split <;> rfl
      rw [c]
      exact fun _ k => cardElsewhere_false p (by simpa using he) k
  · exact refl s

/-- An account that ACCOUNT_CREDIT and ACCOUNT_STATE may act on is the listed one, ACTIVE or BLOCKED (R66, R67). -/
theorem usable_ok {s : State} {i : Nat} {x : Account} (h : s.usable i = .ok x) :
    x = s.account i ∧ ((s.account i).state = .active ∨ (s.account i).state = .blocked) ∧ (s.purse → i < 512) := by
  have listed (hs : (s.account i).state ≠ .free) (p : s.purse) : i < 512 :=
    (Accounts.read_mem p.canon (Accounts.mem_read fun e => hs (by rw [State.account, e]; rfl))).1
  unfold State.usable at h
  split at h <;> cases h
  all_goals next e => exact ⟨rfl, by simp [e], listed (by simp [e])⟩

/-- A record that keeps its card id, or none but its own, changed within its balance. -/
theorem putKnown (s : State) {i : Nat} {x : Account} (hu : s.purse → i < 512) (hs : (s.account i).state ≠ .free)
    (h1 : x.held = (s.account i).held) (h2 : (s.account i).balance ≤ x.balance) (h3 : x.state = .active ∨ x.state = .blocked)
    (h4 : x.card = (s.account i).card) : Does s (s.putAccount i x) := by
  refine putAccount s i x fun p => ?_
  have law := (p.held i).2
  refine p.put i x rfl (.inl (hu p)) rfl rfl h1 (by omega) ?_ ?_ fun _ k j hj hf e => ?_
  · rcases h3 with e | e <;> simp [e]
  · rcases h3 with e | e <;> simp [e]
  · rw [h4] at k e
    exact hj (p.cards j i hf hs (e ▸ k) e)

theorem accountCredit (s : State) (i m : Nat) : Does s (s.accountCredit i m).state := by
  unfold State.accountCredit
  split
  · exact refl s
  split
  · exact refl s
  next x hx =>
  split
  · exact refl s
  obtain ⟨rfl, hs, hi⟩ := usable_ok hx
  exact putKnown s hi (by rcases hs with e | e <;> simp [e]) rfl (Nat.le_add_right ..) hs rfl

theorem accountState (s : State) (i c : Nat) : Does s (s.accountState i c).state := by
  unfold State.accountState
  split
  · next st _ hst =>
    split
    · exact refl s
    next x hx =>
    split
    · exact refl s
    obtain ⟨rfl, hs, hi⟩ := usable_ok hx
    have st' : st = .active ∨ st = .blocked := by
      unfold accountStateOf at hst
      split at hst <;> simp_all
    have k := putKnown s (x := { s.account i with state := st }) hi (by rcases hs with e | e <;> simp [e]) rfl le_rfl st' rfl
    exact ite (k.trans (cardLost _ _)) k
  · exact refl s

theorem accountRemove (s : State) (i : Nat) : Does s (s.accountRemove i).state := by
  unfold State.accountRemove
  dsimp only
  split
  · exact refl s
  split
  · exact refl s
  split
  · exact refl s
  next hh =>
  refine (putAccount s i .free fun p => ?_).trans (cardLost _ _)
  have h0 : (s.account i).held = 0 := by omega
  exact p.put i .free rfl (.inr rfl) rfl rfl h0.symm le_rfl (fun _ => rfl) (fun _ => rfl) fun k => absurd rfl k

theorem accountRead (s : State) (i : Nat) : Does s (s.accountRead i).state := by
  unfold State.accountRead
  split
  · exact refl s
  · show Does s (if (s.account i).state = .free then s else s.rollAccount i)
    split
    · exact refl s
    · next hf =>
      exact books ((Books.refl s).rollAccount i) (fun w => Law.quiet w ((Quiet.refl s).rollAccount i)) fun _ p =>
        p.rollAccount i hf

end Does

/-- Erasures of places one after the other: the places listed are empty, the others as they were (R204). -/
theorem applyAll_erased (l : List (Fin 64)) (d : Store) :
    ∃ v, d.applyAll (l.map fun p => StoreWrite.place p none) = { d with places := v } ∧
      ∀ p : Fin 64, v[p.val] = if p ∈ l then none else d.places[p.val] := by
  induction l generalizing d with
  | nil => exact ⟨d.places, rfl, fun p => by simp⟩
  | cons q l ih =>
    obtain ⟨v, e, hv⟩ := ih { d with places := d.places.set q.val none }
    refine ⟨v, e, fun p => ?_⟩
    rw [hv, Vector.getElem_set]
    by_cases h : p = q
    · simp [h]
    · rw [if_neg fun k : q.val = p.val => h (Fin.ext k.symm)]; simp [h]

/-- The place of a ring of 64 whose distance from the oldest one is less than `k` is one of the first `k` (R204). -/
theorem mem_places (q : SettlementQueue) (k : Nat) (hk : k ≤ 64) (p : Fin 64) :
    p ∈ (List.range k).map q.place ↔ (p.val + 64 - q.oldest % 64) % 64 < k := by
  simp only [List.mem_map, List.mem_range, SettlementQueue.place, Fin.ext_iff]
  constructor
  · rintro ⟨j, hj, e⟩
    omega
  · intro h
    exact ⟨_, h, by omega⟩

/-- SETTLEMENT_RELEASE (R99): the places of the released records are erased, and the header names the rest. -/
theorem Does.settlementRelease (s : State) (number : Nat) : Does s (s.settlementRelease number).state := by
  unfold State.settlementRelease
  dsimp only
  split
  · exact refl s
  next k hk =>
  have hl : k < s.settlement.records.length := (List.findIdx?_eq_some_iff_findIdx_eq.1 hk).1
  refine ⟨rfl, fun w => Law.quiet w ((Quiet.refl s).change rfl rfl rfl), fun _ p => ?_, fun _ p m => ?_⟩
  · have room := p.room
    rw [holdCount_eq] at room
    refine ⟨p.canon, p.held, p.free, p.suspect, p.cards, ?_⟩
    rw [holdCount_eq]
    show (s.settlement.records.drop (k + 1)).length + _ ≤ 64
    rw [List.length_drop]
    exact le_trans (Nat.add_le_add_right (Nat.sub_le _ _) _) room
  · obtain ⟨m1, m2, m3, m4, m5, m6, m7, m8⟩ := m
    have room := p.room
    let q := s.settlement.released (k + 1)
    let ws := ((List.range (k + 1)).map fun j => StoreWrite.place (s.settlement.place j) none) ++ [StoreWrite.header q.header]
    show (({ s with settlement := q } : State).write ws).mirrored
    have e := storeToBe_write { s with settlement := q } ws
    obtain ⟨v, ev, hv⟩ := applyAll_erased ((List.range (k + 1)).map s.settlement.place) s.storeToBe
    rw [List.map_map] at ev
    have e : (({ s with settlement := q } : State).write ws).storeToBe = { s.storeToBe with places := v, header := some q.header } := by
      rw [e]
      show Store.applyAll s.storeToBe ws = _
      simp only [ws, Store.applyAll, List.foldl_append, List.foldl_cons, List.foldl_nil]
      exact congrArg (fun d : Store => d.apply (.header q.header)) ev
    refine ⟨?_, ?_, fun p => ?_, ?_, ?_, ?_, ?_, ?_⟩ <;> rw [e]
    · exact m1
    · exact m2
    · show v[p.val] = (s.settlement.records.drop (k + 1))[(p.val + 64 - ((s.settlement.oldest + (k + 1)) % 64) % 64) % 64]?
      rw [hv, m3, List.getElem?_drop]
      by_cases h : (p.val + 64 - s.settlement.oldest % 64) % 64 < k + 1
      · rw [if_pos ((mem_places _ _ (by omega) p).2 h), List.getElem?_eq_none (by omega)]
      · rw [if_neg fun w => h ((mem_places _ _ (by omega) p).1 w)]
        congr 1
        omega
    · rfl
    · exact m5
    · exact m6
    · exact m7
    · exact m8

end
end Sys2Proof.Machine

namespace Sys2Proof.Machine

theorem Does.startNext {a s : State} (h : Does a s) : Does a s.startNext :=
  h.trans (Does.quiet (Calm.refl s).startNext (Quiet.refl s).startNext)

theorem Does.modScanner {a s : State} (h : Does a s) (f : Scanner → Scanner) : Does a (s.modScanner f) :=
  h.change rfl rfl rfl rfl

theorem Does.markScan (s : State) : Does s s.markScan := by
  unfold State.markScan
  exact Does.overSlots (fun n t => Does.modSense t n (.inScan (t.slotCls n))) s

/-- Every request does to the laws what `Does` says. -/
theorem request_does (c : Instr) {f : Port × Nat × List Byte} (hc : requestFields c = some f) (s : State) :
    Does s (s.after (exec c s)) := by
  have same (p : Port) (k : Nat) {α : Type} (e : Except Status α) (act : α → State → Answer) (ha : ∀ x t, (act x t).state = t) :
      Does s (s.request p k e act) := Does.request s p k e act fun x t => by rw [ha]; exact Does.refl t
  cases c with
  | roomStatus p b | grantsRead p b => exact same p _ _ _ fun _ _ => rfl
  | slotStatus p b | terminalStatus p b | settlementRead p b | faultsRead p b | historyRead p b =>
    exact same p _ _ _ fun _ _ => by split <;> rfl
  | waitlistRead p b =>
    refine same p _ _ _ fun _ _ => ?_
    split
    · split <;> rfl
    · rfl
  | portStatus p b =>
    refine Does.request s p _ _ _ fun x t => ?_
    split
    · exact Does.ite ((Does.refl t).setPort _ _) (Does.refl t)
    · exact Does.refl t
  | eventsRead p b =>
    refine Does.request s p _ _ _ fun x t => ?_
    split
    · exact (Does.refl t).change rfl rfl rfl rfl
    · exact Does.refl t
  | classSet p b => exact Does.request s p _ _ _ fun x t => Does.classSet t x
  | priceSetEntry p b | priceSetGeneral p b => exact Does.priceSet s p b
  | slotSet p b => exact Does.request s p _ _ _ fun x t => Does.slotSet t x
  | terminalSet p b =>
    refine Does.request s p _ _ _ fun x t => ?_
    split
    · exact Does.terminalSet t _ _
    · exact Does.refl t
  | governorSetGeneral p b | governorSetClass p b => exact Does.governorSet s p b
  | senseSetInput p b | senseSetGeneral p b => exact Does.senseSet s p b
  | roomSet p b => exact Does.request s p _ _ _ fun x t => Does.roomSet t x
  | timeSet p b =>
    refine Does.request s p _ _ _ fun x t => ?_
    split
    · exact Does.setClock t _ _
    · exact Does.refl t
  | accountPut p b => exact Does.request s p _ _ _ fun x t => Does.accountPut t x
  | accountCredit p b => exact Does.request s p _ _ _ fun x t => Does.accountCredit t _ _
  | accountState p b => exact Does.request s p _ _ _ fun x t => Does.accountState t _ _
  | accountRemove p b => exact Does.request s p _ _ _ fun x t => Does.accountRemove t _
  | accountRead p b => exact Does.request s p _ _ _ fun x t => Does.accountRead t _
  | settlementRelease p b => exact Does.request s p _ _ _ fun x t => Does.settlementRelease t _
  | slotServiceTake p b | slotServiceReturn p b => exact Does.slotService s p b
  | slotStop p b => exact Does.request s p _ _ _ fun x t => by split; exacts [Does.slotStop t _, Does.refl t]
  | faultClear p b => exact Does.request s p _ _ _ fun x t => by split; exacts [Does.faultClear t _ _ _, Does.refl t]
  | budgetSet p b =>
    refine Does.request s p _ _ _ fun x t => ?_
    split
    · dsimp only [State.ok]; exact Does.setBudget t x
    · exact Does.refl t
  | waitlistRemove p b =>
    refine Does.request s p _ _ _ fun x t => ?_
    split
    · split
      · exact Does.refl t
      · exact Does.waitlistRemove t _ _
    · exact Does.refl t
  | roomMode p b => exact Does.request s p _ _ _ fun x t => by split; exacts [Does.roomMode t _, Does.refl t]
  | roomResume p b => exact Does.request s p _ _ _ fun x t => by split; exacts [Does.resumeRoom t, Does.refl t]
  | senseRead p b =>
    simp only [exec, execSenseRead, State.after]
    refine Does.take s p _ _ _ fun x t => ?_
    refine Does.ite ((Does.refl t).setPort _ _) (Does.ite ((Does.refl t).setPort _ _) ?_)
    exact (((Does.refl t).setPort p _).modScanner _).startNext
  | restart p b => exact Does.request s p _ _ _ fun x t => (Does.refl t).change rfl rfl rfl rfl
  | _ => cases hc

/-- Every plain command that leaves the store's writes in progress alone does to the laws what `Does` says. -/
theorem exec_does (c : Instr) (hc : plainCommand c = true) (hw : c ≠ .storeWriteDone) (hl : c ≠ .powerLoss) (s : State) :
    Does s (s.after (exec c s)) := by
  have h := Does.refl s
  have miss : Does s s.missExchange :=
    Does.books (Books.refl s).missExchange (fun w => w.missExchange) fun _ p => p.missExchange
  cases c with
  | startUp | strapReread | hostFrameDiscard => cases hc
  | storeWriteDone => exact absurd rfl hw
  | powerLoss => exact absurd rfl hl
  | rotationPoll | probePoll | outOfTurnPoll =>
    refine Does.ifRunning ?_
    split
    · exact Does.books ((Books.refl s).poll _ _ _)
        (fun w => Law.quiet w (((Quiet.refl s).modTerminal _ _).setBus _)) fun _ p => p.same rfl rfl rfl
    · exact h
  | broadcastDisplay =>
    refine Does.ifRunning ?_
    split
    · exact h.change rfl rfl rfl rfl
    · exact h
  | terminalReply chars =>
    refine Does.ifRunning ?_
    split
    · split
      · exact Does.trans (Does.books ((Books.refl s).goodReply _ _) (fun w => w.goodReply _ _) fun w p => p.goodReply w _ _)
          ((Does.refl _).change rfl rfl rfl rfl)
      · exact miss
    · exact h
    · exact h
  | malformedReply | replyTimeout => exact Does.ifRunning miss
  | contentionWindow =>
    refine Does.ifRunning ?_
    split
    · exact h.change rfl rfl rfl rfl
    · exact h
    · exact h
  | briefDeadline t k =>
    exact Does.ifRunning (Does.ite (Does.quiet ((Calm.refl s).modHalf t k _) ((Quiet.refl s).modHalf t k _)) h)
  | armedDeadline n | recoveryDeadline n => exact Does.ifRunning (Does.ite (Does.cycleEnd s n _ _ rfl) h)
  | coolDownEnd n => exact Does.ifRunning (Does.ite (Does.cycleEnd s n _ _ rfl) h)
  | lockingDeadline n => exact Does.ifRunning (Does.ite (Does.raise s _ (by decide) _) h)
  | overrun n => exact Does.ifRunning (Does.ite (Does.raise s _ (by decide) _) h)
  | unlockDeadline n =>
    refine Does.ifRunning ?_
    split
    · next e =>
      refine Does.books ((Books.refl s).raise _ _ _) (fun w => w.raise ?_ _) fun _ p => p.raise _ _ _
      rintro - m ⟨⟩
      rcases e.1 with e | e <;> rw [e]
      · exact spare_finishing
      · exact spare_faulted
    · exact h
  | collectWindowExpiry n =>
    refine Does.ifRunning ?_
    split
    · next e => exact Does.calm ((Calm.refl s).enterIdle n) fun w => w.enterIdle (by rw [e.1]; exact spare_collect)
    · exact h
  | runSecond =>
    let second (s : State) : State := overSlots (fun n s => s.slotSecond n) { s with elapsed := s.elapsed + 1 }
    have one (n : Fin 24) (t : State) : Does t (t.slotSecond n) :=
      Does.books ((Books.refl t).slotSecond n) (fun w => Law.quiet w ((Quiet.refl t).slotSecond n)) fun _ p => p.slotSecond n
    have k : Does s (second s) :=
      Does.trans (h.change (t := { s with elapsed := s.elapsed + 1 }) rfl rfl rfl rfl) (Does.overSlots one _)
    exact Does.ifRunning (Does.ite (k.trans (Does.quiet (Calm.refl _).waitSecond (Quiet.refl _).waitSecond)) k)
  | paidSecondsExhausted n =>
    have reload : Does s (s.reload n) :=
      Does.quiet ((Calm.refl s).modSlot n (fun x => { x with remaining := x.topUp * 60, topUp := 0 }) fun _ => ⟨rfl, rfl⟩)
        ((Quiet.refl s).modSlot n (fun x => { x with remaining := x.topUp * 60, topUp := 0 }) fun _ => ⟨rfl, rfl⟩)
    have cool : Does s (s.coolDown n) :=
      Does.calm (((Calm.refl s).modSlot n (fun x => { x with phase := .cool, cool := s.coolTime n }) fun _ => ⟨rfl, rfl⟩).dropHeat n)
        fun w => w.coolDown n
    exact Does.ifRunning (Does.ite (Does.ite reload cool) h)
  | waitlistEntryExpiry c k =>
    refine Does.ifRunning ?_
    split
    · exact Does.ite (Does.quiet (((Calm.refl s).setQueue _ _).post _) (((Quiet.refl s).setQueue _ _).post _)) h
    · exact h
  | reservationExpiry n =>
    refine Does.ifRunning ?_
    split
    · next e _ _ =>
      refine Does.ite ((Does.post s _).trans (Does.handOn _ ?_)) h
      rw [(Quiet.post (Quiet.refl s) _).state n, e]
      exact spare_reserved
    · exact h
  | scanStart => exact Does.ifRunning (Does.ite h ((Does.markScan s).modScanner _).startNext)
  | conversionResult k =>
    refine Does.ifRunning ?_
    split
    · refine Does.ite (h.modScanner _).startNext ?_
      split
      · exact (h.modScanner _).startNext
      · exact h
    · exact h
    · exact h
  | scanEnd k =>
    exact Does.ifRunning (Does.ite (Does.books ((Books.refl s).endScan k) (fun w => w.endScan k) fun _ p => p.endScan k) h)
  | onDemandConversionResult k =>
    refine Does.ifRunning ?_
    split
    · exact ((h.modScanner fun c => { c with converter := none }).setPort _ _).startNext
    · exact h
    · exact h
  | clockSecond =>
    show Does s (match s.life with | .waiting => s | .strap _ | .running | .restartDue => { s with clock := s.clock.tick })
    split
    · exact h
    all_goals exact h.change rfl rfl rfl rfl
  | minuteChange => exact Does.ifRunning (Does.followMode s _)
  | interlockActive =>
    exact Does.ifRunning (Does.ite h (Does.books (Books.refl s).interlockOn (fun w => w.interlockOn) fun _ p => by
      unfold State.interlockOn
      exact State.purse.ite (p.setRoom _) (State.purse.suspend (p.setRoom _))))
  | interlockInactive =>
    refine Does.ifRunning (Does.ite ?_ h)
    unfold State.interlockOff
    have k : Does s { s with room := { s.room with interlock := false } } := h.change rfl rfl rfl rfl
    exact Does.ite (k.trans (Does.quiet ((Calm.refl _).changeRoom _ _) ((Quiet.refl _).changeRoom _ _))) k
  | suspensionLimit =>
    exact Does.ifRunning (Does.ite (Does.books (Books.refl s).suspensionLimit (fun w => w.suspensionLimit) fun _ p =>
      p.suspensionLimit) h)
  | hostReplyEnd p =>
    refine Does.ifRunning ?_
    have k : Does s ((s.setActivity p .idle).replyEnded p) := by
      have m : Does s (s.setActivity p .idle) := h.setPort _ _
      rcases replyEnded_cases (s.setActivity p .idle) p with e | e | e <;> rw [e]
      · exact m
      · exact m.change rfl rfl rfl rfl
      · exact m.change rfl rfl rfl rfl
    split
    iterate 2 exact k
    all_goals exact h
  | frameGapTimeout l a =>
    cases l with
    | bus => exact Does.ifRunning miss
    | host p =>
      exact Does.ite h (Does.ite (h.port (breakOff_port s p)) (Does.ite h (h.port (discardFrame_port s p a))))
  | hostFrameOverrun p a =>
    show Does s (match s.listens p && s.portBusy p, frameClass s.unit p a.toNat with
      | true, .request | true, .broadcast => if s.deaf p then s.breakOff p else (s.breakOff p).countOverrun p
      | _, _ => s)
    split
    iterate 2 exact Does.ite (h.port (breakOff_port s p)) (h.port (countOverrun_breakOff_port s p))
    exact h
  | frameNotForUnit a => exact Does.ite (h.port (breakOff_port s .building)) h
  | broadcastDropped p k b => exact Does.frameArrives s p _ _ fun t => Does.refl t
  | broadcastTimeSet p b =>
    simp only [exec, execBroadcastTimeSet, State.after]
    refine Does.frameArrives s p _ _ fun t => ?_
    split
    · exact Does.ite ((Does.setClock t _ _).setPort _ _) (Does.refl t)
    · exact Does.refl t
  | broadcastBudgetSet p b =>
    simp only [exec, execBroadcastBudgetSet, State.after]
    refine Does.frameArrives s p _ _ fun t => ?_
    split
    · exact Does.ite (Does.refl t) (Does.ite ((Does.refl t).setPort _ _) ((Does.setBudget t _).setPort _ _))
    · exact Does.refl t
  | broadcastBudgetDeferred p =>
    refine Does.ifRunning ?_
    split
    · exact ((Does.setBudget s _).setPort _ _).setPort _ _
    · exact h
  | unknownKindRequest p k b =>
    exact Does.ite h (Does.frameArrives s p _ _ fun t => ((Does.refl t).setPort _ _).setPort _ _)
  | _ => exact request_does _ rfl s

/-! ### The store's completions (R204) -/

theorem portStored_rest (s : State) (p : Port) : (s.portStored p).slots = s.slots ∧ (s.portStored p).gov = s.gov ∧
    (s.portStored p).books = s.books ∧ (s.portStored p).terminals = s.terminals := by
  unfold State.portStored
  cases p <;> dsimp only <;> split <;> exact ⟨rfl, rfl, rfl, rfl⟩

/-- A completed change is in the store and no longer on its way: the store to be is the same (R204). -/
theorem writeDone_rest (s : State) : s.writeDone.slots = s.slots ∧ s.writeDone.gov = s.gov ∧ s.writeDone.holds = s.holds ∧
    s.writeDone.terminals = s.terminals ∧ s.writeDone.accounts = s.accounts ∧ s.writeDone.settlement = s.settlement ∧
    s.writeDone.settings = s.settings ∧ s.writeDone.storeToBe = s.storeToBe ∧
    s.writeDone.store = s.store.applyAll (s.writes.headD []) := by
  unfold State.writeDone
  split
  · next e => exact ⟨rfl, rfl, rfl, rfl, rfl, rfl, rfl, rfl, by rw [e]; rfl⟩
  · next ws rest e =>
    obtain ⟨a1, a2, a3, a4⟩ := portStored_rest { s with store := s.store.applyAll ws, writes := rest } .building
    obtain ⟨b1, b2, b3, b4⟩ := portStored_rest
      (({ s with store := s.store.applyAll ws, writes := rest } : State).portStored .building) .service
    have k := b3.trans a3
    simp only [State.books, Prod.mk.injEq] at k
    obtain ⟨⟨k1, k2, k3, k4⟩, k5, k6⟩ := k
    refine ⟨b1.trans a1, b2.trans a2, k2, b4.trans a4, k1, k3, k4, ?_, ?_⟩
    · rw [State.storeToBe, k5, k6, State.storeToBe, e]; rfl
    · rw [e]; exact k5

end Sys2Proof.Machine

namespace Sys2Proof.Machine

/-! ## Every step -/

/-! ### The heat requests and the holds (R18, R72, R109) -/

/-- Every plain command keeps the heat requests and the holds in agreement with the slots. -/
theorem exec_whole (c : Instr) (hc : plainCommand c = true) {s : State} (w : Whole s) : Whole (s.after (exec c s)) := by
  by_cases hw : c = .storeWriteDone
  · subst hw
    obtain ⟨h1, h2, h3, -⟩ := writeDone_rest s
    have k : Whole s.writeDone := Law.quiet w ((Quiet.refl s).change h1 h2 h3)
    show Whole (match s.life with | .running | .restartDue => s.writeDone | .waiting | .strap _ => s)
    split
    · exact k
    · exact k
    all_goals exact w
  by_cases hl : c = .powerLoss
  · subst hl
    exact Law.quiet w ((Quiet.refl s).change rfl rfl rfl)
  exact (exec_does c hc hw hl s).whole w

theorem reset_whole : Whole State.reset := by
  refine ⟨List.nodup_nil, fun n _ => ?_, fun n _ => ?_⟩
  · simp [State.heatAt, State.granted, State.waiting, State.reset, Governor.start, State.slot, Slot.start]
  · simp [State.hold, State.slot, State.reset, Slot.start, SlotState.busy]

theorem beginStart_whole (s : State) (i : StartInput) : Whole (s.beginStart i) := by
  unfold State.beginStart State.readStrap
  split
  · exact Law.quiet reset_whole ((Quiet.refl _).change rfl rfl rfl)
  · exact startStages_whole _ i

theorem readStrap_whole {s : State} (w : Whole s) (k : Nat) (i : StartInput) : Whole (s.readStrap k i) := by
  unfold State.readStrap
  split
  · exact Law.quiet w ((Quiet.refl s).change rfl rfl rfl)
  · exact startStages_whole _ i

/-- Every command keeps the heat requests and the holds in agreement with the slots. -/
theorem command_whole (c : Instr) {s t : State} (w : Whole s) (e : exec c s = .next t) : Whole t := by
  cases c with
  | startUp i =>
    obtain rfl := exec_after e
    show Whole (match s.life with
      | .waiting | .strap _ => (s.settleWrites 0).beginStart i
      | .running => (s.settleWrites (Config.writesDoneAtReset s.free)).useFree.beginStart i
      | .restartDue => (s.settleWrites s.writes.length).beginStart i)
    split <;> exact beginStart_whole _ i
  | strapReread i =>
    obtain rfl := exec_after e
    show Whole (match s.life with
      | .strap k => s.readStrap (k + 1) i
      | .waiting | .running | .restartDue => s)
    split
    · exact readStrap_whole w _ i
    all_goals exact w
  | hostFrameDiscard p chars =>
    exact frameCharacters_keep (P := Whole) (fun p s u w => Law.quiet w ((Quiet.refl s).setPort p u))
      (fun c s hc w => exec_whole c hc w) w e
  | _ => exact exec_after e ▸ exec_whole _ rfl w

/-! ### A step is a command, or the replies that begin -/

theorem beginReplies_port (s : State) : s.beginReplies = s ∨
    ∃ u v, s.beginReplies = (s.setPort .building u).setPort .service v := by
  unfold State.beginReplies State.ifRunning
  split
  · exact .inr ⟨_, _, rfl⟩
  · exact .inl rfl

/-- What the beginning of replies and every command keep, and what the queue of commands has no part in, a step keeps. -/
theorem step_cases {s t : State} (e : step s = .next t) : t = s ∨
    (∃ u v, t = (s.setPort .building u).setPort .service v) ∨
    ∃ c rest, exec c (s.withPending rest) = .next t := by
  unfold step at e
  split at e
  · cases e
    rcases beginReplies_port s with h | h
    · exact .inl h
    · exact .inr (.inl h)
  · exact .inr (.inr ⟨_, _, e⟩)

end Sys2Proof.Machine

namespace Sys2Proof.Machine

/-- Settles O57: every command keeps both laws (`command_whole`), and neither looks at ports or the queue of commands. -/
theorem stepsKeepHeatAndHolds : Obligations.StepsKeepHeatAndHolds := by
  intro s t hh hb e
  have w : Whole s := whole_iff.2 ⟨hh, hb⟩
  refine whole_iff.1 ?_
  rcases step_cases e with rfl | ⟨u, v, rfl⟩ | ⟨c, rest, e⟩
  · exact w
  · exact Law.quiet w (((Quiet.refl s).setPort _ u).setPort _ v)
  · exact command_whole c (Law.quiet w ((Quiet.refl s).change (t := s.withPending rest) rfl rfl rfl)) e

/-! ### The store's accounts, one record an index (R60) -/

theorem Accounts.put_keys (t : List (Nat × Account)) (i : Nat) (a : Account) :
    ∀ k ∈ (Accounts.put t i a).map (·.1), k = i ∨ k ∈ t.map (·.1) := by
  induction t with
  | nil => simp [Accounts.put]
  | cons e t ih =>
    obtain ⟨k, b⟩ := e
    intro m hm
    unfold Accounts.put at hm
    split at hm
    · simpa using hm
    split at hm
    · next h => subst h; simpa using hm
    · simp only [List.map_cons, List.mem_cons] at hm ⊢
      rcases hm with rfl | hm
      · exact .inr (.inl rfl)
      · rcases ih m hm with h | h
        · exact .inl h
        · exact .inr (.inr h)

theorem Accounts.put_inOrder {t : List (Nat × Account)} (h : (t.map (·.1)).Pairwise (· < ·)) (i : Nat) (a : Account) :
    ((Accounts.put t i a).map (·.1)).Pairwise (· < ·) := by
  induction t with
  | nil => simp [Accounts.put]
  | cons e t ih =>
    obtain ⟨k, b⟩ := e
    simp only [List.map_cons, List.pairwise_cons] at h
    unfold Accounts.put
    split
    · next hi =>
      simp only [List.map_cons, List.pairwise_cons, List.mem_cons]
      refine ⟨fun m hm => ?_, h⟩
      rcases hm with rfl | hm
      · exact hi
      · exact hi.trans (h.1 m hm)
    split
    · next hi => subst hi; simpa using h
    · next h1 h2 =>
      simp only [List.map_cons, List.pairwise_cons]
      refine ⟨fun m hm => ?_, ih h.2⟩
      rcases Accounts.put_keys t i a m hm with rfl | hm
      · omega
      · exact h.1 m hm

theorem Store.apply_inOrder {d : Store} (h : d.inOrder) (w : StoreWrite) : (d.apply w).inOrder := by
  cases w with
  | account i a => exact Accounts.put_inOrder h i a
  | _ => exact h

theorem Store.applyAll_inOrder (ws : List StoreWrite) {d : Store} (h : d.inOrder) : (d.applyAll ws).inOrder := by
  unfold Store.applyAll
  induction ws generalizing d with
  | nil => exact h
  | cons w ws ih => exact ih (Store.apply_inOrder h w)

theorem Store.changes_inOrder (l : List (List StoreWrite)) {d : Store} (h : d.inOrder) : (l.foldl Store.applyAll d).inOrder := by
  induction l generalizing d with
  | nil => exact h
  | cons ws l ih => exact ih (Store.applyAll_inOrder ws h)

theorem settleWrites_inOrder {s : State} (h : s.store.inOrder) (k : Nat) : (s.settleWrites k).store.inOrder :=
  Store.changes_inOrder _ h

theorem Store.judged_inOrder {d : Store} (h : d.inOrder) : d.judged.inOrder := by
  unfold Store.inOrder Store.judged
  rw [List.map_map]
  exact h

theorem Store.repaired_inOrder {d : Store} (h : d.inOrder) (bad : List RecordId) : (d.repaired bad).inOrder := by
  have puts (ks : List Nat) (t : List (Nat × Account)) (ht : (t.map (·.1)).Pairwise (· < ·)) :
      ((ks.foldl (fun t i => Accounts.put t i .suspect) t).map (·.1)).Pairwise (· < ·) := by
    induction ks generalizing t with
    | nil => exact ht
    | cons k ks ih => exact ih _ (Accounts.put_inOrder ht k _)
  exact puts _ _ h

theorem Store.withQueue_inOrder {d : Store} (h : d.inOrder) (q : SettlementQueue) : (d.withQueue q).inOrder := by
  unfold Store.inOrder Store.withQueue
  exact h

theorem checkStore_store (s : State) (l : List RecordId) : ∃ bad q, (s.checkStore l).store =
    ((s.store.repaired bad).withQueue q).judged := by
  unfold State.checkStore
  dsimp only
  rw [(suspects_rest _ _).2]
  exact ⟨_, _, rfl⟩

/-- A start-up's repairs list SUSPECT records at their indexes, and its judgement changes no index (R206, R208). -/
theorem checkStore_inOrder (s : State) (l : List RecordId) (h : s.store.inOrder) : (s.checkStore l).store.inOrder := by
  obtain ⟨bad, q, e⟩ := checkStore_store s l
  rw [e]
  exact Store.judged_inOrder (Store.withQueue_inOrder (Store.repaired_inOrder h bad) q)

theorem eraseCauses_inOrder {s : State} (h : s.store.inOrder) : s.eraseCauses.store.inOrder := by
  unfold State.eraseCauses Store.inOrder
  exact h

/-! ### Start-up -/

theorem startRoom_store (u : State) (b : Bool) : (u.startRoom b).store = u.store := by
  let room : State := { u with
    room := ⟨u.modeState, false, .idle⟩,
    terminals := Vector.ofFn fun t => .start ((u.store.terminals[t]).getD .single)
      (({ u with room := ⟨u.modeState, false, .idle⟩ } : State).startDisplay t .a)
      (({ u with room := ⟨u.modeState, false, .idle⟩ } : State).startDisplay t .b),
    bus := .start u.modeState.display.isSome }
  have posted : (room.post (.roomState u.modeState u.modeState u.settings.room.mode false .startUp)).store = u.store :=
    ((Books.refl room).post _).store
  unfold State.startRoom
  extract_lets
  split
  · exact (Books.refl _).suspend.store.trans posted
  · exact posted

/-- What the check of the stored records keeps, each record from its own premise (R206, R208). -/
theorem checkStore_form (s : State) (l : List RecordId) : (s.checkStore l).clock = s.clock ∧
    (s.events.ok → (s.checkStore l).events.ok) ∧ (Checked s.faults → Checked (s.checkStore l).faults) := by
  unfold State.checkStore
  dsimp only
  refine ⟨?_, fun he => posts_events _ _ (suspects_events _ _ he), fun hf => ?_⟩
  · rw [posts_clock, (suspects_rest _ _).1]
  · rw [posts_faults]
    exact suspects_checked _ _ hf

theorem startSlots_store (w : State) : w.startSlots.store = w.store := by
  unfold State.startSlots State.modGov
  rfl

/-- What the last stages leave in form, each from its own premise (R183, R209). -/
theorem startRoomed_form (w : State) (b : Bool) : (w.startSlots.startRoom b).outputsAgree ∧
    (w.events.ok → (w.startSlots.startRoom b).events.ok) ∧ (w.startSlots.startRoom b).clock = w.clock ∧
    (w.startSlots.startRoom b).store = w.store ∧ (w.faults.ok → (w.startSlots.startRoom b).faults.ok) := by
  obtain ⟨k1, k2, k3, k4⟩ := startSlots_keeps w
  have k5 := startSlots_store w
  generalize w.startSlots = v at k1 k2 k3 k4 k5 ⊢
  obtain ⟨x, y⟩ := startRoom_keeps v b
  exact ⟨x.agree k1, fun he => x.events (k2 ▸ he), y.trans k4, (startRoom_store v b).trans k5, fun hf => x.faults (k3 ▸ hf)⟩

/-- What the stages after the strap reading leave in form, each from its own premise (R205 to R209). -/
theorem startStages_form (s : State) (i : StartInput) : (s.startStages i).outputsAgree ∧
    (s.events.ok → (s.startStages i).events.ok) ∧ (s.startStages i).clock = s.clock ∧
    (s.store.inOrder → (s.startStages i).store.inOrder) ∧ (Checked s.faults → (s.startStages i).faults.ok) := by
  obtain ⟨c1, c2, c3⟩ := checkStore_form s i.failed
  have c4 := checkStore_inOrder s i.failed
  unfold State.startStages
  generalize s.checkStore i.failed = c at c1 c2 c3 c4 ⊢
  obtain ⟨k1, k2, k3, k4, k5⟩ := startRoomed_form c.eraseCauses i.interlock
  exact ⟨k1, fun h => k2 (c2 h), k3.trans c1, fun h => k4 ▸ eraseCauses_inOrder (c4 h), fun h => k5 (eraseCauses_keeps c (c3 h)).1⟩

/-- The records in form, of a state `s` and one `t` that follows it. -/
structure Formed (s t : State) : Prop where
  agree : s.outputsAgree → t.outputsAgree
  events : s.events.ok → t.events.ok
  clock : s.clock.ok → t.clock.ok
  store : s.store.inOrder → t.store.inOrder
  faults : s.faults.ok ∧ (∀ k, s.life = .strap k → s.faults = ⟨[], [], 0⟩) →
    t.faults.ok ∧ ∀ k, t.life = .strap k → t.faults = ⟨[], [], 0⟩

theorem Formed.refl (s : State) : Formed s s := ⟨id, id, id, id, id⟩

theorem Formed.trans {s t u : State} (h : Formed s t) (k : Formed t u) : Formed s u :=
  ⟨fun x => k.agree (h.agree x), fun x => k.events (h.events x), fun x => k.clock (h.clock x), fun x => k.store (h.store x),
    fun x => k.faults (h.faults x)⟩

theorem checked_none {f : Faults} (h : f = ⟨[], [], 0⟩) : Checked f := by subst h; exact ⟨.inl rfl, rfl, rfl⟩

/-- The stages after the strap reading leave the records in form (R205 to R209). -/
theorem startStages_formed (s : State) (i : StartInput)
    (hf : s.faults.ok ∧ (∀ k, s.life = .strap k → s.faults = ⟨[], [], 0⟩) → s.faults = ⟨[], [], 0⟩) :
    Formed s (s.startStages i) := by
  obtain ⟨a, b, c, d, e⟩ := startStages_form s i
  exact ⟨fun _ => a, b, fun h => c ▸ h, d, fun h => ⟨e (checked_none (hf h)), fun k h => nomatch h⟩⟩

/-- A strap reading of a state in the midst of one (R135). -/
theorem strapReread_formed (s : State) (k : Nat) (i : StartInput) (hk : s.life = .strap k) :
    Formed s (s.readStrap (k + 1) i) := by
  unfold State.readStrap
  split
  · exact ⟨id, id, id, id, fun h => ⟨h.1, fun _ _ => h.2 k hk⟩⟩
  · refine Formed.trans (t := { s with unit := strapAddress i.count, strapMarginal := strapIsMarginal i.count })
      ⟨id, id, id, id, id⟩ (startStages_formed _ i fun h => h.2 k hk)

/-- A start-up begins with every record that is not stored in form (R205). -/
theorem beginStart_formed (s : State) (i : StartInput) : Formed s (s.beginStart i) := by
  have faults : State.reset.faults.ok := Faults.empty_ok
  have clock : State.reset.clock.ok := ⟨by decide, by decide⟩
  let u : State := { State.reset with
    unit := s.unit, strapMarginal := s.strapMarginal, store := s.store, free := s.free, pending := s.pending }
  have begun : Formed s u := by
    refine ⟨fun _ n => ?_, fun _ => EventQueue.empty_ok, fun _ => clock, id, fun _ => ⟨faults, fun _ h => nomatch h⟩⟩
    show (State.reset.slot n).agrees
    simp [State.slot, State.reset, Slot.agrees, Slot.start, outputsOf]
  refine begun.trans ?_
  show Formed u (u.readStrap 1 i)
  unfold State.readStrap
  split
  · exact ⟨id, id, id, id, fun _ => ⟨faults, fun _ _ => rfl⟩⟩
  · refine Formed.trans (t := { u with unit := strapAddress i.count, strapMarginal := strapIsMarginal i.count })
      ⟨id, id, id, id, id⟩ (startStages_formed _ i fun _ => rfl)

theorem settleWrites_formed (s : State) (k : Nat) : Formed s (s.settleWrites k) :=
  ⟨id, id, id, fun h => settleWrites_inOrder h k, id⟩

theorem useFree_formed (s : State) : Formed s s.useFree := ⟨id, id, id, id, id⟩

theorem setPort_formed (s : State) (p : Port) (v : PortUnit) : Formed s (s.setPort p v) := by
  cases p <;> exact ⟨id, id, id, id, id⟩

/-! ### The plain commands -/

theorem exec_store (c : Instr) (hc : plainCommand c = true) {s : State} (h : s.store.inOrder) :
    (s.after (exec c s)).store.inOrder := by
  by_cases hw : c = .storeWriteDone
  · subst hw
    have k : s.writeDone.store.inOrder := by
      obtain ⟨-, -, -, -, -, -, -, -, store⟩ := writeDone_rest s
      exact store ▸ Store.applyAll_inOrder _ h
    show (match s.life with | .running | .restartDue => s.writeDone | .waiting | .strap _ => s).store.inOrder
    split
    · exact k
    · exact k
    all_goals exact h
  by_cases hl : c = .powerLoss
  · subst hl
    exact h
  rw [(exec_does c hc hw hl s).store]
  exact h

/-! ### A part that waits for its strap takes no command but power loss and the clock's (R135) -/

section
variable {s : State} {k : Nat} (hk : s.life = .strap k)
include hk

theorem ifRunning_strap (t : State) : s.ifRunning t = s := by simp [State.ifRunning, hk]

theorem listens_strap (p : Port) : s.listens p = false := by simp [State.listens, hk]

theorem frameArrives_strap (p : Port) (c : FrameClass) (act : State → State) : s.frameArrives p c act = s := by
  simp [State.frameArrives, listens_strap hk]

theorem take_strap {α : Type} (p : Port) (kind : Nat) (parsed : Except Status α) (go : α → State → State) :
    s.take p kind parsed go = s := by
  unfold State.take
  exact frameArrives_strap hk p .request _

theorem request_strap {α : Type} (p : Port) (kind : Nat) (parsed : Except Status α) (act : α → State → Answer) :
    s.request p kind parsed act = s := by
  unfold State.request
  exact take_strap hk p kind parsed _

/-- In the midst of the strap readings a request is not taken. -/
theorem exec_strap_request (c : Instr) {f : Port × Nat × List Byte} (hc : requestFields c = some f) :
    s.after (exec c s) = s := by
  cases c with
  | senseRead p => simp only [exec, execSenseRead, State.after, take_strap hk]
  | priceSetEntry | priceSetGeneral => simp only [exec, execPriceSetEntry, execPriceSetGeneral, State.after, State.priceSet, request_strap hk]
  | governorSetGeneral | governorSetClass =>
    simp only [exec, execGovernorSetGeneral, execGovernorSetClass, State.after, State.governorSet, request_strap hk]
  | senseSetInput | senseSetGeneral =>
    simp only [exec, execSenseSetInput, execSenseSetGeneral, State.after, State.senseSet, request_strap hk]
  | slotServiceTake | slotServiceReturn =>
    simp only [exec, execSlotServiceTake, execSlotServiceReturn, State.after, State.slotService, request_strap hk]
  | roomStatus | slotStatus | terminalStatus | portStatus | eventsRead | settlementRead | faultsRead | historyRead | grantsRead
  | waitlistRead =>
    simp only [exec, execRoomStatus, execSlotStatus, execTerminalStatus, execPortStatus, execEventsRead, execSettlementRead,
      execFaultsRead, execHistoryRead, execGrantsRead, execWaitlistRead, State.after, request_strap hk]
  | classSet | slotSet | terminalSet | roomSet | timeSet | budgetSet | roomMode | roomResume | restart =>
    simp only [exec, execClassSet, execSlotSet, execTerminalSet, execRoomSet, execTimeSet, execBudgetSet, execRoomMode,
      execRoomResume, execRestart, State.after, request_strap hk]
  | accountPut | accountCredit | accountState | accountRemove | accountRead | settlementRelease | slotStop | faultClear
  | waitlistRemove =>
    simp only [exec, execAccountPut, execAccountCredit, execAccountState, execAccountRemove, execAccountRead,
      execSettlementRelease, execSlotStop, execFaultClear, execWaitlistRemove, State.after, request_strap hk]
  | _ => cases hc

/-- In the midst of the strap readings no plain command touches the fault table. -/
theorem exec_strap_faults (c : Instr) (hc : plainCommand c = true) : (s.after (exec c s)).faults = s.faults := by
  cases c with
  | startUp | strapReread | hostFrameDiscard => cases hc
  | clockSecond => simp only [exec, execClockSecond, State.after, hk]
  | storeWriteDone => simp only [exec, execStoreWriteDone, State.after, hk]
  | powerLoss => rfl
  | frameGapTimeout l a =>
    cases l with
    | bus => exact congrArg State.faults (ifRunning_strap hk _)
    | host p => simp [exec, execFrameGapTimeout, State.after, listens_strap hk]
  | hostFrameOverrun p a => simp [exec, execHostFrameOverrun, State.after, listens_strap hk]
  | frameNotForUnit a => simp [exec, execFrameNotForUnit, State.after, listens_strap hk]
  | unknownKindRequest p kind b => simp only [exec, execUnknownKindRequest, State.after, frameArrives_strap hk, ite_self]
  | broadcastDropped | broadcastTimeSet | broadcastBudgetSet =>
    simp only [exec, execBroadcastDropped, execBroadcastTimeSet, execBroadcastBudgetSet, State.after, frameArrives_strap hk]
  | rotationPoll | probePoll | outOfTurnPoll | broadcastDisplay | terminalReply | malformedReply | replyTimeout
  | contentionWindow | briefDeadline | armedDeadline | lockingDeadline | unlockDeadline | collectWindowExpiry
  | recoveryDeadline | runSecond | overrun | paidSecondsExhausted | coolDownEnd | waitlistEntryExpiry | reservationExpiry
  | scanStart | conversionResult | scanEnd | onDemandConversionResult | minuteChange | interlockActive | interlockInactive
  | suspensionLimit | hostReplyEnd | broadcastBudgetDeferred => exact congrArg State.faults (ifRunning_strap hk _)
  | _ => exact congrArg State.faults (exec_strap_request hk _ rfl)

end

/-- Every plain command keeps the records in form. -/
theorem exec_formed (c : Instr) (hc : plainCommand c = true) (s : State) : Formed s (s.after (exec c s)) := by
  have h := exec_keeps c hc s
  refine ⟨h.agree, h.events, h.clock, exec_store c hc, fun hf => ⟨h.faults hf.1, fun k hk => ?_⟩⟩
  by_cases hs : ∃ j, s.life = .strap j
  · obtain ⟨j, hs⟩ := hs
    exact (exec_strap_faults hs c hc).trans (hf.2 j hs)
  · exact absurd hk (h.strap (fun j e => hs ⟨j, e⟩) k)

/-- Every command keeps the records in form. -/
theorem command_formed (c : Instr) {s t : State} (e : exec c s = .next t) : Formed s t := by
  cases c with
  | startUp i =>
    obtain rfl := exec_after e
    show Formed s (match s.life with
      | .waiting | .strap _ => (s.settleWrites 0).beginStart i
      | .running => (s.settleWrites (Config.writesDoneAtReset s.free)).useFree.beginStart i
      | .restartDue => (s.settleWrites s.writes.length).beginStart i)
    split
    iterate 2 exact (settleWrites_formed s _).trans (beginStart_formed _ i)
    · exact ((settleWrites_formed s _).trans (useFree_formed _)).trans (beginStart_formed _ i)
    · exact (settleWrites_formed s _).trans (beginStart_formed _ i)
  | strapReread i =>
    obtain rfl := exec_after e
    show Formed s (match s.life with
      | .strap k => s.readStrap (k + 1) i
      | .waiting | .running | .restartDue => s)
    split
    · exact strapReread_formed s _ i ‹_›
    all_goals exact Formed.refl s
  | hostFrameDiscard p chars =>
    exact frameCharacters_keep (P := Formed s) (fun p u v h => h.trans (setPort_formed u p v))
      (fun c u hc h => h.trans (exec_formed c hc u)) (Formed.refl s) e
  | _ => exact exec_after e ▸ exec_formed _ rfl s

end Sys2Proof.Machine

namespace Sys2Proof.Machine

/-- Settles O56: every command keeps the records in form (`command_formed`), and neither the replies that begin nor the queue of
commands is one of them. -/
theorem stepsKeepTheRecordsInForm : Obligations.StepsKeepTheRecordsInForm := by
  intro s t e
  have formed : Formed s t := by
    rcases step_cases e with rfl | ⟨u, v, rfl⟩ | ⟨c, rest, e⟩
    · exact Formed.refl t
    · exact ⟨id, id, id, id, id⟩
    · exact Formed.trans (t := s.withPending rest) ⟨id, id, id, id, id⟩ (command_formed c e)
  exact ⟨formed.agree, formed.events, formed.clock, formed.store, formed.faults⟩

end Sys2Proof.Machine


namespace Sys2Proof.Machine

/-! ### The store in step with the records (R204) -/

/-- A stored change that is done changes no record and nothing of what the store is to hold. -/
theorem writeDone_mirrored {s : State} (m : s.mirrored) : s.writeDone.mirrored := by
  obtain ⟨slots, -, holds, terminals, accounts, settlement, settings, toBe, -⟩ := writeDone_rest s
  have slot (n : Fin 24) : s.writeDone.slot n = s.slot n := by simp only [State.slot, slots]
  have terminal (t : Fin 16) : s.writeDone.terminal t = s.terminal t := by simp only [State.terminal, terminals]
  have account (i : Nat) : s.writeDone.account i = s.account i := by simp only [State.account, accounts]
  obtain ⟨h1, h2, h3, h4, h5, h6, h7, h8⟩ := m
  constructor
  · simpa only [toBe, account] using h1
  · rw [toBe, holds, h2]
  · simpa only [toBe, settlement] using h3
  · rw [toBe, settlement, h4]
  · rw [toBe, settings, h5]
  · simpa only [toBe, slot] using h6
  · simpa only [toBe, slot] using h7
  · simpa only [toBe, terminal] using h8

/-- A request is neither the end of a stored change nor power loss, whose effect on the store `Does` does not tell. -/
theorem requestCommand_does (p : Port) (kind : Byte) (body : List Byte) :
    requestCommand p kind body ≠ .storeWriteDone ∧ requestCommand p kind body ≠ .powerLoss := by
  unfold requestCommand
  split <;> exact ⟨by simp, by simp⟩

theorem broadcastCommand_does (p : Port) (kind : Byte) (body : List Byte) :
    broadcastCommand p kind body ≠ .storeWriteDone ∧ broadcastCommand p kind body ≠ .powerLoss := by
  unfold broadcastCommand
  split <;> exact ⟨by simp, by simp⟩

/-- Settles O59: `Does` for every plain command and for those that the characters of a frame carry; a stored change that is done
leaves what the store is to hold. -/
theorem commandsKeepTheStoreInStep : Obligations.CommandsKeepTheStoreInStep := by
  intro c s t hu hr hh hb p m e hl
  have w : Whole s := whole_iff.2 ⟨hh, hb⟩
  have plain (hc : plainCommand c = true) (hw : c ≠ .storeWriteDone) (hp : c ≠ .powerLoss) : t.mirrored :=
    (exec_after e ▸ exec_does c hc hw hp s).mirror w p m
  cases c with
  | startUp i => exact absurd rfl (hu i)
  | strapReread i => exact absurd rfl (hr i)
  | powerLoss =>
    obtain rfl := exec_after e
    exact absurd rfl hl
  | storeWriteDone =>
    obtain rfl := exec_after e
    show (match s.life with | .running | .restartDue => s.writeDone | .waiting | .strap _ => s).mirrored
    split
    iterate 2 exact writeDone_mirrored m
    all_goals exact m
  | hostFrameDiscard q chars =>
    have does : Does s t :=
      hostFrameDiscard_keeps (P := Does s) (fun u v h => h.setPort q v)
        (fun u v kind body h e => h.trans (exec_after e ▸ exec_does _ (requestCommand_plain q kind body)
          (requestCommand_does q kind body).1 (requestCommand_does q kind body).2 u))
        (fun u v kind body h e => h.trans (exec_after e ▸ exec_does _ (broadcastCommand_plain q kind body)
          (broadcastCommand_does q kind body).1 (broadcastCommand_does q kind body).2 u)) (Does.refl s) e
    exact does.mirror w p m
  | _ => exact plain rfl (by simp) (by simp)

end Sys2Proof.Machine

namespace Sys2Proof.Machine

/-- Settles O60. -/
theorem resetIsLawful : Obligations.ResetIsLawful := by
  have laws := whole_iff.1 reset_whole
  have free (i : Nat) : State.reset.account i = .free := rfl
  have empty (n : Fin 24) : State.reset.hold n = none := by simp [State.hold, State.reset]
  refine ⟨fun n => ?_, EventQueue.empty_ok, ⟨by decide, by decide⟩, Faults.empty_ok, laws.1, laws.2, List.Pairwise.nil,
    ?_, ?_, rfl, rfl⟩
  · simp [State.slot, State.reset, Slot.agrees, Slot.start, outputsOf]
  · refine ⟨reset_accounts_wf, fun i => ?_, fun i _ => free i, fun i h => ?_, fun i j h => ?_, ?_⟩
    · simp [free, empty, Account.free]
    · simp [free, Account.free]
    · exact absurd rfl (free i ▸ h)
    · have records : State.reset.settlement.records = [] := rfl
      simp [State.holdCount, empty, records]
  · exact .inr rfl

end Sys2Proof.Machine

namespace Sys2Proof.Machine

/-! ## A slot without a heat request, apart from what happens at the others

`Apart n a s`: what led from `a` to `s` left slot `n` as it was, if it had no heat request and was not RESERVED. The reckonings
of the governor, the reservations and the cycle ends of other slots are such. -/

section
variable {a s : State} {n : Fin 24}

theorem foldl_slots {α : Type} {f : State → α → State} (hf : ∀ s x, (f s x).slots = s.slots) (l : List α) (s : State) :
    (l.foldl f s).slots = s.slots := by
  induction l generalizing s with
  | nil => rfl
  | cons x l ih => exact (ih _).trans (hf s x)

theorem showLasting_slots (n : Fin 24) (d : Display) : (s.showLasting n d).slots = s.slots := by
  unfold State.showLasting
  split <;> rfl

theorem displayAll_slots (d : Display) : (s.displayAll d).slots = s.slots := by
  unfold State.displayAll
  refine foldl_slots (fun s t => ?_) allTerminals s
  rfl

theorem openDisplays_slots : s.openDisplays.slots = s.slots := by
  unfold State.openDisplays
  refine foldl_slots (fun s t => ?_) allTerminals s
  rfl

theorem roomDisplay_slots (r : RoomState) : (s.roomDisplay r).slots = s.slots := by
  unfold State.roomDisplay
  split
  · rfl
  · split
    · rfl
    · dsimp only
      exact displayAll_slots _

theorem changeRoom_slots (r : RoomState) (c : RoomCause) : (s.changeRoom r c).slots = s.slots :=
  (roomDisplay_slots _).trans (State.post_slots _ _)

theorem slot_of_slots {t : State} (h : t.slots = s.slots) (n : Fin 24) : t.slot n = s.slot n := by simp only [State.slot, h]

/-- What happened left slot `n` as it was, if it had no heat request and was not RESERVED. -/
def Apart (n : Fin 24) (a s : State) : Prop :=
  ¬ a.asked n → (a.slot n).state ≠ .reserved → ¬ s.asked n ∧ s.slot n = a.slot n

namespace Apart

theorem refl (n : Fin 24) (a : State) : Apart n a a := fun h _ => ⟨h, rfl⟩

theorem trans {b c : State} (h : Apart n a b) (k : Apart n b c) : Apart n a c := fun hu hr => by
  obtain ⟨bu, bs⟩ := h hu hr
  obtain ⟨cu, cs⟩ := k bu (bs ▸ hr)
  exact ⟨cu, cs.trans bs⟩

theorem ite {c : Prop} [Decidable c] {t u : State} (ht : Apart n a t) (hu : Apart n a u) : Apart n a (if c then t else u) := by
  split <;> assumption

theorem quiet {t : State} (h : Apart n a s) (q : Quiet s t) (e : t.slot n = s.slot n) : Apart n a t :=
  h.trans fun hu _ => ⟨mt (q.asked n).1 hu, e⟩

theorem change {t : State} (h : Apart n a s) (hs : t.slots = s.slots) (hg : t.gov = s.gov) : Apart n a t :=
  h.trans fun hu _ => ⟨by simpa only [State.asked, State.granted, State.waiting, hg] using hu, slot_of_slots hs n⟩

theorem post (h : Apart n a s) (b : EventBody) : Apart n a (s.post b) := h.change (by simp) (by simp)

theorem postSlot (h : Apart n a s) (m : Fin 24) : Apart n a (s.postSlot m) := h.post _

theorem setQueue (h : Apart n a s) (c : Fin 4) (q : List WaitEntry) : Apart n a (s.setQueue c q) := h.change rfl rfl

theorem showLasting (h : Apart n a s) (m : Fin 24) (d : Display) : Apart n a (s.showLasting m d) :=
  h.quiet ((Quiet.refl s).showLasting m d) (slot_of_slots (showLasting_slots m d) n)

theorem modSlot (h : Apart n a s) {m : Fin 24} (hm : m ≠ n) (f : Slot → Slot) : Apart n a (s.modSlot m f) :=
  h.trans fun hu _ => ⟨hu, State.slot_modSlot_ne s hm f⟩

theorem setGrant (h : Apart n a s) {m : Fin 24} (hm : m ≠ n) (g : Bool) : Apart n a (s.setGrant m g) := h.modSlot hm _

theorem enter (h : Apart n a s) {m : Fin 24} (hm : m ≠ n) (st : SlotState) : Apart n a (s.enter m st) :=
  h.trans fun hu _ => ⟨mt (enter_asked m n st).1 hu, by rw [State.enter_slot, if_neg hm]⟩

theorem reckon (h : Apart n a s) (x y z : Bool) : Apart n a (s.reckon x y z) :=
  h.trans fun hu _ => ⟨mt ((reckon_reckoned s x y z).asked n).1 hu, reckon_slot s x y z n hu⟩

theorem enterTold (h : Apart n a s) {m : Fin 24} (hm : m ≠ n) (st : SlotState) : Apart n a (s.enterTold m st) :=
  (h.enter hm st).reckon _ _ _

theorem reserve (h : Apart n a s) {m : Fin 24} (hm : m ≠ n) (c : Fin 4) (e : WaitEntry) (q : List WaitEntry) :
    Apart n a (s.reserve m c e q) := by
  have k := (h.setQueue c q).modSlot hm fun x => { x with
    reservation := some ⟨e.card, e.account, e.joined, (s.setQueue c q).settings.room.window * 60⟩ }
  exact ((Apart.ite (k.postSlot m) (k.enter hm .reserved)).post _).showLasting m _

theorem offer (h : Apart n a s) {m : Fin 24} (hm : m ≠ n) : Apart n a (s.offer m) := by
  unfold State.offer
  split
  · exact h
  · split
    · exact h
    · exact h.reserve hm _ _ _

theorem enterIdle (h : Apart n a s) {m : Fin 24} (hm : m ≠ n) : Apart n a (s.enterIdle m) := (h.enter hm .idle).offer hm

theorem dropReservation (h : Apart n a s) {m : Fin 24} (hm : m ≠ n) : Apart n a (s.dropReservation m) := h.modSlot hm _

theorem handOn (h : Apart n a s) {m : Fin 24} (hm : m ≠ n) : Apart n a (s.handOn m) := by
  have k := h.dropReservation hm
  unfold State.handOn
  dsimp only
  split
  · exact k.enterIdle hm
  · split
    · exact k.enterIdle hm
    · exact k.reserve hm _ _ _

theorem foldl {α : Type} {f : State → α → State} (hf : ∀ s x, Apart n a s → Apart n a (f s x)) (l : List α) (s : State)
    (h : Apart n a s) : Apart n a (l.foldl f s) := by
  induction l generalizing s with
  | nil => exact h
  | cons x l ih => exact ih _ (hf s x h)

/-- An act at RESERVED slots only. -/
theorem atReserved {t : State} (h : Apart n a s) {m : Fin 24} (ht : m ≠ n → Apart n a t) :
    Apart n a (if (s.slot m).state = .reserved then t else s) := by
  intro hu hr
  obtain ⟨su, ss⟩ := h hu hr
  split
  · next e => exact ht (fun k => hr (ss ▸ k ▸ e)) hu hr
  · exact ⟨su, ss⟩

theorem clearWaitlist (h : Apart n a s) : Apart n a s.clearWaitlist := by
  unfold State.clearWaitlist Machine.overSlots
  exact Apart.foldl (fun _ m k => k.atReserved fun hm => (k.dropReservation hm).enterIdle hm) allSlots _
    (h.change (t := { s with queues := Vector.replicate 4 [] }) rfl rfl)

theorem changeRoom (h : Apart n a s) (r : RoomState) (c : RoomCause) : Apart n a (s.changeRoom r c) :=
  h.quiet ((Quiet.refl s).changeRoom r c) (slot_of_slots (changeRoom_slots r c) n)

theorem openDisplays (h : Apart n a s) : Apart n a s.openDisplays :=
  h.quiet (Quiet.refl s).openDisplays (slot_of_slots openDisplays_slots n)

theorem enterRoom (h : Apart n a s) (r : RoomState) (c : RoomCause) : Apart n a (s.enterRoom r c) :=
  Apart.ite (h.changeRoom r c).openDisplays (h.changeRoom r c).clearWaitlist

theorem holdsEnded (h : Apart n a s) : Apart n a s.holdsEnded := Apart.ite (h.enterRoom _ _) h

theorem removeRequest (h : Apart n a s) (m : Fin 24) : Apart n a (s.removeRequest m) :=
  h.trans fun hu _ => ⟨fun k => hu (k.imp (fun k => ((State.removeRequest_granted m n).1 k).1)
    fun k => ((State.removeRequest_waiting m n).1 k).1), rfl⟩

theorem tidyStamp (h : Apart n a s) : Apart n a s.tidyStamp :=
  h.quiet (Quiet.refl s).tidyStamp (by unfold State.tidyStamp; split <;> rfl)

theorem dropGrant (h : Apart n a s) {m : Fin 24} (hm : m ≠ n) : Apart n a (s.dropGrant m) := (h.removeRequest m).setGrant hm _

theorem withdraw (h : Apart n a s) (m : Fin 24) : Apart n a (s.withdraw m) := (h.removeRequest m).tidyStamp

theorem giveUpGrant (h : Apart n a s) {m : Fin 24} (hm : m ≠ n) : Apart n a (s.giveUpGrant m) := (h.dropGrant hm).reckon _ _ _

theorem dropHeat (h : Apart n a s) {m : Fin 24} (hm : m ≠ n) (b : Bool := true) : Apart n a (s.dropHeat m b) := by
  have k := h.modSlot hm fun x => { x with heatReq := false }
  exact Apart.ite (Apart.ite (k.giveUpGrant hm) (k.dropGrant hm)) (k.withdraw m)

theorem settle (h : Apart n a s) (m : Fin 24) (r : Reason) (f : Option (FaultCode × Option Nat)) :
    Apart n a (s.settle m r f) := h.change (settle_rest s m r f).1 (settle_rest s m r f).2

theorem enterEnded (h : Apart n a s) {m : Fin 24} (hm : m ≠ n) (st : SlotState) (b : Bool) : Apart n a (s.enterEnded m st b) :=
  Apart.ite (h.enterTold hm st) (h.enter hm st)

theorem cycleEnd (h : Apart n a s) {m : Fin 24} (hm : m ≠ n) (r : Reason) (f : Option (FaultCode × Option Nat))
    (st : SlotState) (b : Bool := true) : Apart n a (s.cycleEnd m r f st b) := by
  have k := (((h.settle m r f).post (.cycleEnd m s.settlement.next)).dropHeat hm b).modSlot hm
    fun x => { x with warning := false, resume := none }
  unfold State.cycleEnd
  split
  · exact h
  · exact Apart.holdsEnded (Apart.ite (k.enterIdle hm) (k.enterEnded hm st b))

end Apart

/-! ### The slot of a cycle end (R6) -/

/-- What giving up heat leaves of a slot. -/
theorem dropHeat_slot (s : State) (n : Fin 24) (b : Bool) : ¬ (s.dropHeat n b).asked n ∧
    ∃ o z, (s.dropHeat n b).slot n = { s.slot n with heatReq := false, heatGrant := false, outputs := o, sense := z } := by
  unfold State.dropHeat
  dsimp only
  have same : (s.modSlot n fun x => { x with heatReq := false }).slot n = { s.slot n with heatReq := false } :=
    State.slot_modSlot_same _ n _
  generalize s.modSlot n (fun x => { x with heatReq := false }) = t at *
  have given : (t.dropGrant n).slot n =
      { t.slot n with heatGrant := false, outputs := outputsOf (t.slot n).state false,
                      sense := { (t.slot n).sense.disturb with armed := false } } := State.slot_modSlot_same _ n _
  split
  · split
    · refine ⟨(giveUpGrant_dropped t n).asked, ?_⟩
      rw [State.giveUpGrant, reckon_slot _ _ _ _ n (dropGrant_dropped t n).asked, given, same]
      exact ⟨_, _, rfl⟩
    · rw [given, same]
      exact ⟨(dropGrant_dropped t n).asked, _, _, rfl⟩
  · next flag =>
    have flag : (t.slot n).heatGrant = false := by simpa using flag
    have left : (t.withdraw n).slot n = t.slot n := by
      unfold State.withdraw State.tidyStamp
      split <;> rfl
    refine ⟨(withdraw_dropped t n flag).asked, (s.slot n).outputs, (s.slot n).sense, ?_⟩
    rw [left, same]
    rw [same] at flag
    rw [← flag]

/-- A cycle that ends into another state than IDLE leaves its slot in that state, entered without a grant (R3, R6). -/
theorem cycleEnd_slot (s : State) (n : Fin 24) (r : Reason) (f : Option (FaultCode × Option Nat)) {st : SlotState}
    (h1 : st ≠ .idle) (h2 : st ≠ .reserved) (hh : (s.hold n).isSome) (b : Bool := true) :
    ¬ (s.cycleEnd n r f st b).asked n ∧
      ∃ z t, (s.cycleEnd n r f st b).slot n = { s.slot n with
        heatReq := false, heatGrant := false, warning := false, resume := none, state := st, outputs := outputsOf st false,
        sense := z, timer := t } := by
  unfold State.cycleEnd
  split
  · next e => simp [e] at hh
  dsimp only
  have start : ((s.settle n r f).post (.cycleEnd n s.settlement.next)).slot n = s.slot n :=
    slot_of_slots ((State.post_slots _ _).trans (settle_rest s n r f).1) n
  generalize (s.settle n r f).post (.cycleEnd n s.settlement.next) = t at *
  obtain ⟨du, o, z, ds⟩ := dropHeat_slot t n b
  generalize t.dropHeat n b = u at *
  have ms : (u.modSlot n fun x => { x with warning := false, resume := none }).slot n =
      { u.slot n with warning := false, resume := none } := State.slot_modSlot_same _ n _
  have mu : ¬ (u.modSlot n fun x => { x with warning := false, resume := none }).asked n := du
  generalize u.modSlot n (fun x => { x with warning := false, resume := none }) = v at *
  rw [if_neg h1]
  have entered : (v.enter n st).slot n = { v.slot n with
      state := st, outputs := outputsOf st (v.slot n).heatGrant, sense := (v.slot n).sense.disturb,
      timer := (v.stateSeconds st).map (v.elapsed + ·) } := by rw [State.enter_slot, if_pos rfl]
  have eu : ¬ (v.enter n st).asked n := mt (enter_asked n n st).1 mu
  obtain ⟨wu, ws⟩ : ¬ (v.enterEnded n st b).asked n ∧ (v.enterEnded n st b).slot n = (v.enter n st).slot n := by
    rcases enterEnded_cases v n st b with e | e <;> rw [e]
    · exact ⟨eu, rfl⟩
    · exact ⟨mt ((reckon_reckoned _ _ _ _).asked n).1 eu, reckon_slot _ _ _ _ n eu⟩
  have last := (Apart.refl n (v.enterEnded n st b)).holdsEnded wu (by rw [ws, entered]; exact h2)
  refine ⟨last.1, ?_⟩
  rw [last.2, ws, entered, ms, ds, start]
  exact ⟨_, _, rfl⟩

end

end Sys2Proof.Machine

namespace Sys2Proof.Machine

/-! ## The cycle end as its callers see it (R6, R90, R91) -/

section
variable {s : State}

/-- An event posted before operations that only append to the queue is told (R198). -/
theorem told_of_post {u t : State} {e : EventBody} (hu : u.events = s.events) (hc : u.clock = s.clock)
    (h : (u.post e).events.queue <+: t.events.queue) : s.told e t := by
  intro room
  have posted : (u.post e).events.queue = s.events.queue ++ [⟨s.events.next, e, s.clock⟩] := by
    simp [State.post, hu, hc, room]
  exact posted ▸ h

/-- What a settlement leaves alone of the state (R90). -/
theorem settle_aside (n : Fin 24) (r : Reason) (f : Option (FaultCode × Option Nat)) :
    (s.settle n r f).events = s.events ∧ (s.settle n r f).clock = s.clock ∧ (s.settle n r f).queues = s.queues ∧
      (s.settle n r f).faults = s.faults := by
  unfold State.settle
  split <;> exact ⟨rfl, rfl, rfl, rfl⟩

/-- CYCLE_END is the first event of a cycle end (R6). -/
theorem cycleEnd_told {n : Fin 24} (hn : (s.hold n).isSome) (r : Reason) (f : Option (FaultCode × Option Nat))
    (st : SlotState) (b : Bool := true) : s.told (.cycleEnd n s.settlement.next) (s.cycleEnd n r f st b) := by
  obtain ⟨events, clock, -, -⟩ := settle_aside (s := s) n r f
  have k := Calm.modSlot ((Calm.refl ((s.settle n r f).post (.cycleEnd n s.settlement.next))).dropHeat n b) n
    (fun x => { x with warning := false, resume := none }) fun _ => ⟨rfl, rfl⟩
  refine told_of_post events clock ?_
  unfold State.cycleEnd
  split
  · next e => simp [e] at hn
  · exact (Calm.holdsEnded (Calm.ite (k.enterIdle n) (k.enterEnded n st b))).events

/-- The settlement is one change of the store (R91). -/
theorem cycleEnd_writes {n : Fin 24} {h : Hold} (hn : s.hold n = some h) (r : Reason) (f : Option (FaultCode × Option Nat))
    (st : SlotState) (b : Bool := true) : (s.cycleEnd n r f st b).writes =
      s.writes ++ [[.account h.account ((s.cycleEnd n r f st b).account h.account), .hold n none,
        .place (s.settlement.place s.settlement.records.length) (some (s.settlementRecord n h r f)),
        .header (s.cycleEnd n r f st b).settlement.header]] := by
  have k := (cycleEnd_calm n r f st b (by rw [hn]; rfl)).books
  simp only [State.books, Prod.mk.injEq] at k
  obtain ⟨⟨accounts, -, settlement, -⟩, -, writes⟩ := k
  simp only [State.account, accounts, settlement, writes]
  simp [State.settle, hn, State.write, State.setAccount, State.setHold, Accounts.read_write, State.account]

theorem reached_of {d : Option Nat} {k : Nat} (h : d = some k) (hk : k ≤ s.elapsed) : s.reached d = true := by
  simp [State.reached, h, hk]

theorem ifRunning_of (h : s.life = .running) (t : State) : s.ifRunning t = t := by simp [State.ifRunning, h]

end

/-- Settles O13: each of the three commands is a cycle end. -/
theorem timersEndCycles : Obligations.TimersEndCycles := by
  intro s n h c r st hh hb running hn hc
  have w : Whole s := whole_iff.2 ⟨hh, hb⟩
  have ends (idle : st.busy = false) (free : st ≠ .reserved) (e : exec c s = .next (s.cycleEnd n r none st)) :
      ∃ t, exec c s = .next t ∧ s.cycleEnded n h r none st t ∧ s.told (.cycleEnd n s.settlement.next) t ∧
        t.writes = s.writes ++ [[.account h.account (t.account h.account), .hold n none,
          .place (s.settlement.place s.settlement.records.length) (some (s.settlementRecord n h r none)),
          .header t.settlement.header]] :=
    ⟨_, e, cycleEnd_ended w n h hn r none idle free, cycleEnd_told (by simp [hn]) r none st, cycleEnd_writes hn r none st⟩
  rcases hc with ⟨d, timer, due, ⟨rfl, state, rfl, rfl⟩ | ⟨rfl, state, rfl, rfl⟩⟩ |
    ⟨rfl, state, kind, phase, cool, rfl, rfl⟩
  · exact ends rfl nofun (by simp [exec, execArmedDeadline, ifRunning_of running, state, reached_of timer due])
  · exact ends rfl nofun (by simp [exec, execRecoveryDeadline, ifRunning_of running, state, reached_of timer due])
  · exact ends rfl nofun (by simp [exec, execCoolDownEnd, ifRunning_of running, state, kind, phase, cool])

/-- Settles O22: a stop press is a cycle end whose reason and target the slot's state gives. -/
theorem stopPressEndsTheCycle : Obligations.StopPressEndsTheCycle := by
  intro s n
  refine ⟨fun idle => ?_, fun h hh hb hn => ?_⟩
  · unfold State.stopPress
    cases e : (s.slot n).state <;> simp_all [SlotState.busy]
  · have w : Whole s := whole_iff.2 ⟨hh, hb⟩
    refine ⟨fun state => ?_, fun state => ?_, fun state => ?_⟩
    · have press : s.stopPress n = s.cycleEnd n .userStop none .faulted := by
        unfold State.stopPress
        rcases state with e | e | e <;> rw [e]
      have ended := cycleEnd_ended w n h hn .userStop none (st := .faulted) rfl nofun
      rw [press]
      obtain ⟨-, z, d, slot⟩ := cycleEnd_slot s n .userStop none (st := .faulted) nofun nofun (by simp [hn])
      exact ⟨ended, by rw [slot]; rfl⟩
    · have press : s.stopPress n = s.cycleEnd n .abandoned none .faulted := by simp [State.stopPress, state]
      rw [press]
      exact cycleEnd_ended w n h hn .abandoned none (st := .faulted) rfl nofun
    · have press : s.stopPress n = s.cycleEnd n .notStarted none .idle := by simp [State.stopPress, state]
      rw [press]
      exact cycleEnd_ended w n h hn .notStarted none (st := .idle) rfl nofun

theorem Calm.booksKept {a s : State} (h : Calm a s) : a.booksKept s := by
  have k := h.books
  simp only [State.books, Prod.mk.injEq] at k
  obtain ⟨⟨accounts, holds, settlement, -⟩, -, writes⟩ := k
  exact ⟨accounts, holds, settlement, writes⟩

theorem admits_iff (s : State) (c : Fin 4) :
    s.admits c = true ↔ s.gov.motor + (s.govClass c).motor + s.gov.stray ≤ s.settings.governor.budget := by
  simp only [State.admits, decide_eq_true_eq]
  omega

/-- Settles O23: the tests of R11 in their order; past them an ARMED slot, which has no heat request, enters LOCKING. -/
theorem startPressIsTested : Obligations.StartPressIsTested := by
  intro s n c cls
  refine ⟨fun other => by simp [State.startPress, other], fun armed => ⟨fun room => ?_, fun room door => ?_, fun room door => ?_⟩⟩
  · simp [State.startPress, armed, room]
  · simp [State.startPress, armed, room, door]
  · have tested : s.startPress n = if s.admits c then s.enterTold n .locking else s.showBrief n .waitPower := by
      simp [State.startPress, armed, room, door, cls]
    refine ⟨fun above => ?_, fun fits hh hb => ?_⟩
    · have no : ¬ s.admits c = true := fun k => absurd ((admits_iff s c).1 k) (by omega)
      rw [tested, if_neg no]
    · have w : Whole s := whole_iff.2 ⟨hh, hb⟩
      obtain ⟨unasked, -⟩ := Law.unasked w (n := n) id (by rw [armed]; exact cold_armed)
      rw [tested, if_pos ((admits_iff s c).2 fits), enterTold_slot n n .locking unasked, if_pos rfl]
      exact ⟨rfl, rfl, rfl, ((Calm.refl s).enterTold n .locking).booksKept⟩

end Sys2Proof.Machine

namespace Sys2Proof.Machine

/-! ## The offer of a slot to its class queue (R5, R162, R163) -/

section
variable {s : State}

theorem aside_reserve (n : Fin 24) (c : Fin 4) (e : WaitEntry) (q : List WaitEntry) :
    (s.reserve n c e q).aside = (s.setQueue c q).aside := by
  unfold State.reserve
  have h : ((s.setQueue c q).modSlot n fun x => { x with
    reservation := some ⟨e.card, e.account, e.joined, (s.setQueue c q).settings.room.window * 60⟩ }).aside =
      (s.setQueue c q).aside := rfl
  dsimp only
  generalize (s.setQueue c q).modSlot n (fun x => { x with
    reservation := some ⟨e.card, e.account, e.joined, (s.setQueue c q).settings.room.window * 60⟩ }) = t at *
  rw [aside_showLasting, aside_post]
  split
  · exact (aside_post _).trans h
  · exact (aside_enter _ _).trans h

theorem reserve_slot (n : Fin 24) (c : Fin 4) (e : WaitEntry) (q : List WaitEntry) :
    ((s.reserve n c e q).slot n).state = .reserved ∧
      ((s.reserve n c e q).slot n).reservation = some ⟨e.card, e.account, e.joined, s.settings.room.window * 60⟩ := by
  unfold State.reserve
  have h : ((s.setQueue c q).modSlot n fun x => { x with
    reservation := some ⟨e.card, e.account, e.joined, (s.setQueue c q).settings.room.window * 60⟩ }).slot n =
      { s.slot n with reservation := some ⟨e.card, e.account, e.joined, s.settings.room.window * 60⟩ } :=
    State.slot_modSlot_same _ n _
  dsimp only
  generalize (s.setQueue c q).modSlot n (fun x => { x with
    reservation := some ⟨e.card, e.account, e.joined, (s.setQueue c q).settings.room.window * 60⟩ }) = t at *
  rw [slot_of_slots (showLasting_slots _ _), slot_of_slots (State.post_slots _ _)]
  split
  · next k =>
    have posted : (t.postSlot n).slot n = t.slot n := slot_of_slots (State.post_slots _ _) n
    rw [posted]
    exact ⟨k, by rw [h]⟩
  · rw [State.enter_slot, if_pos rfl, h]
    exact ⟨rfl, rfl⟩

theorem faults_of_aside {t : State} (h : t.aside = s.aside) : t.faults = s.faults := by
  have e : ∀ t : State, t.aside.faults = t.faults := fun _ => rfl
  rw [← e t, ← e s, h]

theorem settings_of_aside {t : State} (h : t.aside = s.aside) : t.settings = s.settings := by
  have e : ∀ t : State, t.aside.settings = t.settings := fun _ => rfl
  rw [← e t, ← e s, h]

/-- An IDLE slot that is offered is RESERVED for the head entry of its class queue, or stays IDLE (R162). -/
theorem offer_offered {n : Fin 24} (idle : (s.slot n).state = .idle) : s.offered n (s.offer n) := by
  constructor
  · intro c e rest cls head
    have taken : s.offer n = s.reserve n c e rest := by simp [State.offer, cls, head]
    obtain ⟨state, reservation⟩ := reserve_slot (s := s) n c e rest
    rw [taken]
    refine ⟨state, reservation, fun d => ?_⟩
    simp only [State.queue, queues_of_aside (aside_reserve n c e rest)]
    exact (State.queue_setQueue s c d rest).trans (if_congr eq_comm rfl rfl)
  · intro empty
    have stays : s.offer n = s := by
      unfold State.offer
      split
      · rfl
      · next c cls => rw [empty c cls]
    rw [stays]
    exact ⟨idle, rfl⟩

theorem offered_of {t u : State} {n : Fin 24} (h : t.offered n u) (cfg : (t.slot n).cfg = (s.slot n).cfg)
    (queues : t.queues = s.queues) (settings : t.settings = s.settings) : s.offered n u := by
  obtain ⟨taken, idle⟩ := h
  simp only [State.slotCls, State.queue, cfg, queues, settings] at taken idle
  exact ⟨taken, idle⟩

theorem enterIdle_offered (s : State) (n : Fin 24) : s.offered n (s.enterIdle n) := by
  have aside := aside_enter (s := s) n .idle
  exact offered_of (offer_offered (by rw [State.enter_state, if_pos rfl])) (by rw [State.enter_slot, if_pos rfl])
    (queues_of_aside aside) (settings_of_aside aside)

theorem offer_faults (s : State) (n : Fin 24) : (s.offer n).faults = s.faults := by
  unfold State.offer
  split
  · rfl
  · split
    · rfl
    · exact faults_of_aside (s := s.setQueue _ _) (aside_reserve n _ _ _)

theorem enterIdle_faults (s : State) (n : Fin 24) : (s.enterIdle n).faults = s.faults :=
  (offer_faults _ n).trans (faults_of_aside (aside_enter n .idle))

/-- Slots beside an act are as `Slot.bystander` says where the act leaves their other fields alone. -/
theorem bystander_of {t : State} {n : Fin 24} (h : Bare s t) (k : Beside n s t) (m : Fin 24) (hm : m ≠ n) :
    (s.slot m).bystander (t.slot m) := ⟨h m, k m hm⟩

theorem enterIdle_bystander (s : State) (n m : Fin 24) (hm : m ≠ n) : (s.slot m).bystander ((s.enterIdle n).slot m) :=
  bystander_of ((Bare.refl s).enterIdle n)
    (((Beside.refl n s).enter .idle).offer (by rw [State.enter_state, if_pos rfl])) m hm

end

/-- Settles O16: the deadline is an entry to IDLE, which offers the slot. -/
theorem collectWindowFreesTheSlot : Obligations.CollectWindowFreesTheSlot := by
  intro s n d _ _ running state timer due
  refine ⟨s.enterIdle n, by simp [exec, execCollectWindowExpiry, ifRunning_of running, state, reached_of timer due],
    enterIdle_offered s n, ((Calm.refl s).enterIdle n).booksKept, enterIdle_faults s n, (Bare.refl s).enterIdle n n,
    fun m hm => enterIdle_bystander s n m hm, ((Acts.refl s).enterIdle n).outside⟩

end Sys2Proof.Machine

namespace Sys2Proof.Machine

/-! ## Heat given up (R20, R116) -/

section
variable {a s : State}

theorem Beside.modSlot {n : Fin 24} (h : Beside n a s) (f : Slot → Slot) : Beside n a (s.modSlot n f) :=
  h.trans fun m hm => .inl (by rw [State.slot_modSlot_ne s hm.symm])

theorem Beside.reckon {n : Fin 24} (h : Beside n a s) (w : Whole s) (x y z : Bool) : Beside n a (s.reckon x y z) :=
  h.trans fun m _ => reckon_beside s x y z w.heated m

theorem Beside.enterTold {n : Fin 24} (h : Beside n a s) (st : SlotState) (w : Whole (s.enter n st)) :
    Beside n a (s.enterTold n st) := (h.enter st).reckon w _ _ _

theorem Beside.dropHeat {n : Fin 24} (h : Beside n a s) (w : Whole s) (b : Bool := true) : Beside n a (s.dropHeat n b) := by
  have k := h.modSlot fun x => { x with heatReq := false }
  have w : Whole (s.modSlot n fun x => { x with heatReq := false }) :=
    Law.quiet w ((Quiet.refl s).modSlot n (fun x => { x with heatReq := false }) fun _ => ⟨rfl, rfl⟩)
  unfold State.dropHeat
  dsimp only
  generalize s.modSlot n (fun x => { x with heatReq := false }) = t at *
  have dropped : Beside n a (t.dropGrant n) := Beside.modSlot (s := t.removeRequest n) k _
  split
  · split
    · exact dropped.reckon (w.dropGrant n) _ _ _
    · exact dropped
  · exact Beside.quiet (s := t.removeRequest n) k (Quiet.refl _).tidyStamp

theorem slot_bare_ne {n m : Fin 24} (hm : n ≠ m) (f : Slot → Slot) : ((s.modSlot n f).slot m).bare = (s.slot m).bare := by
  rw [State.slot_modSlot_ne s hm]

end

/-- Settles O18: the reload is one change of the slot, and the change to COOL gives the slot's heat up (`dropHeat_slot`). -/
theorem paidSecondsRunOut : Obligations.PaidSecondsRunOut := by
  intro s n running state dryer phase remaining
  refine ⟨fun more => ?_, fun none hh hb c cls => ?_⟩
  · simp [exec, execPaidSecondsExhausted, ifRunning_of running, state, dryer, phase, remaining, more, State.reload,
      Nat.mul_comm]
  · have w : Whole s := whole_iff.2 ⟨hh, hb⟩
    refine ⟨s.coolDown n, by simp [exec, execPaidSecondsExhausted, ifRunning_of running, state, dryer, phase, remaining, none],
      ?_⟩
    have cool : s.coolTime n = (s.cls c).cool := by simp [State.coolTime, cls]
    have q : Quiet s (s.modSlot n fun x => { x with phase := .cool, cool := s.coolTime n }) := by
      refine (Quiet.refl s).modSlot n _ ?_
      exact fun _ => ⟨rfl, rfl⟩
    have beside := Beside.modSlot (Beside.refl n s) fun x => { x with phase := .cool, cool := s.coolTime n }
    have slot := State.slot_modSlot_same s n fun x => { x with phase := .cool, cool := s.coolTime n }
    have other := fun m (hm : m ≠ n) =>
      State.slot_modSlot_ne s (Ne.symm hm) (n := n) (m := m) fun x => { x with phase := .cool, cool := s.coolTime n }
    have aside := aside_modSlot (s := s) n fun x => { x with phase := .cool, cool := s.coolTime n }
    have acts := ((Acts.refl s).coolDown n).outside
    have calm : Calm s (s.modSlot n fun x => { x with phase := .cool, cool := s.coolTime n }) := by
      refine (Calm.refl s).modSlot n _ ?_
      exact fun _ => ⟨rfl, rfl⟩
    have wt := Law.quiet w q
    unfold State.coolDown at acts ⊢
    dsimp only at acts ⊢
    generalize s.modSlot n (fun x => { x with phase := .cool, cool := s.coolTime n }) = t at *
    obtain ⟨unasked, o, z, left⟩ := dropHeat_slot t n true
    have bare := Bare.dropHeat t n
    refine ⟨?_, ?_, unasked, ?_, (calm.dropHeat n).booksKept, fun m hm => ⟨?_, beside.dropHeat wt true m hm⟩, ?_, acts⟩
    · rw [left, slot]; exact state
    · rw [left]
    · rw [left, slot, cool]; rfl
    · rw [bare m, slot_bare_ne (Ne.symm hm), other m hm]
    · exact queues_of_aside ((aside_dropHeat n true).trans aside)

end Sys2Proof.Machine

namespace Sys2Proof.Machine

/-! ## A raise (R137 to R143) -/

section
variable {s t : State}

/-! ### The open-fault table is left alone by the acts at the slots -/

theorem foldl_faults {α : Type} {f : State → α → State} (hf : ∀ s x, (f s x).faults = s.faults) (l : List α) (s : State) :
    (l.foldl f s).faults = s.faults := by
  induction l generalizing s with
  | nil => rfl
  | cons x l ih => exact (ih _).trans (hf s x)

theorem enter_faults (s : State) (n : Fin 24) (st : SlotState) : (s.enter n st).faults = s.faults :=
  faults_of_aside (aside_enter n st)

theorem reckon_faults (s : State) (x y z : Bool) : (s.reckon x y z).faults = s.faults := faults_of_aside (aside_reckon x y z)

theorem enterTold_faults (s : State) (n : Fin 24) (st : SlotState) : (s.enterTold n st).faults = s.faults :=
  faults_of_aside (aside_enterTold n st)

theorem clearWaitlist_faults (s : State) : s.clearWaitlist.faults = s.faults := by
  unfold State.clearWaitlist Machine.overSlots
  refine foldl_faults (fun t n => ?_) allSlots _
  dsimp only
  split
  · exact enterIdle_faults _ n
  · rfl

theorem displayAll_faults (s : State) (d : Display) : (s.displayAll d).faults = s.faults := by
  unfold State.displayAll
  refine foldl_faults (fun s t => ?_) allTerminals s
  rfl

theorem openDisplays_faults (s : State) : s.openDisplays.faults = s.faults := by
  unfold State.openDisplays
  refine foldl_faults (fun s t => ?_) allTerminals s
  rfl

theorem roomDisplay_faults (s : State) (r : RoomState) : (s.roomDisplay r).faults = s.faults := by
  unfold State.roomDisplay
  split
  · rfl
  · split
    · rfl
    · dsimp only
      exact displayAll_faults _ _

theorem changeRoom_faults (s : State) (r : RoomState) (c : RoomCause) : (s.changeRoom r c).faults = s.faults :=
  (roomDisplay_faults _ _).trans (State.post_faults _ _)

theorem enterRoom_faults (s : State) (r : RoomState) (c : RoomCause) : (s.enterRoom r c).faults = s.faults := by
  unfold State.enterRoom
  dsimp only
  split
  · exact (openDisplays_faults _).trans (changeRoom_faults s r c)
  · exact (clearWaitlist_faults _).trans (changeRoom_faults s r c)

theorem holdsEnded_faults (s : State) : s.holdsEnded.faults = s.faults := by
  unfold State.holdsEnded
  split
  · exact enterRoom_faults s _ _
  · rfl

theorem enterEnded_faults (s : State) (n : Fin 24) (st : SlotState) (b : Bool) : (s.enterEnded n st b).faults = s.faults := by
  rcases enterEnded_cases s n st b with e | e <;> rw [e]
  · exact enter_faults s n st
  · exact enterTold_faults s n st

theorem cycleEnd_faults (s : State) (n : Fin 24) (r : Reason) (f : Option (FaultCode × Option Nat)) (st : SlotState)
    (b : Bool := true) : (s.cycleEnd n r f st b).faults = s.faults := by
  unfold State.cycleEnd
  split
  · rfl
  dsimp only
  rw [holdsEnded_faults]
  have before : (((s.settle n r f).post (.cycleEnd n s.settlement.next)).dropHeat n b).faults = s.faults := by
    rw [faults_of_aside (aside_dropHeat n b), State.post_faults]
    exact (settle_aside n r f).2.2.2
  generalize ((s.settle n r f).post (.cycleEnd n s.settlement.next)).dropHeat n b = t at *
  split
  · exact (enterIdle_faults _ n).trans before
  · exact (enterEnded_faults _ n st b).trans before

theorem giveBack_faults (s : State) (c : Fin 4) (r : Reservation) : (s.giveBack c r).faults = s.faults := by
  unfold State.giveBack
  dsimp only
  have dropped : (if 8 ≤ (s.queue c).length then
      match (s.queue c).getLast? with
      | some e => (s.setQueue c (s.queue c).dropLast).post (.waitlistDropped e.card c)
      | none => s
    else s).faults = s.faults := by
    split
    · split
      · exact State.post_faults _ _
      · rfl
    · rfl
  split
  · exact (offer_faults _ _).trans dropped
  · exact dropped

theorem takeOut_faults (s : State) (n : Fin 24) : (s.takeOut n).faults = s.faults := by
  unfold State.takeOut
  split
  · exact (giveBack_faults _ _ _).trans (enter_faults _ n _)
  · exact enter_faults s n _

theorem followJoin_faults (s : State) (n : Fin 24) : (s.followJoin n).faults = s.faults := by
  unfold State.followJoin
  split
  iterate 3 exact takeOut_faults s n
  all_goals exact State.post_faults _ _

theorem markCause_faults (s : State) (n : Fin 24) (m : Cause) (v : Bool) :
    ((s.setCause n m v).writeCauses n m).faults = s.faults := by
  unfold State.writeCauses
  split <;> rfl

theorem joinCause_faults (s : State) (n : Fin 24) (m : Cause) : (s.joinCause n m).faults = s.faults := by
  unfold State.joinCause
  split
  · rfl
  · exact (followJoin_faults _ n).trans (markCause_faults s n m true)

theorem faultEnd_faults (s : State) (n : Fin 24) (c : FaultCode) (e : Option Nat) : (s.faultEnd n c e).faults = s.faults := by
  unfold State.faultEnd
  split
  · exact cycleEnd_faults s n _ _ _
  · rfl

theorem unlockFailed_faults (s : State) (n : Fin 24) : (s.unlockFailed n).faults = s.faults := by
  unfold State.unlockFailed
  refine (enterTold_faults _ n _).trans ?_
  split
  · rfl
  · exact markCause_faults s n .lockout true

theorem joinLost_faults (s : State) (n : Fin 24) : (s.joinLost n).faults = s.faults := by
  unfold State.joinLost
  dsimp only
  split
  · rfl
  split
  · rfl
  · exact State.post_faults _ _
  iterate 5 exact takeOut_faults _ n
  all_goals exact cycleEnd_faults _ n _ _ _ _

theorem faultAct_faults (s : State) (n : Fin 24) (c : FaultCode) (e : Option Nat) (v : Severity) :
    (s.faultAct n c e v).faults = s.faults := by
  unfold State.faultAct
  split
  · rfl
  · exact faultEnd_faults s n c e
  · split
    · exact unlockFailed_faults s n
    · exact (joinCause_faults _ n _).trans (faultEnd_faults s n c e)
  · exact joinLost_faults s n

/-! ### The entry that a raise makes or finds -/

/-- The occurrence count that a raise gives its entry (R142, R143). -/
def Faults.count (f : Faults) (src : Option (Fin 24)) (code : FaultCode) : Nat :=
  (f.find src code).elim 1 fun x => min 255 (x.occurrences + 1)

theorem Faults.find_key {f : Faults} {src : Option (Fin 24)} {code : FaultCode} {e : FaultEntry} (h : f.find src code = some e) :
    e.hasKey src code = true := by
  simpa using List.find?_some h

theorem Faults.enter_entry (f : Faults) (src : Option (Fin 24)) (code : FaultCode) (err : Option Nat) (now : Clock) :
    (f.enter src code err now).2.1 = { (f.enter src code err now).2.1 with
      source := src, code := code, errorCode := err, last := now, occurrences := f.count src code, condition := .active,
      severity := code.applied (f.count src code) } := by
  unfold Faults.enter Faults.count
  split
  · next e found =>
    obtain ⟨hs, hc⟩ := FaultEntry.hasKey_iff.1 (Faults.find_key found)
    simp [FaultEntry.again, found, hs, hc]
  · next found =>
    dsimp only
    split
    · simp [FaultEntry.new, found]
    · split <;> simp [FaultEntry.new, found]

/-- An entry already open, or a table with room, takes the raise (R142, R143). -/
theorem Faults.enter_tabled {f : Faults} {src : Option (Fin 24)} {code : FaultCode}
    (h : (f.find src code).isSome ∨ f.table.length < 32) (err : Option Nat) (now : Clock) :
    (f.enter src code err now).2.2 = false ∧
      (f.enter src code err now).1.find src code = some (f.enter src code err now).2.1 := by
  unfold Faults.enter
  split
  · next e found =>
    refine ⟨rfl, ?_⟩
    have kept : (fun x => FaultEntry.hasKey (if x.hasKey src code then x.again err now else x) src code) =
        fun x => FaultEntry.hasKey x src code := by
      funext x
      split <;> rfl
    have first : f.table.find? (fun x => x.hasKey src code) = some e := found
    simp only [Faults.find, List.find?_map, Function.comp_def, kept, first, Option.map_some,
      if_pos (Faults.find_key found)]
  · next found =>
    have room : f.table.length < 32 := h.resolve_left (by simp [found])
    have first : f.table.find? (fun x => x.hasKey src code) = none := found
    have key : (FaultEntry.new src code err now).hasKey src code = true := FaultEntry.hasKey_iff.2 ⟨rfl, rfl⟩
    simp [room, Faults.find, List.find?_append, first, key]

/-! ### A raise at a slot, its stages -/

/-- The raise up to its action on the slot: the table and ring, and FAULT_RAISED (R137, stages 1 to 3). -/
def State.entered (s : State) (n : Fin 24) (code : FaultCode) (err : Option Nat) : State :=
  let r := s.faults.enter (some n) code err s.clock
  ({ s with faults := r.1 } : State).post (.faultRaised (some n) code r.2.1.errorCode r.2.1.occurrences r.2.1.severity r.2.2)

/-- The severity that a raise at slot `n` applies (R140). -/
def State.severity (s : State) (n : Fin 24) (code : FaultCode) : Severity := code.applied (s.faults.count (some n) code)

theorem raise_eq (s : State) (n : Fin 24) (code : FaultCode) (err : Option Nat) : s.raise (some n) code err =
    if code.selfLatching then ((s.entered n code err).faultAct n code err (s.severity n code)).latch (some n) code
    else (s.entered n code err).faultAct n code err (s.severity n code) := by
  have severity : (s.faults.enter (some n) code err s.clock).2.1.severity = s.severity n code := by
    rw [Faults.enter_entry]; rfl
  rw [← severity]
  rfl

/-- Stages 1 to 3 change the faults and the events alone. -/
theorem entered_eq (s : State) (n : Fin 24) (code : FaultCode) (err : Option Nat) :
    ∃ E, s.entered n code err = { s with faults := (s.faults.enter (some n) code err s.clock).1, events := E } := by
  unfold State.entered State.post
  dsimp only
  split <;> exact ⟨_, rfl⟩

theorem entered_quiet (s : State) (n : Fin 24) (code : FaultCode) (err : Option Nat) : Quiet s (s.entered n code err) := by
  obtain ⟨E, e⟩ := entered_eq s n code err
  rw [e]
  exact (Quiet.refl s).change rfl rfl rfl

theorem raise_books (s : State) (n : Fin 24) (code : FaultCode) (err : Option Nat) :
    Books (s.entered n code err) (s.raise (some n) code err) := by
  have k := (Books.refl (s.entered n code err)).faultAct n code err (s.severity n code)
  rw [raise_eq]
  exact Books.ite (k.latch _ _) k

/-- FAULT_RAISED is the first event of a raise (R137). -/
theorem raise_told {n : Fin 24} {code : FaultCode} (h : (s.faults.find (some n) code).isSome ∨ s.faults.table.length < 32)
    (err : Option Nat) : s.told (.faultRaised (some n) code err (s.faults.count (some n) code) (s.severity n code) false)
      (s.raise (some n) code err) := by
  have k := (raise_books s n code err).events
  unfold State.entered at k
  dsimp only at k
  rw [(Faults.enter_tabled h err s.clock).1, Faults.enter_entry] at k
  exact told_of_post (u := { s with faults := (s.faults.enter (some n) code err s.clock).1 }) rfl rfl k

theorem raise_faults (s : State) (n : Fin 24) {code : FaultCode} (hl : code.selfLatching = false) (err : Option Nat) :
    (s.raise (some n) code err).faults = (s.faults.enter (some n) code err s.clock).1 := by
  rw [raise_eq, hl, if_neg (by decide), faultAct_faults]
  exact State.post_faults _ _

/-- A raise whose condition it does not end is what R137 says of it. -/
theorem raise_raisedAt (s : State) (n : Fin 24) {code : FaultCode} (hl : code.selfLatching = false) (err : Option Nat) :
    s.raisedAt n code err (s.raise (some n) code err) := by
  constructor
  rintro k rfl tabled
  refine ⟨⟨_, by rw [raise_faults s n hl, (Faults.enter_tabled tabled err s.clock).2], ?_⟩, raise_told tabled err⟩
  rw [Faults.enter_entry]
  exact ⟨rfl, rfl, rfl, rfl, rfl⟩

theorem State.raisedAt.later {n : Fin 24} {code : FaultCode} {err : Option Nat} {u : State} (h : s.raisedAt n code err t)
    (faults : u.faults = t.faults) (events : t.events.queue <+: u.events.queue) : s.raisedAt n code err u := by
  constructor
  intro k hk tabled
  obtain ⟨entry, told⟩ := h.entry k hk tabled
  exact ⟨faults ▸ entry, fun room => (told room).trans events⟩

end

end Sys2Proof.Machine

namespace Sys2Proof.Machine

/-! ## What a fault does to its slot (R28, R138 to R140) -/

section
variable {s t u : State} {n : Fin 24}

/-- Only the cause set of slot `n` changed, with the writes and events that tell it. -/
structure Marked (n : Fin 24) (a s : State) : Prop where
  slot : s.slot n = { a.slot n with causes := (s.slot n).causes }
  others : ∀ m, m ≠ n → s.slot m = a.slot m
  gov : s.gov = a.gov
  accounts : s.accounts = a.accounts
  holds : s.holds = a.holds
  settlement : s.settlement = a.settlement
  queues : s.queues = a.queues
  room : s.room = a.room
  outside : s.outside = a.outside

theorem Marked.refl (n : Fin 24) (a : State) : Marked n a a := ⟨rfl, fun _ _ => rfl, rfl, rfl, rfl, rfl, rfl, rfl, rfl⟩

theorem Marked.trans {a b c : State} (h : Marked n a b) (k : Marked n b c) : Marked n a c :=
  ⟨by rw [k.slot, h.slot], fun m hm => (k.others m hm).trans (h.others m hm), k.gov.trans h.gov, k.accounts.trans h.accounts,
    k.holds.trans h.holds, k.settlement.trans h.settlement, k.queues.trans h.queues, k.room.trans h.room,
    k.outside.trans h.outside⟩

theorem Marked.post (s : State) (b : EventBody) : Marked n s (s.post b) :=
  ⟨by rw [slot_of_slots (State.post_slots s b)], fun m _ => slot_of_slots (State.post_slots s b) m, by simp, by simp, by simp,
    by simp, by simp, by simp, ((Acts.refl s).post b).outside⟩

theorem Marked.latch (s : State) (src : Option (Fin 24)) (c : FaultCode) : Marked n s (s.latch src c) :=
  ⟨rfl, fun _ _ => rfl, rfl, rfl, rfl, rfl, rfl, rfl, rfl⟩

/-- A change of a member of a cause set, and its write. -/
theorem markCause_marked (s : State) (n : Fin 24) (m : Cause) (v : Bool) :
    Marked n s ((s.setCause n m v).writeCauses n m) ∧
      (((s.setCause n m v).writeCauses n m).slot n).causes = (s.slot n).causes.set m v := by
  have slots : ((s.setCause n m v).writeCauses n m).slots = (s.setCause n m v).slots := by
    unfold State.writeCauses
    split <;> rfl
  have same : (s.setCause n m v).slot n = { s.slot n with causes := (s.slot n).causes.set m v } :=
    State.slot_modSlot_same s n _
  have other (k : Fin 24) (hk : k ≠ n) : (s.setCause n m v).slot k = s.slot k := State.slot_modSlot_ne s hk.symm _
  refine ⟨⟨?_, fun k hk => (slot_of_slots slots k).trans (other k hk), ?_, ?_, ?_, ?_, ?_, ?_, ?_⟩, ?_⟩
  · rw [slot_of_slots slots n, same]
  iterate 7 (unfold State.writeCauses; split <;> rfl)
  · rw [slot_of_slots slots n, same]

/-- A cause that joins the set of a slot which follows nothing with its state (R30, R154). -/
theorem joinCause_marked (m : Cause) (h : (s.slot n).state ≠ .idle ∧ (s.slot n).state ≠ .reserved ∧ (s.slot n).state ≠ .collect) :
    Marked n s (s.joinCause n m) ∧ ((s.joinCause n m).slot n).causes = (s.slot n).causes.set m true := by
  obtain ⟨idle, reserved, collect⟩ := h
  unfold State.joinCause
  split
  · next has =>
    refine ⟨Marked.refl n s, ?_⟩
    cases m <;> simp only [Causes.has, Causes.set] at has ⊢ <;> rw [← has]
  · obtain ⟨marked, causes⟩ := markCause_marked s n m true
    generalize (s.setCause n m true).writeCauses n m = v at *
    have told : v.followJoin n = v.postSlot n := by
      have state : (v.slot n).state = (s.slot n).state := by rw [marked.slot]
      unfold State.followJoin
      split
      · next e => exact absurd (state.symm.trans e) idle
      · next e => exact absurd (state.symm.trans e) reserved
      · next e => exact absurd (state.symm.trans e) collect
      all_goals rfl
    rw [told]
    exact ⟨marked.trans (Marked.post v _), (congrArg Slot.causes (slot_of_slots (State.post_slots v _) n)).trans causes⟩

/-- A cycle end and what follows it at the cause set (R6, R138). -/
theorem State.cycleEnded.marked {h : Hold} {r : Reason} {f : Option (FaultCode × Option Nat)} {st : SlotState}
    (e : s.cycleEnded n h r f st t) (k : Marked n t u) : s.cycleEnded n h r f st u where
  holds m := by simpa only [State.hold, k.holds] using e.holds m
  queue := k.settlement.trans e.queue
  accounts i := by simpa only [State.account, k.accounts] using e.accounts i
  state := by rw [k.slot]; exact e.state
  heat := by
    refine ⟨by rw [k.slot]; exact e.heat.1, ?_⟩
    simpa only [State.asked, State.granted, State.waiting, k.gov] using e.heat.2
  slot := by
    have slot := e.slot
    rw [k.slot]
    show { (t.slot n).bare with causes := (u.slot n).causes } = _
    rw [slot]
  others m hm := by rw [k.others m hm]; exact e.others m hm
  room := by rw [k.room]; exact e.room
  rest := k.outside.trans e.rest

/-- A cycle end does not look at the faults or the events before it. -/
theorem State.cycleEnded.before {h : Hold} {r : Reason} {f : Option (FaultCode × Option Nat)} {st : SlotState}
    {F : Faults} {E : EventQueue} (e : ({ s with faults := F, events := E } : State).cycleEnded n h r f st t) :
    s.cycleEnded n h r f st t :=
  ⟨e.holds, e.queue, e.accounts, e.state, e.heat, e.slot, e.others, e.room, e.rest⟩

/-- A STOP or LOCKOUT fault on a busy slot: its cycle ends into FAULTED, and a LOCKOUT one joins the cause set (R138, R140). -/
theorem raise_busy (w : Whole s) {h : Hold} (hn : s.hold n = some h) {code : FaultCode}
    (severity : s.severity n code = .stop ∨ s.severity n code = .lockout) (hu : code ≠ .unlockFail) (err : Option Nat) :
    s.cycleEnded n h code.reason (some (code, err)) .faulted (s.raise (some n) code err) ∧
      ((s.raise (some n) code err).slot n).causes = { (s.slot n).causes with
        lockout := (s.slot n).causes.lockout || s.severity n code == .lockout } := by
  obtain ⟨E, entered⟩ := entered_eq s n code err
  have quiet := entered_quiet s n code err
  have we : Whole (s.entered n code err) := Law.quiet w quiet
  have he : (s.entered n code err).hold n = some h := by rw [entered]; exact hn
  have se : (s.entered n code err).slot n = s.slot n := by rw [entered]; rfl
  have busy : ((s.entered n code err).slot n).state.busy = true := by rw [← we.busy n id, he]; rfl
  have ended := cycleEnd_ended we n h he code.reason (some (code, err)) (st := .faulted) rfl nofun
  obtain ⟨-, z, d, slot⟩ := cycleEnd_slot (s.entered n code err) n code.reason (some (code, err)) (st := .faulted)
    nofun nofun (by rw [he]; rfl)
  have fe : (s.entered n code err).faultEnd n code err =
      (s.entered n code err).cycleEnd n code.reason (some (code, err)) .faulted := if_pos busy
  have acted : ∃ v, (s.entered n code err).faultAct n code err (s.severity n code) = v ∧
      (s.entered n code err).cycleEnded n h code.reason (some (code, err)) .faulted v ∧
      (v.slot n).causes = { (s.slot n).causes with lockout := (s.slot n).causes.lockout || s.severity n code == .lockout } := by
    refine ⟨_, rfl, ?_⟩
    rcases severity with e | e
    · rw [e]
      have act : (s.entered n code err).faultAct n code err .stop = (s.entered n code err).faultEnd n code err := rfl
      have stop : (Severity.stop == Severity.lockout) = false := rfl
      rw [act, fe]
      refine ⟨ended, ?_⟩
      rw [slot, se, stop, Bool.or_false]
    · rw [e]
      have act : (s.entered n code err).faultAct n code err .lockout =
          ((s.entered n code err).faultEnd n code err).joinCause n .lockout := if_neg hu
      rw [act, fe]
      have faulted : (((s.entered n code err).cycleEnd n code.reason (some (code, err)) .faulted).slot n).state = .faulted := by
        rw [slot]
      obtain ⟨marked, causes⟩ := joinCause_marked (n := n) .lockout (by rw [faulted]; exact ⟨nofun, nofun, nofun⟩)
      refine ⟨ended.marked marked, ?_⟩
      rw [causes, slot, se]
      simp [Causes.set]
  obtain ⟨v, acted, endedv, causes⟩ := acted
  have last : s.raise (some n) code err = v ∨ s.raise (some n) code err = v.latch (some n) code := by
    rw [raise_eq, acted]
    split
    · exact .inr rfl
    · exact .inl rfl
  have endeds : s.cycleEnded n h code.reason (some (code, err)) .faulted v := (entered ▸ endedv).before
  rcases last with e | e <;> rw [e]
  · exact ⟨endeds, causes⟩
  · exact ⟨endeds.marked (Marked.latch v _ _), causes⟩

end

end Sys2Proof.Machine

namespace Sys2Proof.Machine

/-- Settles O14: each command is a raise at a busy slot (`raise_busy`), whose severity is LOCKOUT for LOCK_FAIL and for the third
OVERRUN. -/
theorem faultTimersEndCycles : Obligations.FaultTimersEndCycles := by
  intro s n h c f hh hb running hn hc
  have w : Whole s := whole_iff.2 ⟨hh, hb⟩
  have busy : (s.slot n).state.busy = true := by rw [← w.busy n id, hn]; rfl
  have command : exec c s = .next (s.raise (some n) f) ∧ f ≠ .unlockFail ∧ f.reason = .fault ∧
      (∀ k, f.applied k = if f = .lockFail ∨ 3 ≤ k then .lockout else .stop) := by
    rcases hc with ⟨rfl, rfl, state, d, timer, due⟩ | ⟨rfl, rfl, kind, past⟩
    · exact ⟨by simp [exec, execLockingDeadline, ifRunning_of running, state, reached_of timer due], nofun, rfl, by
        simp [FaultCode.applied, FaultCode.severity]⟩
    · have planned : s.planned n = h.snap.planned := by simp [State.planned, hn]
      exact ⟨by simp [exec, execOverrun, ifRunning_of running, busy, kind, planned, past], nofun, rfl, by
        simp [FaultCode.applied, FaultCode.severity]⟩
  obtain ⟨e, hu, reason, applied⟩ := command
  have severity : s.severity n f = if f = .lockFail ∨ 3 ≤ s.faults.count (some n) f then .lockout else .stop := applied _
  obtain ⟨ended, causes⟩ := raise_busy w hn (code := f) (by rw [severity]; split <;> simp) hu none
  refine ⟨_, e, reason ▸ ended, ?_, fun tabled => ?_⟩
  · have same : (s.severity n f == .lockout) = (f == .lockFail || decide (3 ≤ s.faults.count (some n) f)) := by
      rw [severity]
      by_cases l : f = .lockFail <;> by_cases k : 3 ≤ s.faults.count (some n) f <;> simp [l, k]
    rw [causes, same, ← Bool.or_assoc]
    rfl
  · have told := raise_told tabled none
    rw [severity] at told
    exact told

section
variable {s : State} {n : Fin 24}

/-- UNLOCK_FAIL's action (R28): FAULT_LOCKOUT in the set and the entry to OUT_OF_SERVICE. -/
theorem unlockFailed_does (w : Whole s) (state : (s.slot n).state = .finishing ∨ (s.slot n).state = .faulted) :
    (∃ z, (s.unlockFailed n).slot n = { s.slot n with
        state := .outOfService, causes := { (s.slot n).causes with lockout := true }, outputs := ⟨false, false, false⟩,
        timer := none, sense := z }) ∧
      (s.unlockFailed n).accounts = s.accounts ∧ (s.unlockFailed n).holds = s.holds ∧
      (s.unlockFailed n).settlement = s.settlement ∧ (∀ m, m ≠ n → (s.slot m).bystander ((s.unlockFailed n).slot m)) ∧
      (s.unlockFailed n).queues = s.queues := by
  have marks : Marked n s (if (s.slot n).causes.lockout then s else (s.setCause n .lockout true).writeCauses n .lockout) ∧
      ((if (s.slot n).causes.lockout then s else (s.setCause n .lockout true).writeCauses n .lockout).slot n).causes =
        { (s.slot n).causes with lockout := true } ∧
      Quiet s (if (s.slot n).causes.lockout then s else (s.setCause n .lockout true).writeCauses n .lockout) := by
    split
    · next has => exact ⟨Marked.refl n s, by rw [← has], Quiet.refl s⟩
    · exact ⟨(markCause_marked s n .lockout true).1, (markCause_marked s n .lockout true).2,
        ((Quiet.refl s).setCause n _ _).writeCauses n _⟩
  unfold State.unlockFailed
  dsimp only
  generalize (if (s.slot n).causes.lockout then s else (s.setCause n .lockout true).writeCauses n .lockout) = v at *
  obtain ⟨marked, causes, quiet⟩ := marks
  have wv : Whole v := Law.quiet w quiet
  have cold : (v.slot n).state.cold := by
    rw [quiet.state n]
    rcases state with e | e <;> rw [e] <;> exact ⟨nofun, nofun⟩
  have unasked := (Law.unasked wv (n := n) id cold).1
  have idle : (v.slot n).state.busy = false := by
    rw [quiet.state n]
    rcases state with e | e <;> rw [e] <;> rfl
  have aside := aside_enterTold (s := v) n .outOfService
  obtain ⟨accounts, holds, settlement, -⟩ := ((Calm.refl v).enterTold n .outOfService).booksKept
  refine ⟨?_, accounts.trans marked.accounts, holds.trans marked.holds, settlement.trans marked.settlement, fun m hm => ?_,
    (queues_of_aside aside).trans marked.queues⟩
  · rw [enterTold_slot n n .outOfService unasked, if_pos rfl, causes.symm, marked.slot]
    exact ⟨_, rfl⟩
  · rw [← marked.others m hm]
    exact bystander_of (((Bare.refl v).enter n _).reckon _ _ _)
      ((Beside.refl n v).enterTold .outOfService (wv.move cold idle.symm)) m hm

end

/-- Settles O15: the raise of UNLOCK_FAIL, whose action is the entry to OUT_OF_SERVICE with FAULT_LOCKOUT in the set. -/
theorem unlockDeadlineLocksTheSlotOut : Obligations.UnlockDeadlineLocksTheSlotOut := by
  intro s n d hh hb running state timer due
  have w : Whole s := whole_iff.2 ⟨hh, hb⟩
  have e : exec (.unlockDeadline n) s = .next (s.raise (some n) .unlockFail) := by
    simp [exec, execUnlockDeadline, ifRunning_of running, state, reached_of timer due]
  refine ⟨_, e, raise_raisedAt s n rfl none, ?_⟩
  have outside := ((Acts.refl s).raise (some n) .unlockFail none).outside
  have acted : s.raise (some n) .unlockFail = (s.entered n .unlockFail none).unlockFailed n := by
    have severity : s.severity n .unlockFail = .lockout := by simp [State.severity, FaultCode.applied, FaultCode.severity]
    have action (u : State) : u.faultAct n .unlockFail none .lockout = u.unlockFailed n := by simp [State.faultAct]
    rw [raise_eq, severity, action]
    exact if_neg (by decide)
  obtain ⟨E, entered⟩ := entered_eq s n .unlockFail none
  have we := Law.quiet w (entered_quiet s n .unlockFail none)
  rw [entered] at acted we
  rw [acted] at outside ⊢
  obtain ⟨⟨z, slot⟩, accounts, holds, settlement, others, queues⟩ := unlockFailed_does we (n := n) state
  rw [slot]
  exact ⟨rfl, rfl, rfl, rfl, accounts, holds, settlement, others, queues, outside⟩

end Sys2Proof.Machine

namespace Sys2Proof.Machine

/-! ## Card taps (R8 to R10, R74, R76, R160) -/

section
variable {s : State} {n : Fin 24} {card : Nat}

theorem allSlots_find_some {p : Fin 24 → Bool} {P : Fin 24 → Prop} (hp : ∀ k, p k = true ↔ P k) {m : Fin 24} (h : P m)
    (hk : ∀ k < m, ¬ P k) : allSlots.find? p = some m := by
  refine List.find?_eq_some_iff_getElem.2 ⟨(hp m).2 h, m.val, by simp [allSlots], by simp [allSlots], fun j hj => ?_⟩
  have no : ¬ p ⟨j, by omega⟩ = true := fun e => hk _ hj ((hp _).1 e)
  simpa [allSlots] using no

theorem allSlots_find_none {p : Fin 24 → Bool} {P : Fin 24 → Prop} (hp : ∀ k, p k = true ↔ P k) (h : ∀ k, ¬ P k) :
    allSlots.find? p = none := List.find?_eq_none.2 fun k _ e => h k ((hp k).1 e)

/-! ### Which path a tap takes (R8) -/

theorem tap_start (room : s.room.state = .openRoom)
    (state : (s.slot n).state = .idle ∨ (s.slot n).state = .reserved ∧ (s.slot n).reservationCard = card) :
    s.tap n card = s.startTap n card := by
  rcases state with e | ⟨e, own⟩
  · simp [State.tap, room, e]
  · simp [State.tap, room, e, own]

theorem tap_busy (room : s.room.state = .openRoom) (busy : (s.slot n).state.busy = true) : s.tap n card =
    if (s.hold n).any (fun h => h.card == card) then s.ownTap n card else s.busyPath n card := by
  unfold State.tap
  rw [if_neg (by simp [room])]
  split <;> simp_all [SlotState.busy]

theorem tap_held (room : s.room.state = .openRoom) {h : Hold} (hn : s.hold n = some h) (busy : (s.slot n).state.busy = true) :
    s.tap n card = if h.card = card then s.ownTap n card else s.busyPath n card := by
  simp [tap_busy room busy, hn]

/-- A tap by the hold's card that is a top-up (R8). -/
def State.toppable (s : State) (n : Fin 24) : Prop :=
  s.kind n = .dryer ∧ ((s.slot n).state = .armed ∨ (s.slot n).state = .locking ∨
    (s.slot n).state.heated ∧ (s.slot n).phase = .dry)

theorem ownTap_topUp (h : s.toppable n) : s.ownTap n card = s.topUpTap n card := by
  obtain ⟨dryer, e | e | ⟨e | e, dry⟩⟩ := h
  · simp [State.ownTap, dryer, e]
  · simp [State.ownTap, dryer, e]
  · simp [State.ownTap, dryer, e, dry]
  · simp [State.ownTap, dryer, e, dry]

theorem ownTap_inUse (h : ¬ s.toppable n) : s.ownTap n card = s.showBrief n .inUse := by
  unfold State.ownTap
  split
  · next state kind => exact absurd ⟨kind, .inl state⟩ h
  · next state kind => exact absurd ⟨kind, .inr (.inl state)⟩ h
  · next state kind => exact if_neg fun dry => h ⟨kind, .inr (.inr ⟨.inl state, dry⟩)⟩
  · next state kind => exact if_neg fun dry => h ⟨kind, .inr (.inr ⟨.inr state, dry⟩)⟩
  · rfl

/-! ### The busy-slot path (R10) -/

/-- Slot `m` of class `c` is RESERVED for the card. -/
def State.reservedAt (s : State) (c : Fin 4) (card : Nat) (m : Fin 24) : Prop :=
  s.slotCls m = some c ∧ (s.slot m).state = .reserved ∧ ∃ r, (s.slot m).reservation = some r ∧ r.card = card

/-- Slot `m` of class `c` is IDLE. -/
def State.idleAt (s : State) (c : Fin 4) (m : Fin 24) : Prop := s.slotCls m = some c ∧ (s.slot m).state = .idle

theorem reservedFor_iff (s : State) (c : Fin 4) (card : Nat) (m : Fin 24) :
    decide ((s.slot m).state = .reserved ∧ s.slotCls m = some c ∧ (s.slot m).reservation.any fun r => r.card == card) = true ↔
      s.reservedAt c card m := by
  simp only [State.reservedAt, decide_eq_true_eq, Option.any_eq_true, beq_iff_eq]
  tauto

theorem idleSlot_iff (s : State) (c : Fin 4) (m : Fin 24) :
    decide ((s.slot m).state = .idle ∧ s.slotCls m = some c) = true ↔ s.idleAt c m := by
  simp only [State.idleAt, decide_eq_true_eq]
  tauto

theorem busyPath_reserved {c : Fin 4} (cls : s.slotCls n = some c) {m : Fin 24} (h : s.reservedAt c card m)
    (hk : ∀ k < m, ¬ s.reservedAt c card k) : s.busyPath n card = s.showBrief n .freeAt m.val := by
  have found : s.reservedFor c card = some m := allSlots_find_some (reservedFor_iff s c card) h hk
  simp [State.busyPath, cls, found]

theorem busyPath_idle {c : Fin 4} (cls : s.slotCls n = some c) (none : ∀ m, ¬ s.reservedAt c card m) {m : Fin 24}
    (h : s.idleAt c m) (hk : ∀ k < m, ¬ s.idleAt c k) : s.busyPath n card = s.showBrief n .freeAt m.val := by
  have reserved : s.reservedFor c card = .none := allSlots_find_none (reservedFor_iff s c card) none
  have found : s.idleSlot c = some m := allSlots_find_some (idleSlot_iff s c) h hk
  simp [State.busyPath, cls, reserved, found]

theorem busyPath_join {c : Fin 4} (cls : s.slotCls n = some c) (none : ∀ m, ¬ s.reservedAt c card m)
    (busy : ∀ m, ¬ s.idleAt c m) :
    s.busyPath n card = (s.join c card).1.showBrief n (s.join c card).2.1 (s.join c card).2.2 := by
  have reserved : s.reservedFor c card = .none := allSlots_find_none (reservedFor_iff s c card) none
  have idle : s.idleSlot c = .none := allSlots_find_none (idleSlot_iff s c) busy
  simp [State.busyPath, cls, reserved, idle]

theorem positionOf_some {q : List WaitEntry} {k : Nat} {e : WaitEntry} (h : q[k]? = some e) (own : e.card = card)
    (first : ∀ j x, j < k → q[j]? = some x → x.card ≠ card) : positionOf card q = some (k + 1) := by
  obtain ⟨hk, he⟩ := List.getElem?_eq_some_iff.1 h
  have found : q.findIdx? (fun e => e.card == card) = some k := by
    refine List.findIdx?_eq_some_iff_getElem.2 ⟨hk, by simp [he, own], fun j hj => ?_⟩
    simpa using first j _ hj (List.getElem?_eq_getElem (hj.trans hk))
  simp [positionOf, found]

theorem positionOf_none {q : List WaitEntry} (h : ∀ e ∈ q, e.card ≠ card) : positionOf card q = none := by
  simpa [positionOf] using h

/-! ### The checks of a start, of a top-up and of a join, in their order -/

/-- The record with the rollover of the cap check written, if there is one (R63). -/
theorem rollAccount_eq (s : State) (i : Nat) : s.rollAccount i = if (s.account i).rolled s.clock.day = s.account i then s
    else (s.setAccount i ((s.account i).rolled s.clock.day)).write [.account i ((s.account i).rolled s.clock.day)] := rfl

end

/-- Settles O21: `State.tap` by its paths, and in each path the first check that fails. -/
theorem refusedTapOnlyShows : Obligations.RefusedTapOnlyShows := by
  intro s n card
  refine ⟨fun room => by simp [State.tap, room], fun room c h cls hn busy => ?_, fun room => ?_⟩
  · have path := tap_held (card := card) room hn busy
    refine ⟨fun own => ?_, fun other => ?_⟩
    · rw [if_pos own] at path
      refine ⟨fun no => path.trans (ownTap_inUse no), fun yes => ?_⟩
      rw [ownTap_topUp yes] at path
      rw [path]
      unfold State.topUpTap
      refine ⟨fun unknown => by simp [hn, unknown], fun i found => ?_⟩
      simp only [hn, found]
      refine ⟨fun ne => if_pos ne, fun same blocked => ?_, fun same active => ⟨fun long => ?_, fun fits => ⟨fun poor => ?_,
        fun rich cap spent => ?_⟩⟩⟩
      · rw [if_neg (by simp [same]), if_pos blocked]
      · rw [if_neg (by simp [same]), if_neg (by simp [active]), if_pos long]
      · rw [if_neg (by simp [same]), if_neg (by simp [active]), if_neg (by omega), if_pos poor]
      · rw [if_neg (by simp [same]), if_neg (by simp [active]), if_neg (by omega), if_neg (by omega), if_neg cap, if_neg cap,
          if_pos ⟨cap, spent⟩, rollAccount_eq]
    · rw [if_neg other] at path
      rw [path]
      refine ⟨fun m mine first => busyPath_reserved cls mine first, fun none => ⟨fun m idle first =>
        busyPath_idle cls none idle first, fun full => ?_⟩⟩
      rw [busyPath_join cls none full]
      unfold State.join
      refine ⟨fun unknown => by simp [unknown], fun i found => ?_⟩
      simp only [found]
      refine ⟨fun blocked => by simp [blocked], fun active => ⟨fun k e at' own first => ?_, fun absent => ⟨fun poor => ?_,
        fun rich long => ?_⟩⟩⟩
      · simp [active, positionOf_some at' own first]
      · simp [active, positionOf_none absent, poor]
      · have enough : ¬ (s.account i).available < s.currentPrice c := by omega
        simp [active, positionOf_none absent, enough, long]
  · refine ⟨fun state other => by simp [State.tap, room, state, other], fun state => ?_,
      fun state => by simp [State.tap, room, state], fun state => by simp [State.tap, room, state], fun c state cls => ?_⟩
    · rcases state with e | e <;> simp [State.tap, room, e]
    · rw [tap_start room state]
      unfold State.startTap
      refine ⟨fun unknown => by simp [cls, unknown], fun i found => ?_⟩
      simp only [cls, found]
      refine ⟨fun blocked => if_pos blocked, fun active full => ?_, fun active place => ⟨fun poor => ?_, fun rich =>
        ⟨fun cap spent => ?_, fun cap power => ?_⟩⟩⟩
      · rw [if_neg (by simp [active]), if_pos full]
      · rw [if_neg (by simp [active]), if_neg (by omega), if_pos poor]
      · rw [if_neg (by simp [active]), if_neg (by omega), if_neg (by omega), if_neg cap, if_neg cap, if_pos ⟨cap, spent⟩,
          rollAccount_eq]
      · have no : (!s.admits c) = true := by
          have := mt (admits_iff s c).1 (by omega)
          simpa using this
        rw [if_neg (by simp [active]), if_neg (by omega), if_neg (by omega), if_pos cap, if_pos cap,
          if_neg (fun k => k.1 cap), if_pos no]

end Sys2Proof.Machine

namespace Sys2Proof.Machine

/-! ## Accepted taps (R9, R75, R77, R160) -/

section
variable {s : State} {n : Fin 24}

/-! ### A start -/

theorem handOn_faults (s : State) (n : Fin 24) : (s.handOn n).faults = s.faults := by
  unfold State.handOn
  dsimp only
  split
  · exact enterIdle_faults _ n
  · split
    · exact enterIdle_faults _ n
    · exact faults_of_aside (s := (s.dropReservation n).setQueue _ _) (aside_reserve n _ _ _)

theorem toldOfStart_faults (s : State) (c : Fin 4) (card : Nat) : (s.toldOfStart c card).faults = s.faults := by
  unfold State.toldOfStart
  dsimp only
  split
  · exact handOn_faults _ _
  · rfl

/-- The waitlist unit, told of a start, acts at a RESERVED slot alone (R164). -/
theorem Apart.toldOfStart {a : State} (h : Apart n a s) (c : Fin 4) (card : Nat) : Apart n a (s.toldOfStart c card) := by
  have k := h.setQueue c (withoutCard card (s.queue c))
  unfold State.toldOfStart
  dsimp only
  generalize s.setQueue c (withoutCard card (s.queue c)) = t at *
  split
  · next m found =>
    intro hu hr
    have at_n : (t.slot n).state ≠ .reserved := by rw [(k hu hr).2]; exact hr
    have hm : m ≠ n := fun e => at_n (e ▸ reservedFor_state found)
    exact k.handOn hm hu hr
  · exact k

/-- An accepted start (R9, R75). -/
theorem placeHold_does (w : Whole s) (state : (s.slot n).state = .idle ∨ (s.slot n).state = .reserved) (c : Fin 4) (i : Nat)
    (a : Account) (card : Nat) :
    let h : Hold := ⟨i, card, s.currentPrice c, s.snapshot c, 0, 0, s.clock.day, s.clock.second⟩
    let b := { a with held := a.held + s.currentPrice c }
    let t := s.placeHold n c i a card
    (∀ m, t.hold m = if m = n then some h else s.hold m) ∧ (∀ j, t.account j = if j = i then b else s.account j) ∧
    t.writes = s.writes ++ [[.hold n (some h), .account i b]] ∧ t.settlement = s.settlement ∧
    (t.slot n).state = .armed ∧ (t.slot n).timer = some (s.elapsed + 180) ∧ (t.slot n).reservation = none ∧
    (t.slot n).bare = { (s.slot n).bare with
      run := 0, topUp := 0, remaining := 0, cool := 0, warning := false, phase := (s.kind n).startPhase } ∧
    t.faults = s.faults := by
  intro h b t
  have cold : (s.slot n).state.cold := by rcases state with e | e <;> rw [e] <;> exact ⟨nofun, nofun⟩
  have unasked := (Law.unasked w (n := n) id cold).1
  let v := ((s.setHold n (some h)).setAccount i b).write [.hold n (some h), .account i b]
  let u := v.modSlot n fun x =>
    { x with run := 0, topUp := 0, remaining := 0, cool := 0, warning := false, phase := (s.kind n).startPhase,
             reservation := none }
  have placed : t = ((u.enter n .armed).showLasting n ⟨.paid, b.available⟩).toldOfStart c card := by
    have phase : (s.kind n).startPhase = match v.kind n with | .washer => .none | .dryer => .dry := by
      show _ = match s.kind n with | .washer => Phase.none | .dryer => .dry
      cases s.kind n <;> rfl
    show s.placeHold n c i a card = _
    unfold u
    rw [phase]
    rfl
  have slot : (u.enter n .armed).slot n = { s.slot n with
      run := 0, topUp := 0, remaining := 0, cool := 0, warning := false, phase := (s.kind n).startPhase, reservation := none,
      state := .armed, outputs := outputsOf .armed (s.slot n).heatGrant, sense := (s.slot n).sense.disturb,
      timer := some (s.elapsed + 180) } := by
    rw [State.enter_slot, if_pos rfl, State.slot_modSlot_same]
    rfl
  have eu : ¬ (u.enter n .armed).asked n := mt (enter_asked n n .armed).1 unasked
  have final : t.slot n = (u.enter n .armed).slot n := by
    rw [placed]
    exact ((((Apart.refl n (u.enter n .armed)).showLasting n _).toldOfStart c card) eu (by rw [slot]; exact nofun)).2
  have calm : Calm v t := by
    rw [placed]
    refine Calm.toldOfStart (Calm.showLasting (Calm.enter ?_ n .armed) n _) c card
    refine (Calm.refl v).modSlot n _ ?_
    exact fun _ => ⟨rfl, rfl⟩
  obtain ⟨accounts, holds, settlement, writes⟩ := calm.booksKept
  rw [final, slot]
  refine ⟨fun m => ?_, fun j => ?_, writes, settlement, rfl, rfl, rfl, rfl, ?_⟩
  · simp only [State.hold, holds]
    exact (State.hold_setHold s n m _).trans (if_congr eq_comm rfl rfl)
  · simp only [State.account, accounts]
    exact (State.account_setAccount (s.setHold n (some h)) i j b).trans (if_congr eq_comm rfl rfl)
  · rw [placed, toldOfStart_faults, faults_of_aside (aside_showLasting n _), enter_faults]
    rfl

/-! ### A top-up -/

theorem half_modHalf (s : State) (t : Fin 16) (k : Half) (f : HalfEntry → HalfEntry) : (s.modHalf t k f).half t k = f (s.half t k) := by
  unfold State.half State.modHalf
  rw [State.terminal_modTerminal, if_pos rfl]
  cases k <;> rfl

theorem showBrief_half {c : SlotCfg} (cfg : (s.slot n).cfg = some c) (code : DisplayCode) (p : Nat) :
    (s.showBrief n code p).half c.term c.half = (s.half c.term c.half).setBrief ⟨code, p⟩ s.elapsed := by
  simp only [State.showBrief, cfg]
  exact half_modHalf s _ _ _

theorem showLasting_half {c : SlotCfg} (cfg : (s.slot n).cfg = some c) (d : Display) :
    (s.showLasting n d).half c.term c.half = (s.half c.term c.half).setLasting (s.shown d) := by
  simp only [State.showLasting, cfg]
  exact half_modHalf s _ _ _

theorem setLasting_lasting (e : HalfEntry) (d : Display) : (e.setLasting d).lasting = d := by
  unfold HalfEntry.setLasting
  split
  · rfl
  · split <;> rfl

/-- Setting a lasting display again leaves a brief one standing (R50). -/
theorem setLasting_pending {e : HalfEntry} {d : Display} (same : e.lasting.code = d.code) (brief : e.brief.isSome) :
    (e.setLasting d).pending = e.pending := by
  have none : e.brief.isNone = false := by simpa using brief
  simp [HalfEntry.setLasting, same, none]

/-- A display changes the terminals alone (R50). -/
theorem showBrief_eq (s : State) (n : Fin 24) (c : DisplayCode) (p : Nat) :
    ∃ ts, s.showBrief n c p = { s with terminals := ts } := by
  unfold State.showBrief
  split <;> exact ⟨_, rfl⟩

theorem showLasting_eq (s : State) (n : Fin 24) (d : Display) : ∃ ts, s.showLasting n d = { s with terminals := ts } := by
  unfold State.showLasting
  split <;> exact ⟨_, rfl⟩

/-- A top-up taken (R19, R77). -/
theorem takeTopUp_does {c : SlotCfg} (cfg : (s.slot n).cfg = some c) (h : Hold) (i : Nat) (a : Account) :
    let k := { h with steps := h.steps + 1, amount := h.amount + h.snap.stepPrice }
    let b := { a with held := a.held + h.snap.stepPrice }
    let t := s.takeTopUp n h i a
    (∀ m, t.hold m = if m = n then some k else s.hold m) ∧ (∀ j, t.account j = if j = i then b else s.account j) ∧
    t.writes = s.writes ++ [[.hold n (some k), .account i b]] ∧
    (∀ m, t.slot m = if m = n then { s.slot n with topUp := (s.slot n).topUp + h.snap.step } else s.slot m) ∧
    ((s.slot n).state ≠ .running ∨ (s.half c.term c.half).lasting.code = .running →
      (t.half c.term c.half).pending = ⟨.topUpAdded, h.snap.step⟩) ∧
    ((s.slot n).state = .running → (t.half c.term c.half).lasting = ⟨.running, t.minutesLeft n⟩) ∧
    t.settlement = s.settlement ∧ t.events = s.events ∧ t.gov = s.gov ∧ t.queues = s.queues := by
  intro k b t
  obtain ⟨v, hv⟩ : ∃ v, v = (((s.setHold n (some k)).setAccount i b).write [.hold n (some k), .account i b]).modSlot n fun x =>
    { x with topUp := x.topUp + h.snap.step } := ⟨_, rfl⟩
  have hold (m : Fin 24) : v.hold m = if m = n then some k else s.hold m := by
    rw [hv]
    exact (State.hold_setHold s n m _).trans (if_congr eq_comm rfl rfl)
  have account (j : Nat) : v.account j = if j = i then b else s.account j := by
    rw [hv]
    exact (State.account_setAccount (s.setHold n (some k)) i j b).trans (if_congr eq_comm rfl rfl)
  have slot (m : Fin 24) : v.slot m =
      if m = n then { s.slot n with topUp := (s.slot n).topUp + h.snap.step } else s.slot m := by
    rw [hv]
    exact (State.slot_modSlot _ n m _).trans (if_congr eq_comm rfl rfl)
  have writes : v.writes = s.writes ++ [[.hold n (some k), .account i b]] := by rw [hv]; rfl
  have rest : v.settlement = s.settlement ∧ v.events = s.events ∧ v.gov = s.gov ∧ v.queues = s.queues ∧
      v.elapsed = s.elapsed ∧ ∀ x y, v.half x y = s.half x y := by
    rw [hv]
    exact ⟨rfl, rfl, rfl, rfl, rfl, fun _ _ => rfl⟩
  obtain ⟨settlement, events, gov, queues, elapsed, halves⟩ := rest
  obtain ⟨u, hu⟩ : ∃ u, u = v.showBrief n .topUpAdded h.snap.step := ⟨_, rfl⟩
  have taken : t = if (u.slot n).state = .running then u.showLasting n ⟨.running, u.minutesLeft n⟩ else u := by
    rw [hu, hv]
    rfl
  obtain ⟨ts, brief⟩ := hu ▸ showBrief_eq v n .topUpAdded h.snap.step
  have own : u.slot n = { s.slot n with topUp := (s.slot n).topUp + h.snap.step } := by
    rw [brief]
    exact (slot n).trans (if_pos rfl)
  have half : u.half c.term c.half = (s.half c.term c.half).setBrief ⟨.topUpAdded, h.snap.step⟩ s.elapsed := by
    rw [hu, showBrief_half (by rw [slot, if_pos rfl]; exact cfg), halves, elapsed]
  obtain ⟨ts', ends⟩ : ∃ ts', t = { v with terminals := ts' } := by
    rw [taken]
    split
    · obtain ⟨ts', e⟩ := showLasting_eq u n ⟨.running, u.minutesLeft n⟩
      exact ⟨ts', by rw [e, brief]⟩
    · exact ⟨ts, brief⟩
  have lasting (run : (s.slot n).state = .running) :
      t.half c.term c.half = (u.half c.term c.half).setLasting ⟨.running, t.minutesLeft n⟩ := by
    have minutes : t.minutesLeft n = u.minutesLeft n := by rw [ends, brief]; rfl
    rw [minutes, taken, if_pos (by rw [own]; exact run), showLasting_half (by rw [own]; exact cfg)]
    rfl
  clear_value t
  subst ends
  refine ⟨hold, account, writes, slot, fun shown => ?_, fun run => ?_, settlement, events, gov, queues⟩
  · by_cases run : (s.slot n).state = .running
    · have code := shown.resolve_left (fun k => k run)
      rw [lasting run, setLasting_pending (by rw [half]; exact code) (by rw [half]; rfl), half]
      rfl
    · rw [taken, if_neg (by rw [own]; exact run), half]
      rfl
  · rw [lasting run, setLasting_lasting]

end

theorem startChecks {s : State} {n : Fin 24} {card i : Nat} {c : Fin 4} (cls : s.slotCls n = some c)
    (found : s.findCard card = some i) (active : (s.account i).state = .active)
    (place : s.settlement.records.length + s.holdCount < 64) (rich : s.currentPrice c ≤ (s.account i).available) {a : Account}
    (ha : a = if (s.account i).cap = 0 then s.account i else (s.account i).rolled s.clock.day)
    (cap : a.cap = 0 ∨ a.spent + a.held + s.currentPrice c ≤ a.cap)
    (power : s.gov.motor + (s.govClass c).motor + s.gov.stray ≤ s.settings.governor.budget) :
    s.startTap n card = s.placeHold n c i a card := by
  have sameCap : a.cap = (s.account i).cap := by
    rw [ha]
    split
    · rfl
    · unfold Account.rolled; split <;> rfl
  unfold State.startTap
  simp only [cls, found, ← ha]
  rw [if_neg (by simp [active]), if_neg (by omega), if_neg (by omega), if_neg (by omega),
    if_neg (by simp [(admits_iff s c).2 power])]

theorem topUpChecks {s : State} {n : Fin 24} {i : Nat} {h : Hold} (hn : s.hold n = some h)
    (found : s.findCard h.card = some i) (same : i = h.account) (active : (s.account i).state = .active)
    (fits : (h.steps + 1) * h.snap.step ≤ 60) (rich : h.snap.stepPrice ≤ (s.account i).available) {a : Account}
    (ha : a = if (s.account i).cap = 0 then s.account i else (s.account i).rolled s.clock.day)
    (cap : a.cap = 0 ∨ a.spent + a.held + h.snap.stepPrice ≤ a.cap) : s.topUpTap n h.card = s.takeTopUp n h i a := by
  have sameCap : a.cap = (s.account i).cap := by
    rw [ha]
    split
    · rfl
    · unfold Account.rolled; split <;> rfl
  unfold State.topUpTap
  simp only [hn, found, ← ha]
  rw [if_neg (by simp [same]), if_neg (by simp [active]), if_neg (by omega), if_neg (by omega), if_neg (by omega)]

/-- Settles O20: past their checks a start is `placeHold`, a top-up `takeTopUp`, and a join a new entry at the queue's tail. -/
theorem acceptedTapPlacesTheHold : Obligations.AcceptedTapPlacesTheHold := by
  refine ⟨?_, ?_, ?_⟩
  · intro s n card i c hh hb room state cls found active place rich a cap power h b
    have w : Whole s := whole_iff.2 ⟨hh, hb⟩
    have tap : s.tap n card = s.placeHold n c i a card :=
      (tap_start room state).trans (startChecks cls found active place rich rfl cap power)
    have outside := ((Acts.refl s).tap n card).outside
    rw [tap] at outside ⊢
    obtain ⟨h1, h2, h3, h4, h5, h6, h7, h8, h9⟩ := placeHold_does w (state.imp id And.left) c i a card
    exact ⟨h1, h2, h3, h4, h5, h6, h7, h8, h9, outside⟩
  · intro s n i c h room cfg dryer hn state found same active fits rich a cap t k b
    have busy : (s.slot n).state.busy = true := by
      rcases state with e | e | ⟨e | e, -⟩ <;> rw [e] <;> rfl
    have tap : t = s.takeTopUp n h i a := by
      show s.tap n h.card = _
      rw [tap_held room hn busy, if_pos rfl, ownTap_topUp ⟨dryer, state⟩]
      exact topUpChecks hn found same active fits rich rfl cap
    have outside := ((Acts.refl s).tap n h.card).outside
    obtain ⟨h1, h2, h3, h4, h5, h6, h7, h8, h9, h10⟩ := takeTopUp_does cfg h i a
    rw [tap]
    exact ⟨h1, h2, h3, h4, h5, h6, h7, h8, h9, h10, tap ▸ outside⟩
  · intro s n card i c room busy cls other free found active absent rich short
    have path : s.tap n card = s.busyPath n card := by
      have no : ((s.hold n).any fun h => h.card == card) = false := by
        rw [Option.any_eq_false]
        simpa using other
      rw [tap_busy room busy, if_neg (by simp [no])]
    have reserved (m : Fin 24) : ¬ s.reservedAt c card m := fun ⟨mc, state, r, res, own⟩ => (free m mc).2 state r res own
    have idle (m : Fin 24) : ¬ s.idleAt c m := fun ⟨mc, state⟩ => (free m mc).1 state
    have enough : ¬ (s.account i).available < s.currentPrice c := by omega
    have room8 : ¬ 8 ≤ (s.queue c).length := by omega
    rw [path, busyPath_join cls reserved idle]
    simp [State.join, found, active, positionOf_none absent, enough, room8, Nat.mul_comm]

end Sys2Proof.Machine

namespace Sys2Proof.Machine

/-! ## The interlock's inactive level and the suspension limit (R27, R180, R181) -/

section
variable {s t u : State}

theorem Slot.bystander.refl (x : Slot) : x.bystander x := ⟨rfl, .inl rfl⟩

theorem Slot.bystander.trans {x y z : Slot} (h : x.bystander y) (k : y.bystander z) : x.bystander z :=
  ⟨k.1.trans h.1, SlotState.beside.trans (y := y.state) h.2 k.2⟩

/-- A slot that is neither RESERVED nor RUNNING or in AWAIT_POWER keeps its state beside an act. -/
theorem Slot.bystander.state {x y : Slot} (h : x.bystander y) (hr : x.state ≠ .reserved) (hh : ¬ x.state.heated) :
    y.state = x.state := by
  rcases h.2 with e | ⟨e, -⟩ | ⟨e, -⟩
  · exact e
  · exact absurd e hr
  · exact absurd e hh

theorem Slot.bystander.suspended {x y : Slot} (h : x.bystander y) : y.state = .suspended ↔ x.state = .suspended := by
  constructor
  · intro e
    rcases h.2 with k | ⟨-, k⟩ | ⟨-, k⟩
    · exact k ▸ e
    · exact absurd (e ▸ k) nofun
    · rcases e ▸ k with k | k <;> cases k
  · intro e
    rw [h.state (by rw [e]; exact nofun) (by rw [e]; rintro (k | k) <;> cases k), e]

theorem outside_timer (h : s.outside = t.outside) : s.room.timer = t.room.timer := by
  have := congrArg (fun s : State => s.room.timer) h
  exact this

theorem outside_interlock (h : s.outside = t.outside) : s.room.interlock = t.room.interlock := by
  have := congrArg (fun s : State => s.room.interlock) h
  exact this

/-- The slots of a list that are SUSPENDED. -/
def State.suspendedOf (s : State) (l : List (Fin 24)) : List (Fin 24) := l.filter fun n => (s.slot n).state = .suspended

theorem suspendedOf_congr {l : List (Fin 24)} (h : ∀ m ∈ l, (s.slot m).bystander (t.slot m)) :
    t.suspendedOf l = s.suspendedOf l :=
  List.filter_congr fun m hm => by simp only [decide_eq_decide]; exact (h m hm).suspended

/-- What the suspension limit did at a list of slots, one cycle end after another. -/
structure Limited (l : List (Fin 24)) (s t : State) : Prop where
  records : ∃ rs, t.settlement.records = s.settlement.records ++ rs ∧
    rs.map (fun r => (r.slot, r.reason)) = (s.suspendedOf l).map fun n => (n.val, Reason.abandoned)
  ended : ∀ n ∈ l, (s.slot n).state = .suspended → (t.slot n).state = .finishing ∧ t.hold n = none
  others : ∀ n, n ∉ l ∨ (s.slot n).state ≠ .suspended → t.hold n = s.hold n ∧ (s.slot n).bystander (t.slot n)

theorem limitSlots (l : List (Fin 24)) (hl : l.Nodup) {s : State} (w : Whole s) :
    Limited l s (l.foldl (fun s n => s.limitSlot n) s) := by
  induction l generalizing s with
  | nil => exact ⟨⟨[], by simp, rfl⟩, by simp, fun n _ => ⟨rfl, .refl _⟩⟩
  | cons m l ih =>
    obtain ⟨fresh, hl⟩ := List.nodup_cons.1 hl
    by_cases e : (s.slot m).state = .suspended
    · have step : s.limitSlot m = s.cycleEnd m .abandoned none .finishing := if_pos e
      obtain ⟨h, hm⟩ := Option.isSome_iff_exists.1 (show (s.hold m).isSome = true by rw [w.busy m id, e]; rfl)
      have k := cycleEnd_ended w m h hm .abandoned none (st := .finishing) rfl nofun
      obtain ⟨⟨rs, records, mapped⟩, ended, others⟩ := ih hl (w.limitSlot m)
      rw [List.foldl_cons]
      rw [step] at records mapped ended others ⊢
      generalize s.cycleEnd m .abandoned none .finishing = t at *
      have mstate : (t.slot m).state = .finishing := k.state.resolve_right fun x => nomatch x.1
      have beside (n : Fin 24) (hn : n ≠ m) : (s.slot n).bystander (t.slot n) := k.others n hn
      obtain ⟨mhold, mside⟩ := others m (.inl fresh)
      refine ⟨⟨s.settlementRecord m h .abandoned none :: rs, ?_, ?_⟩, fun n hn state => ?_, fun n hn => ?_⟩
      · rw [records, k.queue]
        simp
      · have rest : t.suspendedOf l = s.suspendedOf l := suspendedOf_congr fun n hn => beside n fun x => fresh (x ▸ hn)
        rw [rest] at mapped
        simp [State.suspendedOf, e] at mapped ⊢
        exact ⟨⟨rfl, rfl⟩, mapped⟩
      · by_cases hm : n = m
        · subst hm
          exact ⟨(mside.state (by rw [mstate]; exact nofun) (by rw [mstate]; rintro (x | x) <;> cases x)).trans mstate,
            mhold.trans (by simp [k.holds])⟩
        · exact ended n ((List.mem_cons.1 hn).resolve_left hm) ((beside n hm).suspended.2 state)
      · have hm : n ≠ m := by
          rintro rfl
          rcases hn with x | x
          · exact x (List.mem_cons_self ..)
          · exact x e
        obtain ⟨hold, side⟩ := others n (hn.imp (fun x y => x (List.mem_cons_of_mem _ y)) (mt (beside n hm).suspended.1))
        exact ⟨hold.trans (by simp [k.holds, hm]), (beside n hm).trans side⟩
    · have step : s.limitSlot m = s := if_neg e
      obtain ⟨⟨rs, records, mapped⟩, ended, others⟩ := ih hl w
      rw [List.foldl_cons, step]
      refine ⟨⟨rs, records, by simpa [State.suspendedOf, e] using mapped⟩, fun n hn state => ?_, fun n hn => ?_⟩
      · exact ended n ((List.mem_cons.1 hn).resolve_left (fun x => e (x ▸ state))) state
      · exact others n (hn.imp (fun x y => x (List.mem_cons_of_mem _ y)) id)

end

/-- Settles O31: the inactive level is one change of the room, and the limit one cycle end after another (`limitSlots`). -/
theorem suspensionsEnd : Obligations.SuspensionsEnd := by
  refine ⟨fun s running on => ⟨fun other => ?_, fun suspended => ?_⟩, fun s d hh hb running timer due => ?_⟩
  · simp [exec, execInterlockInactive, ifRunning_of running, on, State.interlockOff, other]
  · simp [exec, execInterlockInactive, ifRunning_of running, on, State.interlockOff, suspended, State.changeRoom,
      State.roomDisplay, RoomState.display]
  · have w : Whole s := whole_iff.2 ⟨hh, hb⟩
    have k : Limited allSlots ({ s with room := { s.room with timer := .reached } } : State) s.suspensionLimit := by
      unfold State.suspensionLimit Machine.overSlots
      exact limitSlots allSlots (List.nodup_finRange 24) (Law.quiet w ((Quiet.refl s).setRoom _))
    have outside := (suspensionLimit_acts s).outside
    have timer' : s.suspensionLimit.room.timer = .reached := outside_timer outside
    obtain ⟨⟨rs, records, mapped⟩, ended, others⟩ := k
    refine ⟨s.suspensionLimit, rs, by simp [exec, execSuspensionLimit, ifRunning_of running, State.limitReached, timer, due],
      timer', records, mapped, fun n state => ended n (List.mem_finRange n) state, fun n state => others n (.inr state)⟩

end Sys2Proof.Machine

namespace Sys2Proof.Machine

/-! ## The interlock's active level (R26, R117, R179, R181) -/

section
variable {s : State} {n : Fin 24}

/-- What a loop over the slots does at slot `n`, where the other slots' steps are a relation `R` to it. -/
theorem overSlots_at {R : State → State → Prop} (refl : ∀ s, R s s) (trans : ∀ {a b c}, R a b → R b c → R a c)
    {f : Fin 24 → State → State} (n : Fin 24) (hf : ∀ m s, m ≠ n → R s (f m s)) (s : State) :
    ∃ u, R s u ∧ R (f n u) (overSlots f s) := by
  have steps (l : List (Fin 24)) (hl : n ∉ l) (s : State) : R s (l.foldl (fun s m => f m s) s) := by
    induction l generalizing s with
    | nil => exact refl s
    | cons m l ih =>
      exact trans (hf m s fun e => hl (e ▸ List.mem_cons_self ..)) (ih (fun k => hl (List.mem_cons_of_mem _ k)) _)
  obtain ⟨l, r, e⟩ := List.append_of_mem (List.mem_finRange n)
  have nodup : (l ++ n :: r).Nodup := e ▸ List.nodup_finRange 24
  have hl : n ∉ l := fun k => (List.nodup_append.1 nodup).2.2 n k n (List.mem_cons_self ..) rfl
  have hr : n ∉ r := (List.nodup_cons.1 (List.nodup_append.1 nodup).2.1).1
  refine ⟨l.foldl (fun s m => f m s) s, steps l hl s, ?_⟩
  have whole : overSlots f s = r.foldl (fun s m => f m s) (f n (l.foldl (fun s m => f m s) s)) := by
    unfold overSlots allSlots
    rw [e, List.foldl_append, List.foldl_cons]
  rw [whole]
  exact steps r hr _

theorem cycleEnd_hold_ne {m : Fin 24} (hm : m ≠ n) (r : Reason) (f : Option (FaultCode × Option Nat)) (st : SlotState)
    (b : Bool := true) : (s.cycleEnd m r f st b).hold n = s.hold n := by
  cases e : s.hold m with
  | none => rw [cycleEnd_none e r f st b]
  | some h =>
    have holds := (cycleEnd_calm m r f st b (by rw [e]; rfl)).booksKept.holds
    have settled := settle_hold s m n r f
    rw [if_neg hm] at settled
    rw [← settled]
    simp only [State.hold, holds]

theorem haltSlot_hold (m : Fin 24) (r : Resume) : (s.haltSlot m r).hold n = s.hold n := State.enter_hold m .suspended n

/-- A slot halted in a SUSPENDED room (R26). -/
theorem haltSlot_slot (s : State) (n : Fin 24) (r : Resume) : ∃ z t, (s.haltSlot n r).slot n = { s.slot n with
    state := .suspended, heatReq := false, heatGrant := false, resume := some r, outputs := ⟨true, false, false⟩, timer := t,
    sense := z } := by
  unfold State.haltSlot State.setGrant
  rw [State.enter_slot, if_pos rfl, State.slot_modSlot_same, State.slot_modSlot_same]
  exact ⟨_, _, rfl⟩

theorem suspendSlot_apart {m : Fin 24} (hm : m ≠ n) : Apart n s (s.suspendSlot m) ∧ (s.suspendSlot m).hold n = s.hold n := by
  have halt (r : Resume) : Apart n s (s.haltSlot m r) ∧ (s.haltSlot m r).hold n = s.hold n :=
    ⟨(((Apart.refl n s).modSlot hm _).setGrant hm false).enter hm .suspended, haltSlot_hold m r⟩
  unfold State.suspendSlot
  split
  iterate 3 exact halt _
  · exact ⟨(Apart.refl n s).cycleEnd hm _ _ _, cycleEnd_hold_ne hm _ _ _⟩
  all_goals exact ⟨Apart.refl n s, rfl⟩

/-- The part of a suspension that comes before the slots act (R117, R179, R181). -/
def State.suspendRoom (s : State) : State :=
  let fresh : Bool := s.room.state != .held
  let s := s.changeRoom .suspended .interlockActive
  (if fresh then
    { s with room := { s.room with timer := .running (s.elapsed + s.settings.room.limit * 60) } } else s).clearGovernor

theorem suspend_eq (s : State) : s.suspend = overSlots (fun n s => s.suspendSlot n) s.suspendRoom := rfl

theorem outside_elapsed {t : State} (h : s.outside = t.outside) : s.elapsed = t.elapsed := by
  have := congrArg State.elapsed h
  exact this

theorem outside_settings {t : State} (h : s.outside = t.outside) : s.settings = t.settings := by
  have := congrArg State.settings h
  exact this

/-- IDLE, or RESERVED by the offer that follows an entry to IDLE (R5). -/
def SlotState.vacant (st : SlotState) : Prop := st = .idle ∨ st = .reserved

/-- What a suspension at the other slots does to slot `n`, with no request left at the governor. -/
structure Passed (n : Fin 24) (a s : State) : Prop where
  whole : Whole s
  unasked : ∀ m, ¬ s.asked m
  slot : (a.slot n).state ≠ .reserved → s.slot n = a.slot n
  vacant : (a.slot n).state.vacant → (s.slot n).state.vacant
  hold : s.hold n = a.hold n

theorem suspendSlot_passed (w : Whole s) (hu : ∀ m, ¬ s.asked m) {m : Fin 24} (hm : m ≠ n) : Passed n s (s.suspendSlot m) := by
  obtain ⟨apart, hold⟩ := suspendSlot_apart (s := s) hm
  refine ⟨w.suspendSlot hu m, fun k => mt ((suspendSlot_slack s m).1.asked k) (hu k), fun hr => (apart (hu n) hr).2,
    fun o => ?_, hold⟩
  by_cases hr : (s.slot n).state = .reserved
  · by_cases armed : (s.slot m).state = .armed
    · have step : s.suspendSlot m = s.cycleEnd m .notStarted none .idle := by simp [State.suspendSlot, armed]
      obtain ⟨h, hh⟩ := Option.isSome_iff_exists.1 (show (s.hold m).isSome = true by rw [w.busy m id, armed]; rfl)
      rcases ((cycleEnd_ended w m h hh .notStarted none (st := .idle) rfl nofun).others n hm.symm).2 with e | ⟨-, e⟩ | ⟨e, -⟩
      · exact step ▸ .inr (e.trans hr)
      · exact step ▸ .inl e
      · rcases hr ▸ e with k | k <;> cases k
    · have same : (s.suspendSlot m).slot n = s.slot n := by
        have halt (r : Resume) : (s.haltSlot m r).slot n = s.slot n := by
          unfold State.haltSlot State.setGrant
          rw [State.enter_slot, if_neg hm, State.slot_modSlot_ne _ hm, State.slot_modSlot_ne _ hm]
        unfold State.suspendSlot
        split
        iterate 3 exact halt _
        · next e => exact absurd e armed
        all_goals rfl
      rw [same]
      exact o
  · rw [(apart (hu n) hr).2]
    exact o

/-- The slots' part of a suspension, at slot `n`: its own act, with the others' before and after it. -/
theorem suspendSlots_at (w : Whole s) (hu : ∀ m, ¬ s.asked m) (n : Fin 24) :
    ∃ u, Passed n s u ∧ Passed n (u.suspendSlot n) (overSlots (fun n s => s.suspendSlot n) s) := by
  obtain ⟨u, before, after⟩ := overSlots_at (R := fun a s => Whole a → (∀ m, ¬ a.asked m) → Passed n a s)
    (fun a w hu => ⟨w, hu, fun _ => rfl, id, rfl⟩)
    (fun {a b c} h k w hu => by
      have hb := h w hu
      have hc := k hb.whole hb.unasked
      refine ⟨hc.whole, hc.unasked, fun hr => ?_, fun o => hc.vacant (hb.vacant o), hc.hold.trans hb.hold⟩
      have same := hb.slot hr
      exact (hc.slot (by rw [same]; exact hr)).trans same) n
    (fun m a hm w hu => suspendSlot_passed w hu hm) s
  have k := before w hu
  exact ⟨u, k, after (k.whole.suspendSlot k.unasked n) fun m => mt ((suspendSlot_slack u n).1.asked m) (k.unasked m)⟩

/-- The room of a suspension, before the slots act. -/
theorem suspendRoom_does (s : State) : s.suspendRoom.room = ⟨.suspended, s.room.interlock,
      if s.room.state = .held then s.room.timer else .running (s.elapsed + 60 * s.settings.room.limit)⟩ ∧
    (∀ m, ¬ s.suspendRoom.asked m) ∧ (∀ m, (s.suspendRoom.slot m).state = (s.slot m).state) ∧
    (∀ m, s.suspendRoom.hold m = s.hold m) ∧ (Whole s → Whole s.suspendRoom) ∧
    s.told (.roomState s.room.state .suspended s.settings.room.mode s.clock.isSet .interlockActive) s.suspendRoom := by
  have state := changeRoom_room s .suspended .interlockActive
  have outside := ((Acts.refl s).changeRoom .suspended .interlockActive).outside
  have slots := changeRoom_slots (s := s) .suspended .interlockActive
  have quiet := (Quiet.refl s).changeRoom .suspended .interlockActive
  have holds := ((Calm.refl s).changeRoom .suspended .interlockActive).booksKept.holds
  have told : s.told (.roomState s.room.state .suspended s.settings.room.mode s.clock.isSet .interlockActive)
      (s.changeRoom .suspended .interlockActive) :=
    told_of_post (u := { s with room := { s.room with state := .suspended } }) rfl rfl ((Calm.refl _).roomDisplay _).events
  unfold State.suspendRoom
  dsimp only
  generalize s.changeRoom .suspended .interlockActive = v at *
  have room : (if (s.room.state != .held) = true then
      { v with room := { v.room with timer := .running (v.elapsed + v.settings.room.limit * 60) } } else v).room =
        ⟨.suspended, s.room.interlock,
          if s.room.state = .held then s.room.timer else .running (s.elapsed + 60 * s.settings.room.limit)⟩ := by
    by_cases held : s.room.state = .held
    · rw [if_neg (by simp [held]), if_pos held, ← state, ← outside_interlock outside, ← outside_timer outside]
    · rw [if_pos (by simpa using held), if_neg held, ← outside_interlock outside, ← outside_elapsed outside,
        ← outside_settings outside, Nat.mul_comm 60, ← state]
  have rest : Quiet v (if (s.room.state != .held) = true then
      { v with room := { v.room with timer := .running (v.elapsed + v.settings.room.limit * 60) } } else v) ∧
      Calm v (if (s.room.state != .held) = true then
      { v with room := { v.room with timer := .running (v.elapsed + v.settings.room.limit * 60) } } else v) :=
    ⟨Quiet.ite ((Quiet.refl v).setRoom _) (Quiet.refl v), Calm.ite ((Calm.refl v).setRoom _) (Calm.refl v)⟩
  generalize (if (s.room.state != .held) = true then
      { v with room := { v.room with timer := .running (v.elapsed + v.settings.room.limit * 60) } } else v) = t at *
  obtain ⟨quietv, calmv⟩ := rest
  obtain ⟨grants, waits, -, states, held⟩ := clearGovernor_facts t
  have same (m : Fin 24) : t.hold m = s.hold m := by
    have k := calmv.booksKept.holds.trans holds
    simp only [State.hold, k]
  exact ⟨(room_of_aside (aside_clearGovernor t)).trans room,
    fun m => by simp [State.asked, State.granted, State.waiting, grants, waits],
    fun m => ((states m).trans (quietv.state m)).trans (quiet.state m), fun m => (held m).trans (same m),
    fun w => Whole.clearGovernor (Law.quiet (Law.quiet w quiet) quietv),
    fun space => ((told space).trans calmv.events).trans ((Calm.refl t).clearGovernor).events⟩

end

/-- Settles O30: the room first (`suspendRoom_does`), then each slot by its state, which the other slots' acts leave as it is
(`suspendSlots_at`). -/
theorem interlockSuspendsTheRoom : Obligations.InterlockSuspendsTheRoom := by
  intro s running off
  refine ⟨fun suspended => by simp [exec, execInterlockActive, ifRunning_of running, off, State.interlockOn, suspended],
    fun hh hb other => ?_⟩
  have w : Whole s := whole_iff.2 ⟨hh, hb⟩
  obtain ⟨i, hi⟩ : ∃ i, i = ({ s with room := { s.room with interlock := true } } : State) := ⟨_, rfl⟩
  have wi : Whole i := hi ▸ Law.quiet w ((Quiet.refl s).setRoom _)
  have command : exec .interlockActive s = .next i.suspend := by
    simp [exec, execInterlockActive, ifRunning_of running, off, State.interlockOn, other, hi]
  obtain ⟨room, unasked, states, holds, whole, told⟩ := suspendRoom_does i
  have wt := wi.suspend
  have acts : Acts i.suspendRoom i.suspend := (Acts.refl _).overSlots fun n _ _ k => k.suspendSlot n
  have books : Books i.suspendRoom i.suspend := (Books.refl _).overSlots fun n _ _ k => k.suspendSlot n
  obtain ⟨-, unaskedEnd, -, roomEnd⟩ := suspend_does i
  have lists : i.suspend.gov.grants = [] ∧ i.suspend.gov.waits = [] := by
    constructor <;> refine List.eq_nil_iff_forall_not_mem.2 fun r hr => unaskedEnd r.slot ?_
    · exact .inl (List.mem_map_of_mem hr)
    · exact .inr (List.mem_map_of_mem hr)
  have start (n : Fin 24) : (i.suspendRoom.slot n).state = (s.slot n).state ∧ i.suspendRoom.hold n = s.hold n := by
    rw [states, holds, hi]
    exact ⟨rfl, rfl⟩
  refine ⟨i.suspend, command, ?_, fun space => ?_, lists.1, lists.2, fun n => ?_, fun n => ?_⟩
  · have interlock : i.suspend.room.interlock = true := (outside_interlock acts.outside).trans (by rw [room, hi])
    have timer : i.suspend.room.timer =
        if s.room.state = .held then s.room.timer else .running (s.elapsed + 60 * s.settings.room.limit) :=
      (outside_timer acts.outside).trans (by rw [room, hi])
    rw [← roomEnd, ← interlock, ← timer]
  · rw [hi] at told ⊢
    exact (told space).trans (hi ▸ books.events)
  · have flag := mt (wt.heat n id).1.1 fun k => unaskedEnd n (.inl k)
    simpa using flag
  · obtain ⟨u, before, after⟩ := suspendSlots_at (whole wi) unasked n
    obtain ⟨startState, startHold⟩ := start n
    rw [← suspend_eq] at after
    have state (hr : (s.slot n).state ≠ .reserved) : (u.slot n).state = (s.slot n).state := by
      rw [before.slot (by rw [startState]; exact hr), startState]
    have hold : u.hold n = s.hold n := before.hold.trans startHold
    have halted (r : Resume) (e : u.suspendSlot n = u.haltSlot n r) : (i.suspend.slot n).state = .suspended ∧
        i.suspend.hold n = s.hold n ∧ (i.suspend.slot n).outputs = ⟨true, false, false⟩ ∧
        (i.suspend.slot n).resume = some r := by
      obtain ⟨z, d, slot⟩ := haltSlot_slot u n r
      rw [e] at after
      have same := after.slot (by rw [slot]; exact nofun)
      rw [same, slot]
      exact ⟨rfl, (after.hold.trans (haltSlot_hold n r)).trans hold, rfl, rfl⟩
    refine ⟨fun run => ?_, fun armed => ?_, fun stays => ?_⟩
    · rcases run with e | e | e <;> rw [e]
      · exact halted .running (by simp [State.suspendSlot, state (by rw [e]; exact nofun), e])
      · exact halted .running (by simp [State.suspendSlot, state (by rw [e]; exact nofun), e])
      · exact halted .locking (by simp [State.suspendSlot, state (by rw [e]; exact nofun), e])
    · have atU : (u.slot n).state = .armed := (state (by rw [armed]; exact nofun)).trans armed
      have step : u.suspendSlot n = u.cycleEnd n .notStarted none .idle := by simp [State.suspendSlot, atU]
      obtain ⟨h, hh⟩ := Option.isSome_iff_exists.1
        (show (u.hold n).isSome = true by rw [before.whole.busy n id, atU]; rfl)
      have ended := cycleEnd_ended before.whole n h hh .notStarted none (st := .idle) rfl nofun
      rw [step] at after
      exact ⟨after.hold.trans (by simp [ended.holds]), after.vacant (ended.state.imp id And.right)⟩
    · have atU : (u.slot n).state = (s.slot n).state := state (by rcases stays with e | e <;> rw [e] <;> exact nofun)
      have step : u.suspendSlot n = u := by rcases stays with e | e <;> simp [State.suspendSlot, atU, e]
      rw [step] at after
      exact ⟨(congrArg Slot.state (after.slot (by rw [atU]; rcases stays with e | e <;> rw [e] <;> exact nofun))).trans atU,
        after.hold.trans hold⟩

end Sys2Proof.Machine

namespace Sys2Proof.Machine

/-! ## A terminal lost (R31, R40, R141) -/

section
variable {a s t : State} {n : Fin 24}

/-- The stages of a reservation. -/
theorem reserve_cases (m : Fin 24) (c : Fin 4) (e : WaitEntry) (q : List WaitEntry) : ∃ v b,
    (v = ((s.setQueue c q).modSlot m fun x => { x with
        reservation := some ⟨e.card, e.account, e.joined, (s.setQueue c q).settings.room.window * 60⟩ }).postSlot m ∨
      v = ((s.setQueue c q).modSlot m fun x => { x with
        reservation := some ⟨e.card, e.account, e.joined, (s.setQueue c q).settings.room.window * 60⟩ }).enter m .reserved) ∧
    s.reserve m c e q = (v.post b).showLasting m ⟨.reservedYou, 0⟩ := by
  unfold State.reserve
  dsimp only
  split
  · exact ⟨_, _, .inl rfl, rfl⟩
  · exact ⟨_, _, .inr rfl, rfl⟩

/-- The stages of a reservation given back: room for it in its queue, and the offer of an IDLE slot. -/
theorem giveBack_cases (c : Fin 4) (r : Reservation) : ∃ u q,
    (u = s ∨ ∃ q' b, u = (s.setQueue c q').post b) ∧ (s.giveBack c r = u.setQueue c q ∨
      ∃ m, (u.setQueue c q).idleSlot c = some m ∧ s.giveBack c r = (u.setQueue c q).offer m) := by
  unfold State.giveBack
  dsimp only
  by_cases full : 8 ≤ (s.queue c).length
  · rw [if_pos full]
    cases newest : (s.queue c).getLast? with
    | none =>
      dsimp only
      split
      · next m idle => exact ⟨_, _, .inl rfl, .inr ⟨m, idle, rfl⟩⟩
      · exact ⟨_, _, .inl rfl, .inl rfl⟩
    | some e =>
      dsimp only
      split
      · next m idle => exact ⟨_, _, .inr ⟨_, _, rfl⟩, .inr ⟨m, idle, rfl⟩⟩
      · exact ⟨_, _, .inr ⟨_, _, rfl⟩, .inl rfl⟩
  · rw [if_neg full]
    split
    · next m idle => exact ⟨_, _, .inl rfl, .inr ⟨m, idle, rfl⟩⟩
    · exact ⟨_, _, .inl rfl, .inl rfl⟩

/-- What an act at other slots may make of a state: an offer moves between IDLE and RESERVED (R5, R166, R167), the governor
between RUNNING and AWAIT_POWER (R18). -/
def SlotState.near (x y : SlotState) : Prop := y = x ∨ x.vacant ∧ y.vacant ∨ x.heated ∧ y.heated

theorem SlotState.near.trans {x y z : SlotState} (h : x.near y) (k : y.near z) : x.near z := by
  have apart (st : SlotState) (v : st.vacant) (h : st.heated) : False := by
    rcases v with rfl | rfl <;> rcases h with e | e <;> cases e
  rcases h with rfl | ⟨hx, hy⟩ | ⟨hx, hy⟩
  · exact k
  · rcases k with rfl | ⟨-, kz⟩ | ⟨ky, -⟩
    · exact .inr (.inl ⟨hx, hy⟩)
    · exact .inr (.inl ⟨hx, kz⟩)
    · exact (apart y hy ky).elim
  · rcases k with rfl | ⟨ky, -⟩ | ⟨-, kz⟩
    · exact .inr (.inr ⟨hx, hy⟩)
    · exact (apart y ky hy).elim
    · exact .inr (.inr ⟨hx, kz⟩)

theorem SlotState.near.same {x y : SlotState} (h : x.near y) (hv : ¬ x.vacant) (hh : ¬ x.heated) : y = x :=
  h.resolve_right fun k => k.elim (fun k => hv k.1) fun k => hh k.1

/-- No act at other slots leaves a slot UNCONFIGURED. -/
theorem SlotState.near.back {x y : SlotState} (h : x.near y) (k : y = .unconfigured) : x = .unconfigured := by
  subst k
  rcases h with h | ⟨-, h | h⟩ | ⟨-, h | h⟩
  · exact h.symm
  all_goals cases h

theorem SlotState.beside.near {x y : SlotState} (h : x.beside y) : x.near y := by
  rcases h with h | ⟨rfl, rfl⟩ | h
  · exact .inl h
  · exact .inr (.inl ⟨.inr rfl, .inl rfl⟩)
  · exact .inr (.inr h)

/-- Slot `n` before and after acts at other slots: its class, cause set and hold are as they were, and its state is near. -/
structure Near (n : Fin 24) (a s : State) : Prop where
  cfg : (s.slot n).cfg = (a.slot n).cfg
  causes : (s.slot n).causes = (a.slot n).causes
  state : (a.slot n).state.near (s.slot n).state
  hold : s.hold n = a.hold n

namespace Near

theorem refl (n : Fin 24) (a : State) : Near n a a := ⟨rfl, rfl, .inl rfl, rfl⟩

theorem trans {b c : State} (h : Near n a b) (k : Near n b c) : Near n a c :=
  ⟨k.cfg.trans h.cfg, k.causes.trans h.causes, h.state.trans k.state, k.hold.trans h.hold⟩

theorem same (h : Near n a s) (e : t.slot n = s.slot n) (k : t.hold n = s.hold n) : Near n a t :=
  h.trans ⟨by rw [e], by rw [e], .inl (by rw [e]), k⟩

theorem post (h : Near n a s) (b : EventBody) : Near n a (s.post b) :=
  h.same (slot_of_slots (State.post_slots s b) n) (by simp [State.hold])

theorem postSlot (h : Near n a s) (m : Fin 24) : Near n a (s.postSlot m) := h.post _

theorem setQueue (h : Near n a s) (c : Fin 4) (q : List WaitEntry) : Near n a (s.setQueue c q) := h.same rfl rfl

theorem showLasting (h : Near n a s) (m : Fin 24) (d : Display) : Near n a (s.showLasting m d) := by
  obtain ⟨ts, e⟩ := showLasting_eq s m d
  exact e ▸ h.same rfl rfl

theorem modSlot (h : Near n a s) {m : Fin 24} (hm : m ≠ n) (f : Slot → Slot) : Near n a (s.modSlot m f) :=
  h.same (State.slot_modSlot_ne s hm f) rfl

theorem enter (h : Near n a s) {m : Fin 24} (hm : m ≠ n) (st : SlotState) : Near n a (s.enter m st) :=
  h.same (by rw [State.enter_slot, if_neg hm]) (State.enter_hold m st n)

/-- An offer to a waiting card reaches a vacant slot alone. -/
theorem reserve (h : Near n a s) {m : Fin 24} (hm : m = n → (s.slot n).state.vacant) (c : Fin 4) (e : WaitEntry)
    (q : List WaitEntry) : Near n a (s.reserve m c e q) := by
  have hold : (s.reserve m c e q).hold n = s.hold n := by
    have k := ((Calm.refl s).reserve m c e q).booksKept.holds
    simp only [State.hold, k]
  by_cases e' : m = n
  · subst e'
    have calm := ((Calm.refl s).reserve m c e q).slots m
    exact h.trans ⟨calm.1, calm.2, .inr (.inl ⟨hm rfl, .inr (reserve_slot m c e q).1⟩), hold⟩
  · have k := (h.setQueue c q).modSlot e' fun x => { x with
      reservation := some ⟨e.card, e.account, e.joined, (s.setQueue c q).settings.room.window * 60⟩ }
    obtain ⟨v, b, hv, e⟩ := reserve_cases (s := s) m c e q
    rw [e]
    rcases hv with rfl | rfl
    · exact ((k.postSlot m).post b).showLasting m _
    · exact ((k.enter e' .reserved).post b).showLasting m _

theorem offer (h : Near n a s) {m : Fin 24} (hm : m = n → (s.slot n).state.vacant) : Near n a (s.offer m) := by
  unfold State.offer
  split
  · exact h
  · split
    · exact h
    · exact h.reserve hm _ _ _

theorem giveBack (h : Near n a s) (c : Fin 4) (r : Reservation) : Near n a (s.giveBack c r) := by
  obtain ⟨u, q, hu, e⟩ := giveBack_cases (s := s) c r
  have k : Near n a (u.setQueue c q) := by
    rcases hu with rfl | ⟨q', b, rfl⟩
    · exact h.setQueue c q
    · exact ((h.setQueue c q').post b).setQueue c q
  rcases e with e | ⟨m, idle, e⟩ <;> rw [e]
  · exact k
  · exact k.offer fun e => .inl (e ▸ idleSlot_state idle)

theorem takeOut (h : Near n a s) {m : Fin 24} (hm : m ≠ n) : Near n a (s.takeOut m) := by
  unfold State.takeOut
  split
  · exact ((h.modSlot hm _).enter hm _).giveBack _ _
  · exact h.enter hm _

theorem reckon (h : Near n a s) (w : Whole s) (x y z : Bool) : Near n a (s.reckon x y z) := by
  have calm := (Calm.refl s).reckon x y z
  have hold : (s.reckon x y z).hold n = s.hold n := by
    have k := calm.booksKept.holds
    simp only [State.hold, k]
  exact h.trans ⟨(calm.slots n).1, (calm.slots n).2, (reckon_beside s x y z w.heated n).near, hold⟩

theorem cycleEnd (h : Near n a s) (w : Whole s) {m : Fin 24} (hm : m ≠ n) (r : Reason)
    (f : Option (FaultCode × Option Nat)) {st : SlotState} (hb : st.busy = false) (hs : st ≠ .reserved) (b : Bool := true) :
    Near n a (s.cycleEnd m r f st b) := by
  cases e : s.hold m with
  | none => rw [cycleEnd_none e r f st b]; exact h
  | some x =>
    obtain ⟨bare, state⟩ := (cycleEnd_ended w m x e r f hb hs b).others n hm.symm
    have cfg : (Slot.bare _).cfg = (Slot.bare _).cfg := congrArg Slot.cfg bare
    have causes : (Slot.bare _).causes = (Slot.bare _).causes := congrArg Slot.causes bare
    exact h.trans ⟨cfg, causes, SlotState.beside.near state, cycleEnd_hold_ne hm r f st b⟩

theorem joinLost (h : Near n a s) (w : Whole s) {m : Fin 24} (hm : m ≠ n) : Near n a (s.joinLost m) := by
  have k : Near n a (s.setCause m .lost true) := h.modSlot hm _
  have wk : Whole (s.setCause m .lost true) := Law.quiet w ((Quiet.refl s).setCause m _ _)
  unfold State.joinLost
  dsimp only
  split
  · exact h
  split
  · exact k
  · exact k.postSlot m
  iterate 5 exact k.takeOut hm
  all_goals exact k.cycleEnd wk hm .fault (some (.terminalLost, none)) (st := .outOfService) rfl nofun false

end Near

/-- TERMINAL_LOST's raise is its entry, its event and the cause that joins (R141). -/
theorem raiseLost_eq (s : State) (n : Fin 24) : s.raise (some n) .terminalLost = (s.entered n .terminalLost none).joinLost n := by
  have severity : s.severity n .terminalLost = .lost := by simp [State.severity, FaultCode.applied, FaultCode.severity]
  have action (u : State) : u.faultAct n .terminalLost none .lost = u.joinLost n := rfl
  rw [raise_eq, severity, action]
  exact if_neg (by decide)

theorem Near.entered (h : Near n a s) (m : Fin 24) (code : FaultCode) (err : Option Nat) : Near n a (s.entered m code err) := by
  obtain ⟨E, e⟩ := entered_eq s m code err
  exact e ▸ h.same rfl rfl

theorem Near.raiseLost (h : Near n a s) (w : Whole s) {m : Fin 24} (hm : m ≠ n) : Near n a (s.raise (some m) .terminalLost) := by
  rw [raiseLost_eq]
  exact (h.entered m _ _).joinLost (Law.quiet w (entered_quiet s m _ _)) hm

/-- Slot `n` with TERMINAL_LOST in its set. -/
structure Lost (n : Fin 24) (a s : State) : Prop where
  hold : s.hold n = none
  state : (s.slot n).state = .outOfService
  causes : (s.slot n).causes = { (a.slot n).causes with lost := true }

theorem Lost.near {b : State} (h : Lost n a s) (k : Near n s b) : Lost n a b := by
  refine ⟨k.hold.trans h.hold, ?_, k.causes.trans h.causes⟩
  rw [k.state.same ?_ ?_, h.state] <;> rw [h.state] <;> rintro (e | e) <;> cases e

theorem Lost.enter {b : State} (hold : b.hold n = none) (causes : (b.slot n).causes = { (a.slot n).causes with lost := true }) :
    Lost n a (b.enter n .outOfService) := by
  refine ⟨(State.enter_hold n .outOfService n).trans hold, ?_, ?_⟩ <;> rw [State.enter_slot, if_pos rfl]
  exact causes

theorem Lost.takeOut {b : State} (hold : b.hold n = none) (causes : (b.slot n).causes = { (a.slot n).causes with lost := true }) :
    Lost n a (b.takeOut n) := by
  have dropped : ((b.dropReservation n).slot n).causes = (b.slot n).causes :=
    by rw [State.dropReservation, State.slot_modSlot_same]
  unfold State.takeOut
  split
  · exact (Lost.enter (b := b.dropReservation n) hold (dropped.trans causes)).near ((Near.refl n _).giveBack _ _)
  · exact .enter hold causes

/-- TERMINAL_LOST takes a slot out of service, whatever it was doing (R31). -/
theorem joinLost_lost (w : Whole s) (hu : (s.slot n).state ≠ .unconfigured) (hl : (s.slot n).causes.lost = false) :
    Lost n s (s.joinLost n) := by
  have wk : Whole (s.setCause n .lost true) := Law.quiet w ((Quiet.refl s).setCause n _ _)
  have slot : (s.setCause n .lost true).slot n = { s.slot n with causes := { (s.slot n).causes with lost := true } } :=
    State.slot_modSlot_same s n _
  have idle (h : (s.slot n).state.busy = false) : (s.setCause n .lost true).hold n = none := by
    have busy := wk.busy n id
    rw [slot, h] at busy
    simpa using busy
  have busy (h : (s.slot n).state.busy = true) :
      Lost n s ((s.setCause n .lost true).cycleEnd n .fault (some (.terminalLost, none)) .outOfService false) := by
    have held : ((s.setCause n .lost true).hold n).isSome := by rw [wk.busy n id, slot]; exact h
    obtain ⟨x, hx⟩ := Option.isSome_iff_exists.1 held
    obtain ⟨-, z, t, e⟩ := cycleEnd_slot (s.setCause n .lost true) n .fault (some (.terminalLost, none))
      (st := .outOfService) nofun nofun held false
    have none := (cycleEnd_ended wk n x hx .fault (some (.terminalLost, none)) (st := .outOfService) rfl nofun false).holds n
    refine ⟨none.trans (if_pos rfl), by rw [e], by rw [e, slot]⟩
  unfold State.joinLost
  rw [if_neg (by rw [hl]; exact Bool.false_ne_true)]
  dsimp only
  rw [slot]
  dsimp only
  cases state : (s.slot n).state
  case unconfigured => exact (hu state).elim
  case outOfService =>
    have near := (Near.refl n (s.setCause n .lost true)).postSlot n
    refine ⟨near.hold.trans (idle (by rw [state]; rfl)), ?_, near.causes.trans (by rw [slot])⟩
    rw [near.state.same, slot, state] <;> rw [slot] <;> dsimp only <;> rw [state] <;> rintro (e | e) <;> cases e
  case idle | reserved | collect | finishing | faulted => exact .takeOut (idle (by rw [state]; rfl)) (by rw [slot])
  case armed | locking | running | awaitPower | suspended | recovering => exact busy (by rw [state]; rfl)

theorem raiseLost_lost (w : Whole s) (hu : (s.slot n).state ≠ .unconfigured) (hl : (s.slot n).causes.lost = false) :
    Lost n s (s.raise (some n) .terminalLost) := by
  have entered := (Near.refl n s).entered n .terminalLost none
  obtain ⟨E, e⟩ := entered_eq s n .terminalLost none
  have slot : (s.entered n .terminalLost none).slot n = s.slot n := by rw [e]; rfl
  rw [raiseLost_eq]
  obtain ⟨hold, state, causes⟩ := joinLost_lost (n := n) (Law.quiet w (entered_quiet s n .terminalLost none)) (by rw [slot]; exact hu)
    (by rw [slot]; exact hl)
  exact ⟨hold, state, by rw [causes, slot]⟩

/-- The raises at the slots of a lost terminal, one after the other. -/
theorem raisesLost_near {l : List (Fin 24)} (hn : n ∉ l) (w : Whole s) :
    Near n s (l.foldl (fun s m => s.raise (some m) .terminalLost) s) := by
  induction l generalizing s with
  | nil => exact .refl n s
  | cons m l ih =>
    obtain ⟨hm, hl⟩ := List.ne_and_not_mem_of_not_mem_cons hn
    exact ((Near.refl n s).raiseLost w (Ne.symm hm)).trans (ih hl (w.raised (some m) (c := .terminalLost) (by decide) none))

theorem raisesLost_lost {l : List (Fin 24)} (nodup : l.Nodup) (hn : n ∈ l) (w : Whole s)
    (hu : (s.slot n).state ≠ .unconfigured) (hl : (s.slot n).causes.lost = false) :
    Lost n s (l.foldl (fun s m => s.raise (some m) .terminalLost) s) := by
  induction l generalizing s with
  | nil => exact absurd hn List.not_mem_nil
  | cons m l ih =>
    obtain ⟨fresh, nodup⟩ := List.nodup_cons.1 nodup
    have wm := w.raised (some m) (c := .terminalLost) (by decide) none
    rw [List.foldl_cons]
    by_cases e : m = n
    · subst e
      exact (raiseLost_lost w hu hl).near (raisesLost_near fresh wm)
    · have near := (Near.refl n s).raiseLost w e
      obtain ⟨hold, state, causes⟩ := ih nodup ((List.mem_cons.1 hn).resolve_left (Ne.symm e)) wm
        (fun k => hu (near.state.back k)) (by rw [near.causes]; exact hl)
      exact ⟨hold, state, by rw [causes, near.causes]⟩

end

/-! ### The bus through the acts at the slots -/

section
variable {s : State}

theorem bus_of_aside {t : State} (h : t.aside = s.aside) : t.bus = s.bus := by
  have e : ∀ t : State, t.aside.bus = t.bus := fun _ => rfl
  rw [← e t, ← e s, h]

theorem foldl_bus {α : Type} {f : State → α → State} (hf : ∀ s x, (f s x).bus = s.bus) (l : List α) (s : State) :
    (l.foldl f s).bus = s.bus := by
  induction l generalizing s with
  | nil => rfl
  | cons x l ih => exact (ih _).trans (hf s x)

theorem offer_bus (s : State) (n : Fin 24) : (s.offer n).bus = s.bus := by
  unfold State.offer
  split
  · rfl
  · split
    · rfl
    · exact (bus_of_aside (aside_reserve n _ _ _)).trans rfl

theorem enterIdle_bus (s : State) (n : Fin 24) : (s.enterIdle n).bus = s.bus :=
  (offer_bus _ n).trans (bus_of_aside (aside_enter n .idle))

theorem clearWaitlist_bus (s : State) : s.clearWaitlist.bus = s.bus := by
  unfold State.clearWaitlist Machine.overSlots
  refine foldl_bus (fun t n => ?_) allSlots _
  dsimp only
  split
  · exact enterIdle_bus _ n
  · rfl

/-- CLOSED shows what CLOSING showed: a room that closes at its last hold sends no broadcast (R52, R177). -/
theorem holdsEnded_bus (s : State) : s.holdsEnded.bus = s.bus := by
  unfold State.holdsEnded
  split
  · next h =>
    have closing : s.room.state = .closing := h.1
    unfold State.enterRoom
    rw [if_neg nofun, clearWaitlist_bus]
    unfold State.changeRoom
    dsimp only
    rw [closing]
    generalize posted : State.post _ _ = t
    have room : t.room.state = .closed := by rw [← posted]; simp
    have bus : t.bus = s.bus := by rw [← posted]; simp
    unfold State.roomDisplay
    rw [room]
    exact bus
  · rfl

theorem enterEnded_bus (s : State) (n : Fin 24) (st : SlotState) (b : Bool) : (s.enterEnded n st b).bus = s.bus := by
  rcases enterEnded_cases s n st b with e | e <;> rw [e]
  · exact bus_of_aside (aside_enter n st)
  · exact bus_of_aside (aside_enterTold n st)

theorem cycleEnd_bus (s : State) (n : Fin 24) (r : Reason) (f : Option (FaultCode × Option Nat)) (st : SlotState)
    (b : Bool := true) : (s.cycleEnd n r f st b).bus = s.bus := by
  unfold State.cycleEnd
  split
  · rfl
  dsimp only
  rw [holdsEnded_bus]
  have before : (((s.settle n r f).post (.cycleEnd n s.settlement.next)).dropHeat n b).bus = s.bus := by
    rw [bus_of_aside (aside_dropHeat n b), State.post_bus]
    unfold State.settle
    split <;> rfl
  generalize ((s.settle n r f).post (.cycleEnd n s.settlement.next)).dropHeat n b = t at *
  split
  · exact (enterIdle_bus _ n).trans before
  · exact (enterEnded_bus _ n st b).trans before

theorem giveBack_bus (s : State) (c : Fin 4) (r : Reservation) : (s.giveBack c r).bus = s.bus := by
  obtain ⟨u, q, hu, e⟩ := giveBack_cases (s := s) c r
  have k : u.bus = s.bus := by
    rcases hu with rfl | ⟨q', b, rfl⟩
    · rfl
    · simp
  rcases e with e | ⟨m, -, e⟩ <;> rw [e]
  · exact k
  · exact (offer_bus _ m).trans k

theorem takeOut_bus (s : State) (n : Fin 24) : (s.takeOut n).bus = s.bus := by
  unfold State.takeOut
  split
  · exact (giveBack_bus _ _ _).trans (bus_of_aside (aside_enter (s := s.dropReservation n) n _))
  · exact bus_of_aside (aside_enter n _)

theorem joinLost_bus (s : State) (n : Fin 24) : (s.joinLost n).bus = s.bus := by
  unfold State.joinLost
  dsimp only
  split
  · rfl
  split
  · rfl
  · exact State.post_bus _ _
  iterate 5 exact takeOut_bus _ n
  all_goals exact cycleEnd_bus _ n _ _ _ _

theorem raiseLost_bus (s : State) (n : Fin 24) : (s.raise (some n) .terminalLost).bus = s.bus := by
  obtain ⟨E, e⟩ := entered_eq s n .terminalLost none
  rw [raiseLost_eq, joinLost_bus, e]

theorem loseSlots_bus (s : State) (t : Fin 16) : (s.loseSlots t).bus = s.bus := by
  unfold State.loseSlots State.reckonAfter
  exact (bus_of_aside (aside_reckon _ _ _)).trans (foldl_bus (fun s m => raiseLost_bus s m) _ _)

end

/-! ### The third miss -/

theorem mem_slotsOn {s : State} {t : Fin 16} {h : Half} {n : Fin 24} (e : s.slotAt t h = some n) : n ∈ s.slotsOn t := by
  unfold State.slotAt at e
  have at' := List.find?_some e
  unfold State.slotsOn
  cases cfg : (s.slot n).cfg with
  | none => simp [cfg] at at'
  | some c =>
    simp only [cfg, Bool.decide_and, Bool.and_eq_true, decide_eq_true_eq] at at'
    simp [cfg, at'.1, allSlots]

/-- The loss itself (R40): the terminal is LOST and its presence told, and then its slots lose it. -/
def State.lostTo (s : State) (t : Fin 16) : State :=
  ((s.modTerminal t fun x => { x with misses := x.misses + 1 }).modTerminal t fun x => { x with presence := .lost }).post
    (.terminalPresence t .lost)

theorem miss_third {s : State} {t : Fin 16} (present : (s.terminal t).presence = .present) (misses : 2 ≤ (s.terminal t).misses) :
    s.miss t = (s.lostTo t).loseSlots t := by
  unfold State.miss
  rw [if_neg (not_not.2 present)]
  dsimp only
  rw [if_neg (by rw [State.terminal_modTerminal, if_pos rfl]; dsimp only; omega)]
  rfl

theorem lostTo_told {s v : State} {t : Fin 16} (h : Books (s.lostTo t) v) : s.told (.terminalPresence t .lost) v.endExchange :=
  told_of_post (u := (s.modTerminal t fun x => { x with misses := x.misses + 1 }).modTerminal t
    fun x => { x with presence := .lost }) rfl rfl h.events

/-- A terminal's presence is no display: what leaves all outside as it was leaves it. -/
theorem presence_of_outside {s u : State} (h : u.outside = s.outside) (t : Fin 16) :
    (u.terminal t).presence = (s.terminal t).presence := by
  have bare (s : State) : (s.outside.terminal t).presence = (s.terminal t).presence := by
    unfold State.outside State.terminal
    simp [Terminal.bare]
  rw [← bare u, h, bare s]

/-- Settles O7, by the slots of the lost terminal one after the other: what a raise does at its own slot, and how little at the
others. -/
theorem thirdMissLosesTheTerminal : Obligations.ThirdMissLosesTheTerminal := by
  intro s t k c heat busy running turn missed present misses
  have exchange : exec c s = .next ((s.miss t).endExchange) := by
    have e : s.missExchange = (s.miss t).endExchange := by unfold State.missExchange; rw [turn]
    rcases missed with rfl | rfl | ⟨a, rfl⟩ | ⟨chars, rfl, bad⟩
    · simp [exec, execMalformedReply, ifRunning_of running, e]
    · simp [exec, execReplyTimeout, ifRunning_of running, e]
    · simp [exec, execFrameGapTimeout, ifRunning_of running, e]
    · simp [exec, execTerminalReply, ifRunning_of running, turn, bad, e]
  rw [miss_third present misses] at exchange
  have lostTo : Quiet s (s.lostTo t) := (((Quiet.refl s).modTerminal t _).modTerminal t _).post _
  have w : Whole (s.lostTo t) := Law.quiet (whole_iff.2 ⟨heat, busy⟩) lostTo
  have slots : (s.lostTo t).slots = s.slots := State.post_slots _ _
  refine ⟨_, exchange, ?_, ?_, ?_, ?_⟩
  · have bus : ((s.lostTo t).loseSlots t).bus = s.bus := (loseSlots_bus _ t).trans (State.post_bus _ _)
    simp [State.endExchange, bus]
  · have lost : ((s.lostTo t).terminal t).presence = .lost := by
      unfold State.lostTo
      simp [State.terminal, State.modTerminal, State.setTerminal]
    have kept := presence_of_outside ((Acts.refl (s.lostTo t)).loseSlots t).outside t
    rw [lost] at kept
    generalize (s.lostTo t).loseSlots t = v at kept
    exact kept
  · exact lostTo_told ((Books.refl (s.lostTo t)).loseSlots t)
  · intro n h at' hu hl
    have slot : (s.lostTo t).slot n = s.slot n := slot_of_slots slots n
    have mem : n ∈ (s.lostTo t).slotsOn t := by
      have e : (s.lostTo t).slotsOn t = s.slotsOn t := by simp only [State.slotsOn, State.slot, slots]
      exact e ▸ mem_slotsOn at'
    have nodup : ((s.lostTo t).slotsOn t).Nodup := (List.nodup_finRange 24).filter _
    have lost := raisesLost_lost nodup mem w (by rw [slot]; exact hu) (by rw [slot]; exact hl)
    have raised : Whole (((s.lostTo t).slotsOn t).foldl (fun s m => s.raise (some m) .terminalLost) (s.lostTo t)) :=
      Whole.foldl (fun _ m k => Whole.raised k (some m) (by decide) _) _ _ w
    have ended : Lost n (s.lostTo t) ((s.lostTo t).loseSlots t) := by
      unfold State.loseSlots State.reckonAfter
      exact lost.near ((Near.refl n _).reckon raised _ _ _)
    generalize (s.lostTo t).loseSlots t = v at ended
    exact ⟨ended.hold, ended.state, by rw [← slot]; exact ended.causes⟩

end Sys2Proof.Machine

namespace Sys2Proof.Machine

/-! ## Requests that act: the answer at the port (R188 to R190) -/

section
variable {s t : State} {p : Port}

/-- What stands in a state beside its ports and the store turn. -/
def State.inside (s : State) : State :=
  { s with building := State.reset.building, service := State.reset.service, turn := none }

theorem countTaken_inside (s : State) (p : Port) : (s.countTaken p).inside = s.inside := by cases p <;> rfl

theorem setActivity_inside (s : State) (p : Port) (x : Activity) : (s.setActivity p x).inside = s.inside := by cases p <;> rfl

/-- An answer's end touches its port and the store turn alone. -/
theorem finish_inside (x : Answer) (p : Port) (k w : Nat) : (x.finish p k w).inside = x.state.inside := by
  unfold Answer.finish
  split
  · exact setActivity_inside _ _ _
  · exact (show ({ x.state.setActivity p _ with turn := some p } : State).inside = _ from
      (show _ = (x.state.setActivity p _).inside from rfl).trans (setActivity_inside _ _ _))

/-- A port as its request was counted. -/
theorem countTaken_port (s : State) (p : Port) : (s.countTaken p).port p =
    { s.port p with counts := { (s.port p).counts with taken := ((s.port p).counts.taken + 1) % 65536 } } := by cases p <;> rfl

theorem countTaken_other (s : State) (p : Port) : (s.countTaken p).port (otherPort p) = s.port (otherPort p) := by cases p <;> rfl

/-- The ports of a state whose outside is as it was. -/
theorem port_of_outside (h : t.outside = s.outside) (p : Port) : t.port p = s.port p := by
  have e : ∀ t : State, t.outside.port p = t.port p := fun t => by cases p <;> rfl
  rw [← e t, h, e s]

/-- An answer that began changes of the store waits for them, its ports otherwise as they were (R189, R190). -/
theorem finish_awaits {x : Answer} {k w : Nat} (h : ∀ q, x.state.port q = (s.countTaken p).port q) (hw : x.state.writes.length ≠ w) :
    s.awaits p ⟨k, x.status, x.body⟩ (x.finish p k w) := by
  rw [finish_stored hw]
  have own := (h p).trans (countTaken_port s p)
  have other := (h (otherPort p)).trans (countTaken_other s p)
  generalize x.state = u at *
  clear h
  cases p
  · exact ⟨congrArg (fun v : PortUnit => { v with activity := .storing ⟨k, x.status, x.body⟩ u.writes.length }) own, other, rfl⟩
  · exact ⟨congrArg (fun v : PortUnit => { v with activity := .storing ⟨k, x.status, x.body⟩ u.writes.length }) own, other, rfl⟩

/-- An answer that began no change is built at once (R189). -/
theorem finish_answered {x : Answer} {k w : Nat} (h : ∀ q, x.state.port q = (s.countTaken p).port q) (hw : x.state.writes.length = w) :
    (x.finish p k w).port p = (s.port p).answered ⟨k, x.status, x.body⟩ := by
  rw [finish_sent hw]
  have own := (h p).trans (countTaken_port s p)
  generalize x.state = u at *
  cases p <;> exact congrArg (fun v : PortUnit => { v with activity := .built ⟨k, x.status, x.body⟩ }) own

/-- A request answered at once, with nothing changed. -/
theorem finish_replied (s : State) (p : Port) (k : Nat) (st : Status) (b : ReplyBody) :
    (⟨s.countTaken p, st, b⟩ : Answer).finish p k (s.countTaken p).writes.length = s.replied p ⟨k, st, b⟩ :=
  (finish_sent rfl).trans (answer_replied k st b)

theorem countTaken_quiet (s : State) (p : Port) : Quiet s (s.countTaken p) := by
  cases p <;> exact (Quiet.refl s).change rfl rfl rfl

/-! The records inside a state. -/

theorem finish_proj {α : Sort*} (f : State → α) (hf : ∀ u : State, f u = f u.inside) (x : Answer) (p : Port) (k w : Nat) :
    f (x.finish p k w) = f x.state := by rw [hf, finish_inside, ← hf]

theorem countTaken_proj {α : Sort*} (f : State → α) (hf : ∀ u : State, f u = f u.inside) (s : State) (p : Port) :
    f (s.countTaken p) = f s := by rw [hf, countTaken_inside, ← hf]

theorem slot_of_inside (h : t.inside = s.inside) (n : Fin 24) : t.slot n = s.slot n := by
  have e : ∀ t : State, t.inside.slot n = t.slot n := fun _ => rfl
  rw [← e t, h, e s]

theorem hold_of_inside (h : t.inside = s.inside) (n : Fin 24) : t.hold n = s.hold n := by
  have e : ∀ t : State, t.inside.hold n = t.hold n := fun _ => rfl
  rw [← e t, h, e s]

theorem room_of_inside (h : t.inside = s.inside) : t.room = s.room := by
  have e : ∀ t : State, t.inside.room = t.room := fun _ => rfl
  rw [← e t, h, e s]

theorem settings_of_inside (h : t.inside = s.inside) : t.settings = s.settings := by
  have e : ∀ t : State, t.inside.settings = t.settings := fun _ => rfl
  rw [← e t, h, e s]

end

end Sys2Proof.Machine

namespace Sys2Proof.Machine

/-! ## ROOM_RESUME (R27, R182) -/

section
variable {a s t : State} {n : Fin 24}

/-- What a loop over a list does at `n`, which stands in it once, where the other members' steps are a relation `R` to it. -/
theorem foldl_at {R : State → State → Prop} (refl : ∀ s, R s s) (trans : ∀ {a b c}, R a b → R b c → R a c)
    {f : State → Fin 24 → State} (n : Fin 24) (hf : ∀ m s, m ≠ n → R s (f s m)) {l : List (Fin 24)} (nodup : l.Nodup) (hn : n ∈ l)
    (s : State) : ∃ u, R s u ∧ R (f u n) (l.foldl f s) := by
  have steps (l : List (Fin 24)) (hl : n ∉ l) (s : State) : R s (l.foldl f s) := by
    induction l generalizing s with
    | nil => exact refl s
    | cons m l ih =>
      exact trans (hf m s fun e => hl (e ▸ List.mem_cons_self ..)) (ih (fun k => hl (List.mem_cons_of_mem _ k)) _)
  obtain ⟨l, r, rfl⟩ := List.append_of_mem hn
  have hl : n ∉ l := fun k => (List.nodup_append.1 nodup).2.2 n k n (List.mem_cons_self ..) rfl
  have hr : n ∉ r := (List.nodup_cons.1 (List.nodup_append.1 nodup).2.1).1
  refine ⟨l.foldl f s, steps l hl s, ?_⟩
  rw [List.foldl_append, List.foldl_cons]
  exact steps r hr _

/-! ### A slot resumed, seen from another one -/

theorem earlyNotice_slots (s : State) (c : Fin 4) (n : Fin 24) (k : Nat) : (s.earlyNotice c n k).slots = s.slots := by
  unfold State.earlyNotice
  split
  · rfl
  · exact State.post_slots _ _

/-- Compare point A touches its slot's warning flag alone (R25). -/
theorem pointA_slot (s : State) (n m : Fin 24) : ∃ b, (s.pointA n).slot m = { s.slot m with warning := b } ∧
    (m ≠ n → (s.pointA n).slot m = s.slot m) := by
  unfold State.pointA
  split
  · exact ⟨_, rfl, fun _ => rfl⟩
  · split
    · exact ⟨_, rfl, fun _ => rfl⟩
    · rw [slot_of_slots (earlyNotice_slots _ _ _ _)]
      by_cases hm : n = m
      · subst hm
        exact ⟨true, State.slot_modSlot_same _ _ _, fun h => (h rfl).elim⟩
      · rw [State.slot_modSlot_ne _ hm]
        exact ⟨_, rfl, fun _ => rfl⟩

theorem Apart.pointA (h : Apart n a s) {m : Fin 24} (hm : m ≠ n) : Apart n a (s.pointA m) := by
  obtain ⟨b, -, same⟩ := pointA_slot s m n
  exact h.quiet ((Quiet.refl s).pointA m) (same hm.symm)

theorem Apart.startRunning (h : Apart n a s) {m : Fin 24} (hm : m ≠ n) : Apart n a (s.startRunning m) := by
  unfold State.startRunning
  dsimp only
  refine Apart.pointA (Apart.enter ?_ hm .running) hm
  split <;> exact h.modSlot hm _

theorem Apart.resumeSlot (h : Apart n a s) {m : Fin 24} (hm : m ≠ n) : Apart n a (s.resumeSlot m) := by
  have run : Apart n a (s.resumeRunning m) := (h.modSlot hm _).enter hm .running
  have k := h.modSlot hm fun x => { x with resume := none }
  unfold State.resumeSlot
  refine Apart.ite h ?_
  dsimp only
  split
  · exact Apart.ite (k.startRunning hm) (k.enter hm .locking)
  iterate 2 exact Apart.ite (h.cycleEnd hm _ _ _) run

theorem hold_of_calm (h : Calm s t) (n : Fin 24) : t.hold n = s.hold n := by
  simp only [State.hold, h.booksKept.holds]

/-- Compare point A leaves the room alone. -/
theorem pointA_room (s : State) (n : Fin 24) : (s.pointA n).room = s.room := by
  unfold State.pointA State.earlyNotice
  split
  · rfl
  · split
    · rfl
    · split
      · rfl
      · exact State.post_room _ _

theorem startRunning_room (s : State) (n : Fin 24) : (s.startRunning n).room = s.room := by
  unfold State.startRunning
  dsimp only
  rw [pointA_room, room_of_aside (aside_enter n .running)]
  split <;> rfl

/-- The room is in the state it was in, or a CLOSING one has closed (R177). -/
def State.follows (a s : State) : Prop := s.room.state = a.room.state ∨ a.room.state = .closing ∧ s.room.state = .closed

theorem State.follows.trans {b c : State} (h : a.follows b) (k : b.follows c) : a.follows c := by
  rcases h with e | ⟨e, e'⟩ <;> rcases k with e2 | ⟨e2, e3⟩
  · exact .inl (e2.trans e)
  · exact .inr ⟨e ▸ e2, e3⟩
  · exact .inr ⟨e, e2.trans e'⟩
  · rw [e'] at e2; cases e2

theorem State.follows.of_room (h : t.room = s.room) : s.follows t := .inl (congrArg Room.state h)

theorem cycleEnd_follows (w : Whole s) (n : Fin 24) (r : Reason) (f : Option (FaultCode × Option Nat)) {st : SlotState}
    (hb : st.busy = false) (hs : st ≠ .reserved) (b : Bool := true) : s.follows (s.cycleEnd n r f st b) := by
  cases e : s.hold n with
  | none => rw [cycleEnd_none e r f st b]; exact .inl rfl
  | some h =>
    have room := (cycleEnd_ended w n h e r f hb hs b).room
    split at room
    · next k => exact .inr ⟨k.1, room⟩
    · exact .inl room

theorem resumeSlot_hold_ne {m : Fin 24} (hm : m ≠ n) : (s.resumeSlot m).hold n = s.hold n := by
  have cleared : Calm s (s.modSlot m fun x => { x with resume := none }) :=
    (Calm.refl s).modSlot m (fun x => { x with resume := none }) fun _ => ⟨rfl, rfl⟩
  have run : (s.resumeRunning m).hold n = s.hold n := hold_of_calm ((Calm.refl s).resumeRunning m) n
  unfold State.resumeSlot
  dsimp only
  split
  · rfl
  split
  · split
    · exact hold_of_calm (cleared.startRunning m) n
    · exact hold_of_calm (cleared.enter m .locking) n
  iterate 2
    · split
      · exact cycleEnd_hold_ne hm _ _ _
      · exact run

theorem resumeRunning_room (s : State) (n : Fin 24) : (s.resumeRunning n).room = s.room := by
  unfold State.resumeRunning
  dsimp only
  rw [room_of_aside (aside_enter n .running)]
  rfl

theorem resumeSlot_follows (w : Whole s) (m : Fin 24) : s.follows (s.resumeSlot m) := by
  unfold State.resumeSlot
  dsimp only
  split
  · exact .inl rfl
  split
  · split
    · exact .of_room (startRunning_room _ m)
    · exact .of_room (room_of_aside (aside_enter m .locking))
  iterate 2
    · split
      · exact cycleEnd_follows w m .completed none (st := .finishing) rfl nofun
      · exact .of_room (resumeRunning_room s m)

theorem resumed_follows (l : List (Fin 24)) {s : State} (w : Whole s) : s.follows (l.foldl (fun s m => s.resumeSlot m) s) := by
  induction l generalizing s with
  | nil => exact .inl rfl
  | cons m l ih => exact (resumeSlot_follows w m).trans (ih (w.resumeSlot m))

/-- What the resumption of other slots leaves of slot `n`. -/
structure Resumed (n : Fin 24) (a s : State) : Prop where
  whole : Whole a → Whole s
  apart : Apart n a s
  hold : s.hold n = a.hold n
  acts : Acts a s

theorem Resumed.refl (n : Fin 24) (a : State) : Resumed n a a := ⟨id, .refl n a, rfl, .refl a⟩

theorem Resumed.trans {b c : State} (h : Resumed n a b) (k : Resumed n b c) : Resumed n a c :=
  ⟨k.whole ∘ h.whole, h.apart.trans k.apart, k.hold.trans h.hold, h.acts.trans k.acts⟩

theorem resumeSlot_resumed {m : Fin 24} (hm : m ≠ n) : Resumed n s (s.resumeSlot m) :=
  ⟨fun w => w.resumeSlot m, (Apart.refl n s).resumeSlot hm, resumeSlot_hold_ne hm, (Acts.refl s).resumeSlot m⟩

/-! ### A slot's own resumption -/

/-- The state into which a SUSPENDED slot is resumed, by its resume point and its view (R27). -/
def State.resumesAs (s : State) (n : Fin 24) : SlotState :=
  if (s.slot n).resume = some .locking then
    if (s.slot n).view.lock = .locked ∧ (s.slot n).view.doorOpen = false then .running else .locking
  else if s.kind n = .washer ∧ (s.slot n).view.status = .done then .finishing else .running

theorem enter_own (s : State) (n : Fin 24) (st : SlotState) (hu : ¬ s.asked n) :
    ¬ (s.enter n st).asked n ∧ ((s.enter n st).slot n).state = st :=
  ⟨mt (enter_asked n n st).1 hu, by rw [State.enter_state, if_pos rfl]⟩

theorem startRunning_own (s : State) (n : Fin 24) (hu : ¬ s.asked n) :
    ¬ (s.startRunning n).asked n ∧ ((s.startRunning n).slot n).state = .running := by
  obtain ⟨t, q, e⟩ := startRunning_quiet s n
  obtain ⟨asked, state⟩ := enter_own t n .running (mt (q.asked n).1 hu)
  have p := (Quiet.refl (t.enter n .running)).pointA n
  rw [e]
  exact ⟨mt (p.asked n).1 asked, (p.state n).trans state⟩

/-- A SUSPENDED slot resumed (R27). -/
theorem resumeSlot_own (state : (s.slot n).state = .suspended) (hu : ¬ s.asked n) (held : (s.hold n).isSome) :
    ¬ (s.resumeSlot n).asked n ∧ ((s.resumeSlot n).slot n).state = s.resumesAs n ∧
      (s.resumeSlot n).hold n = if s.resumesAs n = .finishing then none else s.hold n := by
  have cleared : Calm s (s.modSlot n fun x => { x with resume := none }) :=
    (Calm.refl s).modSlot n (fun x => { x with resume := none }) fun _ => ⟨rfl, rfl⟩
  have asked : ¬ (s.modSlot n fun x => { x with resume := none }).asked n := hu
  have ended : ¬ (s.cycleEnd n .completed none .finishing).asked n ∧
      ((s.cycleEnd n .completed none .finishing).slot n).state = .finishing ∧
      (s.cycleEnd n .completed none .finishing).hold n = none := by
    obtain ⟨asked, z, t, e⟩ := cycleEnd_slot s n .completed none (st := .finishing) nofun nofun held
    refine ⟨asked, by rw [e], ?_⟩
    have calm := cycleEnd_calm n .completed none .finishing true held
    rw [hold_of_calm calm n, settle_hold, if_pos rfl]
  have run : ¬ (s.resumeRunning n).asked n ∧ ((s.resumeRunning n).slot n).state = .running ∧
      (s.resumeRunning n).hold n = s.hold n := by
    have asked : ¬ (s.modSlot n fun x => { x with
      resume := none, heatReq := if (s.kind n == .washer) = true then x.view.heat else x.phase == .dry }).asked n := hu
    obtain ⟨k, e⟩ := enter_own _ n .running asked
    exact ⟨k, e, hold_of_calm ((Calm.refl s).resumeRunning n) n⟩
  unfold State.resumeSlot State.resumesAs
  dsimp only
  rw [if_neg (not_not.2 state)]
  split
  · next point =>
    rw [if_pos point]
    generalize (s.modSlot n fun x => { x with resume := none }) = t at *
    by_cases view : (s.slot n).view.lock = .locked ∧ (s.slot n).view.doorOpen = false
    · rw [if_pos view, if_pos (by simpa using view), if_neg nofun]
      obtain ⟨k, e⟩ := startRunning_own t n asked
      exact ⟨k, e, hold_of_calm (cleared.startRunning n) n⟩
    · rw [if_neg view, if_neg (by simpa using view), if_neg nofun]
      obtain ⟨k, e⟩ := enter_own t n .locking asked
      exact ⟨k, e, hold_of_calm (cleared.enter n .locking) n⟩
  all_goals
    next point =>
    rw [if_neg (show ¬ (s.slot n).resume = some .locking by rw [point]; nofun)]
    split
    · rw [if_pos rfl]; exact ended
    · rw [if_neg nofun]; exact run

/-! ### The heat asked for at one event (R117) -/

theorem placeNew_slots (s : State) (n : Fin 24) : (s.placeNew n).slots = s.slots ∧ (s.placeNew n).room = s.room := by
  unfold State.placeNew
  split
  · exact ⟨rfl, rfl⟩
  · exact ⟨rfl, rfl⟩
  · dsimp only
    split <;> exact ⟨rfl, rfl⟩

theorem placeNews_whole (w : Whole s) {l : List (Fin 24)} (hl : ∀ m ∈ l, (s.slot m).state = .running) :
    Whole (l.foldl (fun s m => s.placeNew m) s) := by
  induction l generalizing s with
  | nil => exact w
  | cons m l ih =>
    obtain ⟨wm, slots, -⟩ := Law.placeNew w (hl m (List.mem_cons_self ..))
    exact ih wm fun k hk => by rw [slots]; exact hl k (List.mem_cons_of_mem _ hk)

theorem placeNews_slots (l : List (Fin 24)) (s : State) : (l.foldl (fun s m => s.placeNew m) s).slots = s.slots ∧
    (l.foldl (fun s m => s.placeNew m) s).room = s.room := by
  induction l generalizing s with
  | nil => exact ⟨rfl, rfl⟩
  | cons m l ih =>
    obtain ⟨slots, room⟩ := ih (s.placeNew m)
    exact ⟨slots.trans (placeNew_slots s m).1, room.trans (placeNew_slots s m).2⟩

/-- Slots that ask for heat run or wait for it; the others are at most moved by the reckoning (R18). -/
theorem askHeat_near (w : Whole s) {ns : List (Fin 24)} (hr : ∀ m ∈ ns, (s.slot m).state = .running) (n : Fin 24) :
    (s.slot n).state.near ((s.askHeat ns).slot n).state := by
  unfold State.askHeat
  split
  · exact .inl rfl
  next some =>
  clear some
  dsimp only
  have placed := placeNews_whole w hr
  have slots := (placeNews_slots ns s).1
  generalize ns.foldl (fun s m => s.placeNew m) s = t at *
  have reckoned : ∀ m, (s.slot m).state.near ((t.reckon false true false).slot m).state := fun m => by
    have k := (reckon_beside t false true false placed.heated m).near
    rwa [slot_of_slots slots m] at k
  generalize t.reckon false true false = u at *
  clear placed slots
  induction ns generalizing u with
  | nil => exact reckoned n
  | cons m l ih =>
    refine ih (fun k hk => hr k (List.mem_cons_of_mem _ hk)) _ fun k => ?_
    dsimp only
    split
    · exact reckoned k
    · by_cases e : m = k
      · subst e
        rw [State.enter_state, if_pos rfl, hr m (List.mem_cons_self ..)]
        exact .inr (.inr ⟨.inl rfl, .inr rfl⟩)
      · rw [State.enter_state, if_neg e]
        exact reckoned k

theorem askHeat_room (s : State) (ns : List (Fin 24)) : (s.askHeat ns).room = s.room := by
  unfold State.askHeat
  split
  · rfl
  next some =>
  clear some
  dsimp only
  have room := (placeNews_slots ns s).2
  generalize ns.foldl (fun s m => s.placeNew m) s = t at *
  have reckoned : (t.reckon false true false).room = s.room := (room_of_aside (aside_reckon false true false)).trans room
  generalize t.reckon false true false = u at *
  clear room
  induction ns generalizing u with
  | nil => exact reckoned
  | cons m l ih =>
    refine ih _ ?_
    dsimp only
    split
    · exact reckoned
    · exact (room_of_aside (aside_enter m .awaitPower)).trans reckoned

theorem foldl_room {α : Type} {f : State → α → State} (hf : ∀ s x, (f s x).room = s.room) (l : List α) (s : State) :
    (l.foldl f s).room = s.room := by
  induction l generalizing s with
  | nil => rfl
  | cons x l ih => exact (ih _).trans (hf s x)

theorem openDisplays_room (s : State) : s.openDisplays.room = s.room := by
  unfold State.openDisplays
  refine foldl_room (fun s t => ?_) allTerminals s
  rfl

/-- The resumption of a room at one of its SUSPENDED slots (R27, R182). -/
structure Going (n : Fin 24) (a s : State) : Prop where
  state : (a.resumesAs n).near (s.slot n).state
  hold : s.hold n = if a.resumesAs n = .finishing then none else a.hold n

theorem resumesAs_settled (s : State) (n : Fin 24) : ¬ (s.resumesAs n).vacant := by
  unfold State.resumesAs
  split <;> split <;> rintro (e | e) <;> cases e

theorem resumesAs_congr (slot : t.slot n = s.slot n) (settings : t.settings = s.settings) : t.resumesAs n = s.resumesAs n := by
  unfold State.resumesAs State.kind State.slotCls State.cls
  rw [slot, settings]

/-- The slots' resumption at slot `n`: its own, with the others' before and after it. -/
theorem resumed_going (w : Whole s) (state : (s.slot n).state = .suspended) :
    Going n s (s.suspendedSlots.foldl (fun s m => s.resumeSlot m) s) := by
  have nodup : s.suspendedSlots.Nodup := (List.nodup_finRange 24).filter _
  have mem : n ∈ s.suspendedSlots := by simp [State.suspendedSlots, allSlots, state]
  obtain ⟨u, before, after⟩ := foldl_at (R := Resumed n) (Resumed.refl n) Resumed.trans n
    (fun m s hm => resumeSlot_resumed hm) nodup mem s
  obtain ⟨asked, slot⟩ := before.apart (w.unasked id (state ▸ cold_suspended)).1 (by rw [state]; nofun)
  have held : (u.hold n).isSome := by rw [(before.whole w).busy n id, slot, state]; rfl
  obtain ⟨asked, entered, hold⟩ := resumeSlot_own (by rw [slot, state]) asked held
  rw [resumesAs_congr slot (outside_settings before.acts.outside)] at entered hold
  obtain ⟨-, last⟩ := after.apart asked (by rw [entered]; exact fun e => resumesAs_settled s n (.inr e))
  refine ⟨.inl ?_, ?_⟩
  · rw [last, entered]
  · rw [after.hold, hold, before.hold]

theorem resumeSlots_going (w : Whole s) (state : (s.slot n).state = .suspended) : Going n s s.resumeSlots := by
  have going := resumed_going w state
  have whole : Whole (s.suspendedSlots.foldl (fun s m => s.resumeSlot m) s) := Whole.foldl (fun _ m k => k.resumeSlot m) _ _ w
  unfold State.resumeSlots
  dsimp only
  generalize s.suspendedSlots.foldl (fun s m => s.resumeSlot m) s = t at *
  refine ⟨going.state.trans (askHeat_near whole (fun m hm => ?_) n), ?_⟩
  · have := (List.mem_filter.1 hm).2
    simp only [Bool.decide_and, Bool.and_eq_true, decide_eq_true_eq] at this
    exact this.1
  · rw [hold_of_calm ((Calm.refl t).askHeat _) n, going.hold]

theorem resumeSlots_follows (w : Whole s) : s.follows s.resumeSlots := by
  unfold State.resumeSlots
  exact (resumed_follows _ w).trans (.of_room (askHeat_room _ _))

/-- The part of ROOM_RESUME before the slots (R182). -/
def State.resumedRoom (s : State) : State :=
  State.changeRoom { s with room := { s.room with timer := .idle } } s.modeState .resume

/-- ROOM_RESUME at one of the SUSPENDED slots (R27, R182). -/
theorem resumeRoom_going (w : Whole s) (state : (s.slot n).state = .suspended) : Going n s s.resumeRoom := by
  have quiet : Quiet s s.resumedRoom := ((Quiet.refl s).setRoom { s.room with timer := .idle }).changeRoom _ _
  have slot : s.resumedRoom.slot n = s.slot n := slot_of_slots (changeRoom_slots _ _) n
  have hold : s.resumedRoom.hold n = s.hold n :=
    hold_of_calm ((Calm.refl ({ s with room := { s.room with timer := .idle } } : State)).changeRoom _ _) n
  have acts := (Acts.refl ({ s with room := { s.room with timer := .idle } } : State)).changeRoom s.modeState .resume
  have settings : s.resumedRoom.settings = s.settings := (outside_settings acts.outside).trans rfl
  have wr := Law.quiet w quiet
  have going := resumeSlots_going (n := n) wr (by rw [slot, state])
  have whole := Whole.resumeSlots wr
  have e : s.resumeRoom = if s.resumedRoom.resumeSlots.room.state = .openRoom then s.resumedRoom.resumeSlots.openDisplays
    else s.resumedRoom.resumeSlots.clearWaitlist := rfl
  rw [e]
  generalize s.resumedRoom.resumeSlots = v at *
  obtain ⟨state, hold'⟩ := going
  rw [resumesAs_congr slot settings] at state hold'
  rw [hold] at hold'
  split
  · refine ⟨?_, (hold_of_calm (Calm.refl v).openDisplays n).trans hold'⟩
    rw [slot_of_slots openDisplays_slots]
    exact state
  · exact ⟨state.trans (clearWaitlist_beside whole n).near, (hold_of_calm (Calm.refl v).clearWaitlist n).trans hold'⟩

theorem resumeRoom_state (w : Whole s) :
    s.resumeRoom.room.state = s.modeState ∨ s.modeState = .closing ∧ s.resumeRoom.room.state = .closed := by
  have quiet : Quiet s s.resumedRoom := ((Quiet.refl s).setRoom { s.room with timer := .idle }).changeRoom _ _
  have follows := resumeSlots_follows (Law.quiet w quiet)
  have room : s.resumedRoom.room.state = s.modeState := changeRoom_room _ _ _
  have e : s.resumeRoom = if s.resumedRoom.resumeSlots.room.state = .openRoom then s.resumedRoom.resumeSlots.openDisplays
    else s.resumedRoom.resumeSlots.clearWaitlist := rfl
  have last : s.resumeRoom.room = s.resumedRoom.resumeSlots.room := by
    rw [e]
    split
    · exact openDisplays_room _
    · exact clearWaitlist_room _
  rw [last, ← room]
  exact follows

/-- Settles O49, by what the slots' resumptions one after the other do at a slot. -/
theorem resumeSetsTheRoomGoing : Obligations.ResumeSetsTheRoomGoing := by
  intro s p ready turn
  have same : (s.countTaken p).room = s.room := by simp [State.countTaken]
  have act : exec (.roomResume p []) s = .next ((if s.room.state = .held then
      (s.countTaken p).resumeRoom.ok (.resumed (s.countTaken p).modeState (s.countTaken p).suspendedSlots.length)
      else (s.countTaken p).refuse .wrongState).finish p 0x51 (s.countTaken p).writes.length) := by
    rw [← same]
    exact congrArg _ (request_ok ready (by cases p <;> rfl) rfl (fun _ => turn) _)
  refine ⟨fun room => ?_, fun room heat busy => ?_⟩
  · rw [act, if_neg room]
    exact congrArg _ (finish_replied s p 0x51 .wrongState .empty)
  rw [act, if_pos room]
  have w : Whole (s.countTaken p) := Law.quiet (whole_iff.2 ⟨heat, busy⟩) (countTaken_quiet s p)
  have acts := resumeRoom_acts (s.countTaken p)
  have mode : (s.countTaken p).modeState = s.modeState := by cases p <;> rfl
  have suspended : (s.countTaken p).suspendedSlots = allSlots.filter fun n => (s.slot n).state = .suspended := by cases p <;> rfl
  rw [mode, suspended]
  generalize answer : (s.countTaken p).resumeRoom.ok _ = x
  have state : x.state = (s.countTaken p).resumeRoom := by rw [← answer]; rfl
  have ports (q : Port) : x.state.port q = (s.countTaken p).port q := by
    rw [state, port_of_outside acts.outside]
    cases q <;> rfl
  have inside := finish_inside x p 0x51 (s.countTaken p).writes.length
  rw [state] at inside
  refine ⟨_, rfl, ?_, ?_, ⟨_, rfl, ?_⟩, fun n at' => ?_⟩
  · rw [room_of_inside inside]
    exact (outside_timer acts.outside).trans rfl
  · rw [room_of_inside inside, ← mode]
    exact resumeRoom_state w
  · have reply : (⟨0x51, x.status, x.body⟩ : Reply) = ⟨0x51, .ok, .resumed s.modeState
        (allSlots.filter fun n => (s.slot n).state = .suspended).length⟩ := by rw [← answer]; rfl
    rw [← reply]
    by_cases written : x.state.writes.length = (s.countTaken p).writes.length
    · exact .inl (finish_answered ports written)
    · exact .inr (finish_awaits ports written)
  have slot := slot_of_inside (countTaken_inside s p) n
  have going := resumeRoom_going w (n := n) (by rw [slot, at'])
  rw [slot_of_inside inside, hold_of_inside inside]
  obtain ⟨state, hold⟩ := going
  rw [resumesAs_congr slot (settings_of_inside (countTaken_inside s p))] at state hold
  rw [hold_of_inside (countTaken_inside s p)] at hold
  have runs {st : SlotState} (k : SlotState.running.near st) : st.heated := by
    rcases k with rfl | ⟨k | k, -⟩ | ⟨-, k⟩
    · exact .inl rfl
    · cases k
    · cases k
    · exact k
  generalize (s.countTaken p).resumeRoom = v at *
  unfold State.resumesAs at state hold
  refine ⟨fun point => ?_, fun point => ?_⟩
  · rw [if_pos point] at state hold
    split at state
    · next view => exact ⟨by rw [hold, if_pos view, if_neg nofun], by rw [if_pos view]; exact runs state⟩
    · next view => exact ⟨by rw [hold, if_neg view, if_neg nofun], by
        rw [if_neg view]; exact state.same (by rintro (e | e) <;> cases e) (by rintro (e | e) <;> cases e)⟩
  · rw [if_neg point] at state hold
    split at state
    · next done =>
      rw [if_pos done] at hold ⊢
      exact ⟨hold.trans (if_pos rfl), state.same (by rintro (e | e) <;> cases e) (by rintro (e | e) <;> cases e)⟩
    · next done =>
      rw [if_neg done] at hold ⊢
      exact ⟨hold.trans (if_neg nofun), runs state⟩

end

end Sys2Proof.Machine

namespace Sys2Proof.Machine

/-! ## The governor's figures after a reckoning (R104, R105) -/

section
variable {s t : State} {n : Fin 24}

/-- The governor's figures are brought up to date: the motor allowance is the motor-active slots', and the effective heat
budget what it leaves (R104, R105). -/
def State.figured (s : State) : Prop := s.gov.motor = s.motorSum ∧ s.gov.heat = s.heatBudget

/-- A slot keeps its share in the motor allowance. -/
def Slot.sharesAs (x y : Slot) : Prop := y.cfg = x.cfg ∧ y.motorActive = x.motorActive

theorem motorSum_congr (settings : t.settings = s.settings) (slots : ∀ m, (s.slot m).sharesAs (t.slot m)) :
    t.motorSum = s.motorSum := by
  have draw (m : Fin 24) : t.motorDraw m = s.motorDraw m := by
    unfold State.motorDraw State.slotCls State.govClass
    rw [(slots m).1, settings]
  unfold State.motorSum
  simp only [draw, (slots _).2]

theorem State.figured.congr (h : s.figured) (motor : t.gov.motor = s.gov.motor) (heat : t.gov.heat = s.gov.heat)
    (stray : t.gov.stray = s.gov.stray) (settings : t.settings = s.settings) (slots : ∀ m, (s.slot m).sharesAs (t.slot m)) :
    t.figured := by
  refine ⟨by rw [motor, h.1, motorSum_congr settings slots], ?_⟩
  rw [heat, h.2]
  unfold State.heatBudget
  rw [motor, stray, settings]

/-- A move between RUNNING and AWAIT_POWER, or from RESERVED to IDLE, is none in the motor allowance (R104). -/
theorem Slot.sharesAs.of_beside {x y : Slot} (cfg : y.cfg = x.cfg) (causes : y.causes = x.causes) (h : x.state.beside y.state) :
    x.sharesAs y := by
  refine ⟨cfg, ?_⟩
  unfold Slot.motorActive
  rcases h with e | ⟨e, e'⟩ | ⟨e | e, e' | e'⟩
  · rw [e, causes]
  all_goals rw [e, e']

/-! ### What leaves the governor's figures as they are -/

theorem reserve_gov (s : State) (n : Fin 24) (c : Fin 4) (e : WaitEntry) (q : List WaitEntry) : (s.reserve n c e q).gov = s.gov := by
  obtain ⟨v, b, hv, e1⟩ := reserve_cases (s := s) n c e q
  obtain ⟨ts, e2⟩ := showLasting_eq (v.post b) n ⟨.reservedYou, 0⟩
  have posted : (s.reserve n c e q).gov = (v.post b).gov := by rw [e1, e2]
  rw [posted, State.post_gov]
  rcases hv with rfl | rfl
  · exact State.post_gov _ _
  · exact (State.enter_rest n .reserved).1

theorem offer_gov (s : State) (n : Fin 24) : (s.offer n).gov = s.gov := by
  unfold State.offer
  split
  · rfl
  · split
    · rfl
    · exact reserve_gov _ _ _ _ _

theorem enterIdle_gov (s : State) (n : Fin 24) : (s.enterIdle n).gov = s.gov := (offer_gov _ n).trans (State.enter_rest n .idle).1

theorem foldl_gov {α : Type} {f : State → α → State} (hf : ∀ s x, (f s x).gov = s.gov) (l : List α) (s : State) :
    (l.foldl f s).gov = s.gov := by
  induction l generalizing s with
  | nil => rfl
  | cons x l ih => exact (ih _).trans (hf s x)

theorem clearWaitlist_gov (s : State) : s.clearWaitlist.gov = s.gov := by
  unfold State.clearWaitlist Machine.overSlots
  refine foldl_gov (fun t n => ?_) allSlots _
  dsimp only
  split
  · exact enterIdle_gov _ n
  · rfl

theorem displayAll_gov (s : State) (d : Display) : (s.displayAll d).gov = s.gov := by
  unfold State.displayAll
  refine foldl_gov (fun s t => ?_) allTerminals s
  rfl

theorem roomDisplay_gov (s : State) (r : RoomState) : (s.roomDisplay r).gov = s.gov := by
  unfold State.roomDisplay
  split
  · rfl
  · split
    · rfl
    · dsimp only
      exact displayAll_gov _ _

theorem changeRoom_gov (s : State) (r : RoomState) (c : RoomCause) : (s.changeRoom r c).gov = s.gov :=
  (roomDisplay_gov _ _).trans (State.post_gov _ _)

/-- A room that closes at its last hold leaves the figures as they are (R167, R177). -/
theorem State.figured.holdsEnded (h : s.figured) (w : Whole s) : s.holdsEnded.figured := by
  unfold State.holdsEnded State.enterRoom
  split
  · have quiet := (Quiet.refl s).changeRoom .closed .holdsEnded
    have slots := changeRoom_slots (s := s) .closed .holdsEnded
    have settings := outside_settings ((Acts.refl s).changeRoom .closed .holdsEnded).outside
    have gov := changeRoom_gov s .closed .holdsEnded
    rw [if_neg nofun]
    generalize s.changeRoom .closed .holdsEnded = u at *
    have calm := (Calm.refl u).clearWaitlist
    refine h.congr ?_ ?_ ?_ ((outside_settings ((Acts.refl u).clearWaitlist).outside).trans settings) fun m => ?_
    iterate 3 rw [clearWaitlist_gov, gov]
    rw [← slot_of_slots slots]
    exact .of_beside (calm.slots m).1 (calm.slots m).2 (clearWaitlist_beside (Law.quiet w quiet) m)
  · exact h

theorem grantSlot_gov (s : State) (n : Fin 24) : (s.grantSlot n).gov = s.gov := by
  unfold State.grantSlot
  dsimp only
  split
  · exact (State.enter_rest n .running).1
  · rfl

theorem revokeSlot_gov (s : State) (n : Fin 24) : (s.revokeSlot n).gov = s.gov := (State.enter_rest n .awaitPower).1

/-- The figures that a reckoning brings up to date before it revokes and grants. -/
def Governor.figures (g : Governor) : Nat × Int × Nat := (g.motor, g.heat, g.stray)

theorem revoke_figures (s : State) (fell : Bool) : (s.revoke fell).1.gov.figures = s.gov.figures := by
  unfold State.revoke
  dsimp only
  rw [foldl_gov fun s x => revokeSlot_gov s _]
  rfl

theorem grantPass_figures (s : State) (v : List (Fin 24)) : (s.grantPass v).gov.figures = s.gov.figures := by
  unfold State.grantPass
  dsimp only
  rw [foldl_gov fun s x => grantSlot_gov s _]
  rfl

theorem tidyStamp_figures (s : State) : s.tidyStamp.gov.figures = s.gov.figures := by
  unfold State.tidyStamp
  split <;> rfl

theorem reckon_figures (s : State) (x y z : Bool) : (s.reckon x y z).gov.figures =
    (s.motorSum, (s.settings.governor.budget : Int) - s.motorSum - s.gov.stray, s.gov.stray) := by
  unfold State.reckon
  dsimp only
  have figures : ((s.modGov fun g => { g with motor := s.motorSum }).modGov fun g =>
      { g with heat := (s.modGov fun g => { g with motor := s.motorSum }).heatBudget }).gov.figures =
      (s.motorSum, (s.settings.governor.budget : Int) - s.motorSum - s.gov.stray, s.gov.stray) := by
    generalize s.motorSum = k
    rfl
  generalize ((s.modGov fun g => { g with motor := s.motorSum }).modGov fun g =>
      { g with heat := (s.modGov fun g => { g with motor := s.motorSum }).heatBudget }) = u at *
  rw [tidyStamp_figures]
  split
  · rw [grantPass_figures, revoke_figures, figures]
  · rw [revoke_figures, figures]

/-- A reckoning brings the figures up to date (R106). -/
theorem reckon_figured (w : Whole s) (x y z : Bool) : (s.reckon x y z).figured := by
  have slots (m : Fin 24) : (s.slot m).sharesAs ((s.reckon x y z).slot m) := by
    have calm := (Calm.refl s).reckon x y z
    exact .of_beside (calm.slots m).1 (calm.slots m).2 (reckon_beside s x y z w.heated m)
  have settings : (s.reckon x y z).settings = s.settings := settings_of_aside (aside_reckon x y z)
  have figures := reckon_figures s x y z
  simp only [Governor.figures, Prod.mk.injEq] at figures
  obtain ⟨motor, heat, stray⟩ := figures
  refine ⟨motor.trans (motorSum_congr settings slots).symm, ?_⟩
  unfold State.heatBudget
  rw [heat, motor, stray, settings]

/-! ### The cycle end of an ARMED slot into FAULTED (R104; log 17) -/

/-- The stages of a cycle end before its entry (R6): the slot keeps its state, and any state that is not busy may be entered. -/
theorem cycleEnd_stages (w : Whole s) (hn : (s.hold n).isSome) (r : Reason) (f : Option (FaultCode × Option Nat)) {st : SlotState}
    (hs : st ≠ .idle) (b : Bool := true) : ∃ v : State, s.cycleEnd n r f st b = (v.enterEnded n st b).holdsEnded ∧
      (v.slot n).state = (s.slot n).state ∧ ∀ st : SlotState, st.busy = false → Whole (v.enter n st) := by
  obtain ⟨slots, gov⟩ := settle_rest s n r f
  have law : Law (fun m => False ∨ m = n) (s.settle n r f) := by
    refine ⟨?_, fun m _ => ?_, fun m hm => ?_⟩
    · simpa only [State.oneRequest, State.granted, State.waiting, gov] using w.once
    · simpa only [State.heatAt, State.granted, State.waiting, gov, State.slot, slots] using w.heat m id
    · rw [settle_hold, if_neg (fun e => hm (.inr e.symm))]
      simpa only [State.slot, slots] using w.busy m id
  have posted := (Quiet.refl (s.settle n r f)).post (.cycleEnd n s.settlement.next)
  obtain ⟨dropped, d⟩ := (law.quiet posted).dropHeat n b
  have free : ((((s.settle n r f).post (.cycleEnd n s.settlement.next)).dropHeat n b).hold n).isSome = false := by
    rw [d.hold, posted.hold, settle_hold, if_pos rfl]; rfl
  obtain ⟨-, o, z, slot⟩ := dropHeat_slot ((s.settle n r f).post (.cycleEnd n s.settlement.next)) n b
  have state : ((((s.settle n r f).post (.cycleEnd n s.settlement.next)).dropHeat n b).slot n).state = (s.slot n).state := by
    rw [slot, slot_of_slots (State.post_slots _ _), slot_of_slots slots]
  have unfolded : s.cycleEnd n r f st b = (((((s.settle n r f).post (.cycleEnd n s.settlement.next)).dropHeat n b).modSlot n
      fun x => { x with warning := false, resume := none }).enterEnded n st b).holdsEnded := by
    unfold State.cycleEnd
    split
    · next e => simp [e] at hn
    · dsimp only
      rw [if_neg hs]
  refine ⟨_, unfolded, ?_⟩
  have quiet : Quiet _ ((((s.settle n r f).post (.cycleEnd n s.settlement.next)).dropHeat n b).modSlot n
      fun x => { x with warning := false, resume := none }) := Quiet.modSlot (.refl _) n _ fun _ => ⟨rfl, rfl⟩
  refine ⟨(quiet.state n).trans state, fun st hb => ?_⟩
  exact Law.enter (dropped.quiet quiet) (mt (quiet.asked n).1 d.asked) ((quiet.flag n).trans d.flag)
    (((quiet.hold n).trans free).trans hb.symm)

/-- An ARMED slot that a cycle end takes into FAULTED becomes motor-active, and the governor reckons (R104; log 17). -/
theorem cycleEnd_figured (w : Whole s) (armed : (s.slot n).state = .armed) (r : Reason) (f : Option (FaultCode × Option Nat)) :
    (s.cycleEnd n r f .faulted).figured := by
  have held : (s.hold n).isSome := by rw [w.busy n id, armed]; rfl
  obtain ⟨v, e, state, enters⟩ := cycleEnd_stages w held r f (st := .faulted) nofun
  have entered := enters .faulted rfl
  have told : v.enterEnded n .faulted true = v.enterTold n .faulted := by
    have before : (v.slot n).motorActive = false := by unfold Slot.motorActive; rw [state, armed]
    have after : ((v.enter n .faulted).slot n).motorActive = true := by
      unfold Slot.motorActive; rw [State.enter_state, if_pos rfl]
    unfold State.enterEnded
    dsimp only
    rw [before, after, if_pos (by decide)]
    rfl
  rw [e, told]
  exact (reckon_figured entered _ _ _).holdsEnded (entered.reckon _ _ _)

end

end Sys2Proof.Machine

namespace Sys2Proof.Machine

/-! ## SLOT_SERVICE and SLOT_STOP (R24, R30, R154 to R156, R193) -/

section
variable {s t : State} {n : Fin 24} {p : Port}

/-! ### A cause that joins or leaves the set of a slot (R30, R154) -/

/-- A slot taken out of use (R30, R166). -/
theorem takeOut_state (s : State) (n : Fin 24) : ((s.takeOut n).slot n).state = .outOfService := by
  have entered (u : State) : ((u.enter n .outOfService).slot n).state = .outOfService := by rw [State.enter_state, if_pos rfl]
  unfold State.takeOut
  split
  · refine (((Near.refl n _).giveBack _ _).state.same ?_ ?_).trans (entered _) <;> rw [entered] <;> rintro (e | e) <;> cases e
  · exact entered s

/-- HOST or SERVICE joining or leaving writes the set's stored members, and nothing else of the store (R154). -/
theorem markCause_writes (s : State) (n : Fin 24) {m : Cause} (hm : m ≠ .lost) (v : Bool) :
    ((s.setCause n m v).writeCauses n m).writes = s.writes ++ [[.causes n (some ((s.slot n).causes.set m v).stored)]] := by
  have slot : (s.setCause n m v).slot n = { s.slot n with causes := (s.slot n).causes.set m v } := State.slot_modSlot_same s n _
  unfold State.writeCauses
  rw [if_neg hm, slot]
  rfl

/-- A member that joins a cause set, told and written (R30, R154). -/
structure Joined (n : Fin 24) (m : Cause) (a s : State) : Prop where
  causes : (s.slot n).causes = (a.slot n).causes.set m true
  state : (s.slot n).state = if (a.slot n).state = .idle ∨ (a.slot n).state = .reserved ∨ (a.slot n).state = .collect
    then .outOfService else (a.slot n).state
  writes : s.writes = a.writes ++ [[.causes n (some (s.slot n).causes.stored)]]
  accounts : s.accounts = a.accounts
  holds : s.holds = a.holds
  settlement : s.settlement = a.settlement

theorem followJoin_state (s : State) (n : Fin 24) : ((s.followJoin n).slot n).state =
    if (s.slot n).state = .idle ∨ (s.slot n).state = .reserved ∨ (s.slot n).state = .collect then .outOfService
    else (s.slot n).state := by
  have told : (s.postSlot n).slot n = s.slot n := slot_of_slots (State.post_slots s _) n
  unfold State.followJoin
  split
  iterate 3
    · next e => rw [takeOut_state, e]; rfl
  all_goals
    next e => rw [told, e]; rfl

theorem joinCause_joined {m : Cause} (hm : m ≠ .lost) (has : (s.slot n).causes.has m = false) :
    Joined n m s (s.joinCause n m) := by
  obtain ⟨marked, causes⟩ := markCause_marked s n m true
  have writes := markCause_writes s n hm true
  unfold State.joinCause
  rw [if_neg (by rw [has]; exact Bool.false_ne_true)]
  generalize (s.setCause n m true).writeCauses n m = v at *
  have calm := (Calm.refl v).followJoin n
  obtain ⟨accounts, holds, settlement, written⟩ := calm.booksKept
  have causes := (calm.slots n).2.trans causes
  have state : (v.slot n).state = (s.slot n).state := by rw [marked.slot]
  refine ⟨causes, ?_, ?_, accounts.trans marked.accounts, holds.trans marked.holds, settlement.trans marked.settlement⟩
  · rw [followJoin_state, state]
  · rw [written, writes, causes]

/-- A member that leaves a cause set, told and written (R30, R154, R156). -/
structure Left (n : Fin 24) (m : Cause) (a s : State) : Prop where
  causes : (s.slot n).causes = (a.slot n).causes.set m false
  state : if (a.slot n).state = .outOfService ∧ ((a.slot n).causes.set m false).isEmpty = true then (s.slot n).state.vacant
    else (s.slot n).state = (a.slot n).state
  writes : s.writes = a.writes ++ [[.causes n (some (s.slot n).causes.stored)]]
  accounts : s.accounts = a.accounts
  holds : s.holds = a.holds

theorem enterIdle_vacant (s : State) (n : Fin 24) : ((s.enterIdle n).slot n).state.vacant := by
  have offered := enterIdle_offered s n
  by_cases empty : ∀ c, s.slotCls n = some c → s.queue c = []
  · exact .inl (offered.idle empty).1
  · simp only [not_forall] at empty
    obtain ⟨c, cls, some⟩ := empty
    obtain ⟨e, rest, queue⟩ := List.exists_cons_of_ne_nil some
    exact .inr (offered.taken c e rest cls queue).1

theorem removeCause_left {m : Cause} (hm : m ≠ .lost) (has : (s.slot n).causes.has m = true) :
    Left n m s (s.removeCause n m) := by
  obtain ⟨marked, causes⟩ := markCause_marked s n m false
  have writes := markCause_writes s n hm false
  unfold State.removeCause
  rw [if_neg (by rw [has]; exact Bool.false_ne_true)]
  dsimp only
  generalize (s.setCause n m false).writeCauses n m = v at *
  have slot : (v.postSlot n).slot n = v.slot n := slot_of_slots (State.post_slots v _) n
  have state : (v.slot n).state = (s.slot n).state := by rw [marked.slot]
  rw [slot, state, causes]
  have calm : Calm v (if (s.slot n).state = .outOfService ∧ ((s.slot n).causes.set m false).isEmpty = true
      then (v.postSlot n).enterIdle n else v.postSlot n) :=
    Calm.ite (((Calm.refl v).postSlot n).enterIdle n) ((Calm.refl v).postSlot n)
  obtain ⟨accounts, holds, -, written⟩ := calm.booksKept
  have kept := (calm.slots n).2.trans causes
  refine ⟨kept, ?_, ?_, accounts.trans marked.accounts, holds.trans marked.holds⟩
  · split
    · exact enterIdle_vacant _ n
    · rw [slot, state]
  · rw [written, writes, kept]

/-! ### The requests -/

theorem slotOf_byte (n : Fin 24) : slotOf (BitVec.ofNat 8 n.val).toNat = some n := by
  have small : n.val % 256 = n.val := Nat.mod_eq_of_lt (by omega)
  rw [toNat_ofNat8, small, slotOf, dif_pos n.isLt]

theorem flagOf_bit (b : Bool) : flagOf (BitVec.ofNat 8 (bit b)).toNat = some b := by cases b <;> rfl

/-- SLOT_SERVICE taken on a ready port, its fields read (R155, R156). -/
theorem slotService_ready (ready : s.readyFor p) (turn : s.turn ≠ some (otherPort p)) (action force : Bool) :
    s.slotService p (beBytes 1 n ++ [if action then 1 else 0] ++ beBytes 1 (bit force)) =
      (if action then (s.countTaken p).serviceReturn p n else (s.countTaken p).serviceTake p n force).finish p 0x30
        (s.countTaken p).writes.length := by
  unfold State.slotService
  rw [beBytes_one, beBytes_one]
  refine (request_ok ready (by cases p <;> rfl) rfl (fun _ => turn) _).trans ?_
  cases action
  · rw [slotOf_byte, flagOf_bit, show flagOf (if false = true then (1 : Byte) else 0).toNat = some false from rfl]
    rfl
  · rw [slotOf_byte, flagOf_bit, show flagOf (if true = true then (1 : Byte) else 0).toNat = some true from rfl]
    rfl

theorem slotStop_ready (ready : s.readyFor p) (turn : s.turn ≠ some (otherPort p)) :
    exec (.slotStop p (beBytes 1 n)) s = .next (((s.countTaken p).slotStop n).finish p 0x31 (s.countTaken p).writes.length) := by
  rw [beBytes_one]
  refine congrArg _ ((request_ok ready (by cases p <;> rfl) rfl (fun _ => turn) _).trans ?_)
  rw [slotOf_byte]

theorem portCause_kept (p : Port) : portCause p ≠ .lost := by cases p <;> nofun

/-- An answer that began changes: it waits for them at its port, and the rest is its own rule's state. -/
theorem finish_acts {x : Answer} {k : Nat} (acts : Acts (s.countTaken p) x.state)
    (hw : x.state.writes.length ≠ (s.countTaken p).writes.length) :
    s.awaits p ⟨k, x.status, x.body⟩ (x.finish p k (s.countTaken p).writes.length) :=
  finish_awaits (fun q => port_of_outside acts.outside q) hw

/-- SLOT_SERVICE with take, of a member that is not yet in the set (R155). -/
structure Taken (n : Fin 24) (m : Cause) (a s : State) : Prop where
  acts : Acts a s
  causes : (s.slot n).causes = (a.slot n).causes.set m true
  written : a.writes.length < s.writes.length
  ended : ∀ h, a.hold n = some h → (s.slot n).state = .faulted ∧ s.hold n = none ∧
    s.settlement.records = a.settlement.records ++ [a.settlementRecord n h .abandoned none] ∧
    ((a.slot n).state = .armed → s.figured)
  still : (a.slot n).state.busy = false → (s.slot n).state =
      (if (a.slot n).state = .idle ∨ (a.slot n).state = .reserved ∨ (a.slot n).state = .collect then .outOfService
        else (a.slot n).state) ∧
    s.accounts = a.accounts ∧ s.holds = a.holds ∧ s.writes = a.writes ++ [[.causes n (some (s.slot n).causes.stored)]]

theorem took (w : Whole s) {m : Cause} (hm : m ≠ .lost) (has : (s.slot n).causes.has m = false) :
    Taken n m s ((if (s.slot n).state.busy then s.cycleEnd n .abandoned none .faulted else s).joinCause n m) := by
  by_cases busy : (s.slot n).state.busy = true
  · rw [if_pos busy]
    have held : (s.hold n).isSome := by rw [w.busy n id, busy]
    obtain ⟨h, hn⟩ := Option.isSome_iff_exists.1 held
    have ended := cycleEnd_ended w n h hn .abandoned none (st := .faulted) rfl nofun
    obtain ⟨-, z, d, slot⟩ := cycleEnd_slot s n .abandoned none (st := .faulted) nofun nofun held
    have writes := cycleEnd_writes hn .abandoned none .faulted
    have acts := (Acts.refl s).cycleEnd n .abandoned none .faulted
    have figured : (s.slot n).state = .armed → (s.cycleEnd n .abandoned none .faulted).figured := fun armed =>
      cycleEnd_figured w armed .abandoned none
    generalize s.cycleEnd n .abandoned none .faulted = v at *
    have faulted : (v.slot n).state = .faulted := by rw [slot]
    have causes : (v.slot n).causes = (s.slot n).causes := by rw [slot]
    have joined := joinCause_joined hm (s := v) (n := n) (by rw [causes]; exact has)
    obtain ⟨marked, -⟩ := joinCause_marked (s := v) (n := n) m (by rw [faulted]; exact ⟨nofun, nofun, nofun⟩)
    refine ⟨acts.joinCause n m, joined.causes.trans (by rw [causes]), ?_, fun h' hn' => ?_, fun k => ?_⟩
    · rw [joined.writes, writes]
      simp
    · obtain rfl : h = h' := Option.some.inj (hn.symm.trans hn')
      refine ⟨by rw [marked.slot]; exact faulted, ?_, ?_, fun armed => ?_⟩
      · have none := ended.holds n
        rw [if_pos rfl] at none
        simpa only [State.hold, joined.holds] using none
      · rw [joined.settlement, ended.queue]
      · refine (figured armed).congr (by rw [marked.gov]) (by rw [marked.gov]) (by rw [marked.gov])
          (outside_settings marked.outside) fun k => ?_
        by_cases e : k = n
        · subst e
          rw [marked.slot]
          refine ⟨rfl, ?_⟩
          unfold Slot.motorActive
          dsimp only
          rw [faulted]
        · rw [marked.others k e]
          exact ⟨rfl, rfl⟩
    · rw [busy] at k; cases k
  · rw [if_neg busy]
    have joined := joinCause_joined hm has
    refine ⟨(Acts.refl s).joinCause n m, joined.causes, by rw [joined.writes]; simp, fun h hn => ?_, fun _ =>
      ⟨joined.state, joined.accounts, joined.holds, joined.writes⟩⟩
    exact (busy (by rw [← w.busy n id, hn]; rfl)).elim

/-! ### What a request's count leaves alone -/

theorem countTaken_whole (w : Whole s) (p : Port) : Whole (s.countTaken p) := Law.quiet w (countTaken_quiet s p)

theorem slot_countTaken (s : State) (p : Port) (n : Fin 24) : (s.countTaken p).slot n = s.slot n :=
  slot_of_inside (countTaken_inside s p) n

theorem hold_countTaken (s : State) (p : Port) (n : Fin 24) : (s.countTaken p).hold n = s.hold n :=
  hold_of_inside (countTaken_inside s p) n

theorem settlement_countTaken (s : State) (p : Port) : (s.countTaken p).settlement = s.settlement :=
  countTaken_proj State.settlement (fun _ => rfl) s p

theorem accounts_countTaken (s : State) (p : Port) : (s.countTaken p).accounts = s.accounts :=
  countTaken_proj State.accounts (fun _ => rfl) s p

theorem holds_countTaken (s : State) (p : Port) : (s.countTaken p).holds = s.holds :=
  countTaken_proj State.holds (fun _ => rfl) s p

theorem settlementRecord_countTaken (s : State) (p : Port) (n : Fin 24) (h : Hold) (r : Reason)
    (f : Option (FaultCode × Option Nat)) : (s.countTaken p).settlementRecord n h r f = s.settlementRecord n h r f :=
  countTaken_proj (fun u => u.settlementRecord n h r f) (fun _ => rfl) s p

/-! ### SLOT_SERVICE and SLOT_STOP answered (R24, R155, R156, R193) -/

section
variable (ready : s.readyFor p) (turn : s.turn ≠ some (otherPort p)) (w : Whole s)
include ready turn

/-- SLOT_SERVICE with take on a ready port (R155). -/
theorem serviceTake_answers (force : Bool) : exec (.slotServiceTake p (beBytes 1 n ++ [0] ++ beBytes 1 (bit force))) s =
    .next (((s.countTaken p).serviceTake p n force).finish p 0x30 (s.countTaken p).writes.length) :=
  congrArg _ (slotService_ready ready turn false force)

/-- A busy slot is not taken without force (R155). -/
theorem serviceTake_refused (configured : (s.slot n).state ≠ .unconfigured) (busy : (s.slot n).state.busy = true) :
    exec (.slotServiceTake p (beBytes 1 n ++ [0] ++ beBytes 1 (bit false))) s = .next (s.replied p ⟨0x30, .wrongState, .empty⟩) := by
  have refused : (s.countTaken p).serviceTake p n false = (s.countTaken p).refuse .wrongState := by
    unfold State.serviceTake
    rw [slot_countTaken, if_neg configured, if_pos (by rw [busy]; rfl)]
  rw [serviceTake_answers ready turn, refused]
  exact congrArg _ (finish_replied s p 0x30 .wrongState .empty)

/-- A member already in the set is not added again (R155). -/
theorem serviceTake_had (configured : (s.slot n).state ≠ .unconfigured) {force : Bool}
    (free : (s.slot n).state.busy = false ∨ force = true) (has : (s.slot n).causes.has (portCause p) = true) :
    exec (.slotServiceTake p (beBytes 1 n ++ [0] ++ beBytes 1 (bit force))) s =
      .next (s.replied p ⟨0x30, .ok, .slotCauses (s.slot n).state (s.slot n).causes⟩) := by
  have may : ((s.slot n).state.busy && !force) = false := by
    rcases free with e | e <;> rw [e]
    · rfl
    · exact Bool.and_false _
  have answered : (s.countTaken p).serviceTake p n force =
      (s.countTaken p).ok (.slotCauses (s.slot n).state (s.slot n).causes) := by
    unfold State.serviceTake State.causesReply
    rw [slot_countTaken, if_neg configured, if_neg (by rw [may]; exact Bool.false_ne_true), if_pos has]
  rw [serviceTake_answers ready turn, answered]
  exact congrArg _ (finish_replied s p 0x30 .ok _)

include w in
/-- A member that is not yet in the set joins it, and a busy slot's cycle ends (R155, R156). -/
theorem serviceTake_takes (configured : (s.slot n).state ≠ .unconfigured) {force : Bool}
    (free : (s.slot n).state.busy = false ∨ force = true) (has : (s.slot n).causes.has (portCause p) = false) : let x := s.slot n
    ∃ t, exec (.slotServiceTake p (beBytes 1 n ++ [0] ++ beBytes 1 (bit force))) s = .next t ∧
      (t.slot n).causes = x.causes.set (portCause p) true ∧
      s.awaits p ⟨0x30, .ok, .slotCauses (t.slot n).state (t.slot n).causes⟩ t ∧
      (∀ h, s.hold n = some h → (t.slot n).state = .faulted ∧ t.hold n = none ∧
        t.settlement.records = s.settlement.records ++ [s.settlementRecord n h .abandoned none] ∧
        (x.state = .armed → t.figured)) ∧
      (x.state.busy = false → (t.slot n).state = (if x.state = .idle ∨ x.state = .reserved ∨ x.state = .collect
          then .outOfService else x.state) ∧
        t.accounts = s.accounts ∧ t.holds = s.holds ∧
        t.writes = s.writes ++ [[.causes n (some (t.slot n).causes.stored)]]) := by
  have may : ((s.slot n).state.busy && !force) = false := by
    rcases free with e | e <;> rw [e]
    · rfl
    · exact Bool.and_false _
  have slot := slot_countTaken s p n
  have acted : (s.countTaken p).serviceTake p n force = ((if ((s.countTaken p).slot n).state.busy then
      (s.countTaken p).cycleEnd n .abandoned none .faulted else s.countTaken p).joinCause n (portCause p)).causesReply n := by
    unfold State.serviceTake
    rw [slot, if_neg configured, if_neg (by rw [may]; exact Bool.false_ne_true),
      if_neg (by rw [has]; exact Bool.false_ne_true)]
  have taken := took (countTaken_whole w p) (portCause_kept p) (n := n) (by rw [slot]; exact has)
  rw [serviceTake_answers ready turn, acted]
  generalize (if ((s.countTaken p).slot n).state.busy then
      (s.countTaken p).cycleEnd n .abandoned none .faulted else s.countTaken p).joinCause n (portCause p) = v at *
  obtain ⟨acts, causes, written, ended, still⟩ := taken
  rw [slot] at causes still ended
  have waits := finish_acts (x := v.causesReply n) (k := 0x30) acts written.ne'
  have kept {α : Type} (f : State → α) (hf : ∀ u : State, f u = f u.inside) :=
    finish_proj f hf (v.causesReply n) p 0x30 (s.countTaken p).writes.length
  have figured := finish_proj State.figured (fun _ => rfl) (v.causesReply n) p 0x30 (s.countTaken p).writes.length
  refine ⟨_, rfl, ?_⟩
  generalize (v.causesReply n).finish p 0x30 (s.countTaken p).writes.length = t at *
  have slotT : t.slot n = v.slot n := kept (fun u => u.slot n) fun _ => rfl
  rw [slotT]
  refine ⟨causes, waits, fun h hn => ?_, fun k => ?_⟩
  · obtain ⟨faulted, emptied, records, armed⟩ := ended h ((hold_countTaken s p n).trans hn)
    refine ⟨faulted, (kept (fun u => u.hold n) fun _ => rfl).trans emptied, ?_, fun k => figured.mpr (armed k)⟩
    rw [kept (fun u => u.settlement) fun _ => rfl]
    exact records.trans (by rw [settlement_countTaken, settlementRecord_countTaken])
  · obtain ⟨state, accounts, holds, writes⟩ := still k
    exact ⟨state, (kept State.accounts fun _ => rfl).trans (accounts.trans (accounts_countTaken s p)),
      (kept State.holds fun _ => rfl).trans (holds.trans (holds_countTaken s p)),
      (kept State.writes fun _ => rfl).trans (writes.trans (by rw [countTaken_writes]))⟩

/-- SLOT_SERVICE with return on a ready port (R156). -/
theorem serviceReturn_answers (configured : (s.slot n).state ≠ .unconfigured) (force : Bool) :
    exec (.slotServiceReturn p (beBytes 1 n ++ [1] ++ beBytes 1 (bit force))) s =
      .next ((((s.countTaken p).removeCause n (portCause p)).causesReply n).finish p 0x30 (s.countTaken p).writes.length) := by
  have returned : (s.countTaken p).serviceReturn p n = ((s.countTaken p).removeCause n (portCause p)).causesReply n := by
    unfold State.serviceReturn
    rw [slot_countTaken, if_neg configured]
  rw [← returned]
  exact congrArg _ (slotService_ready ready turn true force)

/-- A member that is not in the set does not leave it (R156). -/
theorem serviceReturn_lacked (configured : (s.slot n).state ≠ .unconfigured) (force : Bool)
    (has : (s.slot n).causes.has (portCause p) = false) :
    exec (.slotServiceReturn p (beBytes 1 n ++ [1] ++ beBytes 1 (bit force))) s =
      .next (s.replied p ⟨0x30, .ok, .slotCauses (s.slot n).state (s.slot n).causes⟩) := by
  have same : (s.countTaken p).removeCause n (portCause p) = s.countTaken p := by
    unfold State.removeCause
    rw [slot_countTaken, if_pos (by rw [has]; rfl)]
  rw [serviceReturn_answers ready turn configured, same]
  unfold State.causesReply
  rw [slot_countTaken]
  exact congrArg _ (finish_replied s p 0x30 .ok _)

/-- A member in the set leaves it, and the slot follows (R30, R156). -/
theorem serviceReturn_leaves (configured : (s.slot n).state ≠ .unconfigured) (force : Bool)
    (has : (s.slot n).causes.has (portCause p) = true) : let x := s.slot n
    ∃ t, exec (.slotServiceReturn p (beBytes 1 n ++ [1] ++ beBytes 1 (bit force))) s = .next t ∧
      (t.slot n).causes = x.causes.set (portCause p) false ∧
      s.awaits p ⟨0x30, .ok, .slotCauses (t.slot n).state (t.slot n).causes⟩ t ∧
      t.writes = s.writes ++ [[.causes n (some (t.slot n).causes.stored)]] ∧ t.accounts = s.accounts ∧ t.holds = s.holds ∧
      if x.state = .outOfService ∧ (x.causes.set (portCause p) false).isEmpty = true
      then (t.slot n).state.vacant else (t.slot n).state = x.state := by
  have slot := slot_countTaken s p n
  have left := removeCause_left (portCause_kept p) (s := s.countTaken p) (n := n) (by rw [slot]; exact has)
  have acts := (Acts.refl (s.countTaken p)).removeCause n (portCause p)
  rw [serviceReturn_answers ready turn configured]
  generalize (s.countTaken p).removeCause n (portCause p) = v at *
  obtain ⟨causes, state, written, accounts, holds⟩ := left
  rw [slot] at causes state
  have waits := finish_acts (x := v.causesReply n) (k := 0x30) acts (by
    show v.writes.length ≠ _
    rw [written]; simp)
  have kept {α : Type} (f : State → α) (hf : ∀ u : State, f u = f u.inside) :=
    finish_proj f hf (v.causesReply n) p 0x30 (s.countTaken p).writes.length
  refine ⟨_, rfl, ?_⟩
  generalize (v.causesReply n).finish p 0x30 (s.countTaken p).writes.length = t at *
  have slotT : t.slot n = v.slot n := kept (fun u => u.slot n) fun _ => rfl
  rw [slotT]
  exact ⟨causes, waits, (kept State.writes fun _ => rfl).trans (written.trans (by rw [countTaken_writes])),
    (kept State.accounts fun _ => rfl).trans (accounts.trans (accounts_countTaken s p)),
    (kept State.holds fun _ => rfl).trans (holds.trans (holds_countTaken s p)), state⟩

/-- SLOT_STOP on a slot without a cycle (R193). -/
theorem slotStop_refused (idle : (s.slot n).state.busy = false) :
    exec (.slotStop p (beBytes 1 n)) s = .next (s.replied p ⟨0x31, .wrongState, .empty⟩) := by
  have refused : (s.countTaken p).slotStop n = (s.countTaken p).refuse .wrongState := by
    unfold State.slotStop
    rw [slot_countTaken, if_neg (by rw [idle]; exact Bool.false_ne_true)]
  rw [slotStop_ready ready turn, refused]
  exact congrArg _ (finish_replied s p 0x31 .wrongState .empty)

include w in
/-- SLOT_STOP ends a cycle (R24, R193). -/
theorem slotStop_ends (h : Hold) (hn : s.hold n = some h) : ∃ t, exec (.slotStop p (beBytes 1 n)) s = .next t ∧
    (t.slot n).state = .faulted ∧ t.hold n = none ∧
    t.settlement.records = s.settlement.records ++ [s.settlementRecord n h .abandoned none] ∧
    (∀ i, t.account i = if i = h.account then (s.account i).settled s.clock.day
      (s.settlementRecord n h .abandoned none).charge h.amount else s.account i) ∧
    s.awaits p ⟨0x31, .ok, .stopped .faulted s.settlement.next⟩ t ∧ ((s.slot n).state = .armed → t.figured) := by
  have slot := slot_countTaken s p n
  have wt := countTaken_whole w p
  have hn' : (s.countTaken p).hold n = some h := (hold_countTaken s p n).trans hn
  have held : ((s.countTaken p).hold n).isSome := by rw [hn']; rfl
  have running : ((s.countTaken p).slot n).state.busy = true := by rw [← wt.busy n id, held]
  obtain ⟨-, z, d, ended'⟩ := cycleEnd_slot (s.countTaken p) n .abandoned none (st := .faulted) nofun nofun held
  have stopped : (s.countTaken p).slotStop n =
      ((s.countTaken p).cycleEnd n .abandoned none .faulted).ok (.stopped .faulted s.settlement.next) := by
    unfold State.slotStop
    rw [if_pos running]
    dsimp only
    rw [ended', settlement_countTaken]
  rw [slotStop_ready ready turn, stopped]
  have ended := cycleEnd_ended wt n h hn' .abandoned none (st := .faulted) rfl nofun
  have written := cycleEnd_writes hn' .abandoned none .faulted
  have acts := (Acts.refl (s.countTaken p)).cycleEnd n .abandoned none .faulted
  have figured : ((s.countTaken p).slot n).state = .armed → ((s.countTaken p).cycleEnd n .abandoned none .faulted).figured :=
    fun armed => cycleEnd_figured wt armed .abandoned none
  generalize (s.countTaken p).cycleEnd n .abandoned none .faulted = v at *
  have waits := finish_acts (x := v.ok (.stopped .faulted s.settlement.next)) (k := 0x31) acts (by
    show v.writes.length ≠ _
    rw [written]; simp)
  have kept {α : Type} (f : State → α) (hf : ∀ u : State, f u = f u.inside) :=
    finish_proj f hf (v.ok (.stopped .faulted s.settlement.next)) p 0x31 (s.countTaken p).writes.length
  have figured' := finish_proj State.figured (fun _ => rfl) (v.ok (.stopped .faulted s.settlement.next)) p 0x31
    (s.countTaken p).writes.length
  refine ⟨_, rfl, ?_⟩
  generalize (v.ok (.stopped .faulted s.settlement.next)).finish p 0x31 (s.countTaken p).writes.length = t at *
  refine ⟨?_, ?_, ?_, fun i => ?_, waits, fun armed => figured'.mpr (figured (by rw [slot]; exact armed))⟩
  · rw [kept (fun u => u.slot n) fun _ => rfl]
    show (v.slot n).state = _
    rw [ended']
  · rw [kept (fun u => u.hold n) fun _ => rfl]
    exact (ended.holds n).trans (if_pos rfl)
  · rw [kept (fun u => u.settlement) fun _ => rfl]
    show v.settlement.records = _
    rw [ended.queue, settlement_countTaken, settlementRecord_countTaken]
  · rw [kept (fun u => u.account i) fun _ => rfl]
    refine (ended.accounts i).trans ?_
    rw [settlementRecord_countTaken, countTaken_proj (fun u => u.account i) (fun _ => rfl) s p,
      countTaken_proj State.clock (fun _ => rfl) s p]

end

/-- Settles O52, by what joins, leaves and ends at the slot. -/
theorem slotsAreTakenAndStopped : Obligations.SlotsAreTakenAndStopped := by
  intro s p n ready turn heat busy configured x
  have w : Whole s := whole_iff.2 ⟨heat, busy⟩
  refine ⟨fun force => ⟨fun running unforced => ?_, serviceTake_had ready turn configured,
      serviceTake_takes ready turn w configured⟩,
    fun force => ⟨serviceReturn_lacked ready turn configured force, serviceReturn_leaves ready turn configured force⟩,
    slotStop_refused ready turn, slotStop_ends ready turn w⟩
  subst unforced
  exact serviceTake_refused ready turn configured running

end

end Sys2Proof.Machine

namespace Sys2Proof.Machine

/-! ## CLASS_SET and PRICE_SET (R80 to R83, R194) -/

section
variable {s t u : State} {p : Port}

/-- A request that set records and wrote one change of the store. -/
theorem finish_stores (hw : u.writes = s.writes) (k : Nat) (b : ReplyBody) (ws : List StoreWrite) :
    (((u.countTaken p).write ws).ok b).finish p k (s.countTaken p).writes.length = u.stores p ⟨k, .ok, b⟩ ws := by
  have longer : (((u.countTaken p).write ws).ok b).state.writes.length = s.writes.length + 1 := by
    show ((u.countTaken p).writes ++ [ws]).length = _
    rw [countTaken_writes, hw, List.length_append]
    rfl
  rw [finish_stored (by rw [longer, countTaken_writes]; omega), longer]
  unfold State.stores
  rw [hw]
  cases p <;> simp only [State.ok, State.write, State.setActivity, State.setPort, State.port, State.countTaken, State.modCounts,
    PortUnit.waits, hw]

/-! ### The phases of a class's slots (R1) -/

/-- A loop that changes the slots of a class, keeping their configuration. -/
theorem foldClass {g : Slot → Slot} (hg : ∀ x, (g x).cfg = x.cfg) (c : Fin 4) {l : List (Fin 24)} (nodup : l.Nodup) (s : State) :
    ∃ v, l.foldl (fun s n => if s.slotCls n = some c then s.modSlot n g else s) s = { s with slots := v } ∧
      ∀ n : Fin 24, v[n.val] = if n ∈ l ∧ s.slotCls n = some c then g (s.slot n) else s.slot n := by
  induction l generalizing s with
  | nil => exact ⟨s.slots, rfl, fun n => by simp [State.slot]⟩
  | cons m l ih =>
    obtain ⟨fresh, nodup⟩ := List.nodup_cons.1 nodup
    obtain ⟨v, fold, at'⟩ := ih nodup (if s.slotCls m = some c then s.modSlot m g else s)
    have own (n : Fin 24) : (if s.slotCls m = some c then s.modSlot m g else s).slot n =
        if n = m ∧ s.slotCls m = some c then g (s.slot m) else s.slot n := by
      by_cases cls : s.slotCls m = some c
      · rw [if_pos cls, State.slot_modSlot]
        by_cases e : n = m
        · rw [if_pos e.symm, if_pos ⟨e, cls⟩]
        · rw [if_neg (Ne.symm e), if_neg fun k => e k.1]
      · simp [cls]
    refine ⟨v, ?_, fun n => ?_⟩
    · rw [List.foldl_cons, fold]
      split <;> rfl
    · have cls : (if s.slotCls m = some c then s.modSlot m g else s).slotCls n = s.slotCls n := by
        refine congrArg (Option.map fun x : SlotCfg => x.cls) ((congrArg Slot.cfg (own n)).trans ?_)
        split
        · next e => rw [hg, e.1]
        · rfl
      rw [at', cls, own]
      by_cases e : n = m
      · subst e
        by_cases k : s.slotCls n = some c <;> simp [k, fresh]
      · simp [e]

/-- What a change of a class's kind makes of the slots' phases (R1). -/
theorem rephase_eq (s : State) (c : Fin 4) (k : Kind) : ∃ v, s.rephase c k = { s with slots := v } ∧
    ∀ n : Fin 24, v[n.val] = if s.slotCls n = some c then
      { s.slot n with phase := phaseFor k (some (s.cls c).kind) (s.slot n).phase } else s.slot n := by
  obtain ⟨v, e, at'⟩ := foldClass (g := fun x => { x with phase := phaseFor k (some (s.cls c).kind) x.phase }) (fun _ => rfl) c
    (List.nodup_finRange 24) s
  refine ⟨v, e, fun n => ?_⟩
  rw [at']
  simp

/-! ### The bytes of the bodies -/

theorem toNat_byte {n : Nat} (h : n < 256) : (BitVec.ofNat 8 n).toNat = n := by
  rw [toNat_ofNat8, Nat.mod_eq_of_lt h]

theorem classOf_val (c : Fin 4) : classOf c.val = some c := dif_pos c.isLt

/-- A kind's code in a body (R194). -/
def Kind.code : Kind → Nat
  | .washer => 0
  | .dryer => 1

theorem kindOfCode_code (k : Kind) : kindOfCode k.code = some k := by cases k <;> rfl

theorem startPhase_iff (k : Kind) : k = .dryer ↔ k.startPhase = .dry ∨ k.startPhase = .cool := by
  cases k <;> simp [Kind.startPhase]

theorem classSet_does (ready : s.readyFor p) (turn : s.turn ≠ some (otherPort p)) (c : Fin 4) (k : Kind) {w l : Nat}
    (w1 : 1 ≤ w) (w2 : w ≤ 15) (l1 : 60 ≤ l) (l2 : l ≤ 600) (free : ∀ n, s.slotCls n = some c → (s.slot n).state.busy = false) :
    ∃ v : Vector Slot 24, exec (.classSet p (beBytes 1 c ++ beBytes 1 k.code ++ beBytes 1 w ++ beBytes 2 l)) s =
        .next (State.stores { s with slots := v, settings := { s.settings with
          classes := s.settings.classes.set c.val ⟨k, w, l⟩ } } p ⟨0x10, .ok, .cls ⟨k, w, l⟩⟩ [.cls c ⟨k, w, l⟩]) ∧
      ∀ n : Fin 24, v[n.val] = if s.slotCls n = some c then
        { s.slot n with phase := phaseFor k (some (s.cls c).kind) (s.slot n).phase } else s.slot n := by
  obtain ⟨v, rephased, at'⟩ := rephase_eq (s.countTaken p) c k
  refine ⟨v, ?_, fun n => ?_⟩
  case refine_2 =>
    rw [at', countTaken_proj (fun u => u.slotCls n) (fun _ => rfl) s p, countTaken_proj (fun u => u.slot n) (fun _ => rfl) s p,
      countTaken_proj (fun u => u.cls c) (fun _ => rfl) s p]
  have body : bodyClassSet (beBytes 1 c ++ beBytes 1 k.code ++ beBytes 1 w ++ beBytes 2 l) = .ok (c.val, k.code, w, l) := by
    have small : k.code < 256 := by cases k <;> decide
    rw [beBytes_one, beBytes_one, beBytes_one, beBytes_two]
    show Except.ok (_, _, _, beNat [_, _]) = _
    rw [beNat_two (by omega), toNat_byte (by omega), toNat_byte small, toNat_byte (by omega)]
  have quiet : (s.countTaken p).classBusy c = false := by
    rw [countTaken_proj (fun u => u.classBusy c) (fun _ => rfl) s p]
    unfold State.classBusy
    simp only [List.any_eq_false, Bool.and_eq_true, beq_iff_eq]
    rintro n - ⟨cls, busy⟩
    rw [free n cls] at busy
    cases busy
  have phases : (s.countTaken p).rephase c k = ({ s with slots := v } : State).countTaken p := by
    rw [rephased]
    cases p <;> rfl
  refine congrArg _ ((request_ok ready (by cases p <;> rfl) body (fun _ => turn) _).trans ?_)
  have set : (s.countTaken p).classSet (c.val, k.code, w, l) =
      (((({ s with slots := v, settings := { s.settings with
          classes := s.settings.classes.set c.val ⟨k, w, l⟩ } } : State).countTaken p).write [.cls c ⟨k, w, l⟩]).ok (.cls ⟨k, w, l⟩)) := by
    unfold State.classSet
    rw [classOf_val, kindOfCode_code]
    dsimp only
    rw [if_neg (by simp [w1, w2, l1, l2]), quiet, if_neg Bool.false_ne_true, phases]
    cases p <;> rfl
  rw [set]
  refine finish_stores (s := s) ?_ _ _ _
  rfl

theorem priceEntrySet_does (ready : s.readyFor p) (turn : s.turn ≠ some (otherPort p)) (c : Fin 4) (b : Fin 2) (e : PriceEntry)
    (ok : e.ok = true) : exec (.priceSetEntry p (0 :: beBytes 1 c ++ beBytes 1 b ++ beBytes 2 e.price ++ beBytes 2 e.planned ++
          beBytes 1 e.step ++ beBytes 2 e.stepPrice)) s =
      .next (State.stores { s with settings := { s.settings with prices := { s.settings.prices with
        entries := s.settings.prices.entries.set (2 * c.val + b.val) e } } } p ⟨0x11, .ok, .price e⟩
          [.prices { s.settings.prices with entries := s.settings.prices.entries.set (2 * c.val + b.val) e }]) := by
  have ranges := ok
  simp only [PriceEntry.ok, Bool.and_eq_true, decide_eq_true_eq] at ranges
  have body : twoForms bodyPriceEntry bodyPriceGeneral (0 :: beBytes 1 c ++ beBytes 1 b ++ beBytes 2 e.price ++
      beBytes 2 e.planned ++ beBytes 1 e.step ++ beBytes 2 e.stepPrice) = .ok (.inl (c.val, b.val, e)) := by
    rw [beBytes_one, beBytes_one, beBytes_one, beBytes_two, beBytes_two, beBytes_two]
    show Except.ok (Sum.inl (_, _, (⟨beNat [_, _], beNat [_, _], _, beNat [_, _]⟩ : PriceEntry))) = _
    rw [beNat_two (by omega), beNat_two (by omega), beNat_two (by omega), toNat_byte (by omega), toNat_byte (by omega),
      toNat_byte (by omega)]
  refine congrArg _ ((request_ok ready (by cases p <;> rfl) body (fun _ => turn) _).trans ?_)
  dsimp only
  unfold State.priceEntrySet
  rw [dif_pos ⟨c.isLt, b.isLt⟩, if_neg (by rw [ok]; exact Bool.false_ne_true)]
  refine Eq.trans ?_ (finish_stores (s := s) (p := p) (u := { s with settings := { s.settings with
    prices := { s.settings.prices with entries := s.settings.prices.entries.set (2 * c.val + b.val) e } } }) rfl 0x11 _ _)
  cases p <;> rfl

theorem priceGeneralSet_does (ready : s.readyFor p) (turn : s.turn ≠ some (otherPort p)) {g l a b : Nat}
    (g1 : g = 1 ∨ g = 5 ∨ g = 10 ∨ g = 25 ∨ g = 50 ∨ g = 100) (l1 : l ≤ 600) (a1 : a ≤ 1439) (b1 : b ≤ 1439) (q : PriceCfg)
    (hq : q = { s.settings.prices with granularity := g, grace := l, bandStart := a, bandEnd := b }) :
    exec (.priceSetGeneral p (1 :: beBytes 1 g ++ beBytes 2 l ++ beBytes 2 a ++ beBytes 2 b)) s =
      .next (State.stores { s with settings := { s.settings with prices := q } } p ⟨0x11, .ok, .empty⟩ [.prices q]) := by
  have body : twoForms bodyPriceEntry bodyPriceGeneral (1 :: beBytes 1 g ++ beBytes 2 l ++ beBytes 2 a ++ beBytes 2 b) =
      .ok (.inr (g, l, a, b)) := by
    rw [beBytes_one, beBytes_two, beBytes_two, beBytes_two]
    show Except.ok (Sum.inr (_, beNat [_, _], beNat [_, _], beNat [_, _])) = _
    rw [beNat_two (by omega), beNat_two (by omega), beNat_two (by omega), toNat_byte (by omega)]
  refine congrArg _ ((request_ok ready (by cases p <;> rfl) body (fun _ => turn) _).trans ?_)
  dsimp only
  unfold State.priceGeneralSet
  rw [if_neg (by rcases g1 with rfl | rfl | rfl | rfl | rfl | rfl <;> simp [l1, a1, b1])]
  refine Eq.trans ?_ (finish_stores (s := s) (p := p) (u := { s with settings := { s.settings with prices := q } }) rfl 0x11 _ _)
  subst hq
  cases p <;> rfl

/-- Settles O44. -/
theorem classesAndPricesAreSet : Obligations.ClassesAndPricesAreSet := by
  intro s p ready turn
  refine ⟨fun c k w l w1 w2 l1 l2 free => ?_, fun c b e h1 h2 h3 h4 h5 h6 => ?_, fun g l a b g1 l1 a1 b1 q hq => ?_⟩
  · obtain ⟨v, does, at'⟩ := classSet_does ready turn c k w1 w2 l1 l2 free
    refine ⟨_, does, rfl, rfl, fun n => ?_⟩
    have slot : ({ s with slots := v, settings := { s.settings with
        classes := s.settings.classes.set c.val ⟨k, w, l⟩ } } : State).slot n = v[n.val] := rfl
    rw [slot, at']
    by_cases cls : s.slotCls n = some c
    · rw [if_pos cls]
      refine ⟨_, rfl, fun same => ?_, fun _ other => ?_⟩
      · rw [same.resolve_left (not_not.2 cls), phaseFor, if_pos rfl]
      · rw [phaseFor, if_neg (by simpa using other)]
        exact startPhase_iff k
    · rw [if_neg cls]
      exact ⟨_, rfl, fun _ => rfl, fun k => (cls k).elim⟩
  · refine ⟨{ s.settings.prices with entries := s.settings.prices.entries.set (2 * c.val + b.val) e }, fun d f => ?_, rfl, ?_⟩
    · show (s.settings.prices.entries.set (2 * c.val + b.val) e)[2 * d.val + f.val] = _
      rw [Vector.getElem_set]
      refine if_congr ?_ rfl rfl
      constructor
      · intro h
        have := b.isLt
        have := f.isLt
        exact ⟨Fin.ext (by omega), Fin.ext (by omega)⟩
      · rintro ⟨rfl, rfl⟩
        rfl
    · exact priceEntrySet_does ready turn c b e (by simp [PriceEntry.ok, h1, h2, h3, h4, h5, h6])
  · exact priceGeneralSet_does ready turn g1 l1 a1 b1 q hq

end

end Sys2Proof.Machine

namespace Sys2Proof.Machine

/-! ## SLOT_SET and TERMINAL_SET (R2, R34, R35, R123, R131, R146) -/

section
variable {a s t : State} {n : Fin 24} {p : Port}

/-! ### What the acts at the slots leave of a slot's phase and its place in the scan (R1, R123) -/

/-- Slot `n` has the phase it had, and the class by which the scan in progress knows it. -/
def Steady (n : Fin 24) (a s : State) : Prop :=
  (s.slot n).phase = (a.slot n).phase ∧ (s.slot n).sense.scanned = (a.slot n).sense.scanned

namespace Steady

theorem refl (n : Fin 24) (a : State) : Steady n a a := ⟨rfl, rfl⟩

theorem trans {b c : State} (h : Steady n a b) (k : Steady n b c) : Steady n a c := ⟨k.1.trans h.1, k.2.trans h.2⟩

theorem slots (h : Steady n a s) (e : t.slots = s.slots) : Steady n a t :=
  h.trans ⟨by rw [slot_of_slots e], by rw [slot_of_slots e]⟩

theorem ite {c : Prop} [Decidable c] {t u : State} (ht : Steady n a t) (hu : Steady n a u) : Steady n a (if c then t else u) := by
  split <;> assumption

theorem modSlot (h : Steady n a s) (m : Fin 24) (f : Slot → Slot)
    (hf : ∀ x, (f x).phase = x.phase ∧ (f x).sense.scanned = x.sense.scanned) : Steady n a (s.modSlot m f) := by
  refine h.trans ?_
  unfold Steady
  rw [State.slot_modSlot]
  split
  · next e => subst e; exact hf _
  · exact ⟨rfl, rfl⟩

theorem post (h : Steady n a s) (b : EventBody) : Steady n a (s.post b) := h.slots (State.post_slots s b)

theorem postSlot (h : Steady n a s) (m : Fin 24) : Steady n a (s.postSlot m) := h.post _

theorem setQueue (h : Steady n a s) (c : Fin 4) (q : List WaitEntry) : Steady n a (s.setQueue c q) := h.slots rfl

theorem showLasting (h : Steady n a s) (m : Fin 24) (d : Display) : Steady n a (s.showLasting m d) := h.slots (showLasting_slots m d)

theorem setGrant (h : Steady n a s) (m : Fin 24) (g : Bool) : Steady n a (s.setGrant m g) := by
  refine h.modSlot m _ ?_
  exact fun _ => ⟨rfl, rfl⟩

theorem enter (h : Steady n a s) (m : Fin 24) (st : SlotState) : Steady n a (s.enter m st) := by
  refine h.trans ?_
  unfold Steady
  rw [State.enter_slot]
  split
  · next e => subst e; exact ⟨rfl, rfl⟩
  · exact ⟨rfl, rfl⟩

theorem modGov (h : Steady n a s) (f : Governor → Governor) : Steady n a (s.modGov f) := h.slots rfl

theorem foldl {α : Type} {f : State → α → State} (hf : ∀ s x, Steady n s (f s x)) (l : List α) (s : State) :
    Steady n s (l.foldl f s) := by
  induction l generalizing s with
  | nil => exact .refl n s
  | cons x l ih => exact (hf s x).trans (ih _)

theorem grantSlot (s : State) (m : Fin 24) : Steady n s (s.grantSlot m) :=
  ite (((Steady.refl n s).setGrant m true).enter m .running) ((Steady.refl n s).setGrant m true)

theorem revokeSlot (s : State) (m : Fin 24) : Steady n s (s.revokeSlot m) := ((Steady.refl n s).setGrant m false).enter m .awaitPower

theorem revoke (s : State) (fell : Bool) : Steady n s (s.revoke fell).1 := by
  unfold State.revoke
  dsimp only
  refine Steady.trans ?_ (foldl (fun s x => revokeSlot s _) _ _)
  exact (Steady.refl n s).slots rfl

theorem grantPass (s : State) (v : List (Fin 24)) : Steady n s (s.grantPass v) := by
  unfold State.grantPass
  dsimp only
  refine Steady.trans ?_ (foldl (fun s x => grantSlot s _) _ _)
  exact (Steady.refl n s).slots rfl

theorem tidyStamp (h : Steady n a s) : Steady n a s.tidyStamp := ite (h.slots rfl) h

theorem reckon (h : Steady n a s) (x y z : Bool) : Steady n a (s.reckon x y z) := by
  refine h.trans ?_
  unfold State.reckon
  dsimp only
  have figures : Steady n s ((s.modGov fun g => { g with motor := s.motorSum }).modGov fun g =>
      { g with heat := (s.modGov fun g => { g with motor := s.motorSum }).heatBudget }) :=
    ((Steady.refl n s).modGov _).modGov _
  generalize ((s.modGov fun g => { g with motor := s.motorSum }).modGov fun g =>
      { g with heat := (s.modGov fun g => { g with motor := s.motorSum }).heatBudget }) = u at *
  exact (Steady.ite ((figures.trans (revoke u _)).trans (grantPass _ _)) (figures.trans (revoke u _))).tidyStamp

theorem reserve (h : Steady n a s) (m : Fin 24) (c : Fin 4) (e : WaitEntry) (q : List WaitEntry) : Steady n a (s.reserve m c e q) := by
  have k := (h.setQueue c q).modSlot m (fun x => { x with
      reservation := some ⟨e.card, e.account, e.joined, (s.setQueue c q).settings.room.window * 60⟩ }) fun _ => ⟨rfl, rfl⟩
  obtain ⟨v, b, hv, e⟩ := reserve_cases (s := s) m c e q
  rw [e]
  rcases hv with rfl | rfl
  · exact ((k.postSlot m).post b).showLasting m _
  · exact ((k.enter m .reserved).post b).showLasting m _

theorem offer (h : Steady n a s) (m : Fin 24) : Steady n a (s.offer m) := by
  unfold State.offer
  split
  · exact h
  · split
    · exact h
    · exact h.reserve m _ _ _

theorem enterIdle (h : Steady n a s) (m : Fin 24) : Steady n a (s.enterIdle m) := (h.enter m .idle).offer m

theorem giveBack (h : Steady n a s) (c : Fin 4) (r : Reservation) : Steady n a (s.giveBack c r) := by
  obtain ⟨u, q, hu, e⟩ := giveBack_cases (s := s) c r
  have k : Steady n a (u.setQueue c q) := by
    rcases hu with rfl | ⟨q', b, rfl⟩
    · exact h.setQueue c q
    · exact ((h.setQueue c q').post b).setQueue c q
  rcases e with e | ⟨m, -, e⟩ <;> rw [e]
  · exact k
  · exact k.offer m

theorem takeOut (h : Steady n a s) (m : Fin 24) : Steady n a (s.takeOut m) := by
  unfold State.takeOut
  split
  · exact ((h.modSlot m (fun x => { x with reservation := none }) fun _ => ⟨rfl, rfl⟩).enter m _).giveBack _ _
  · exact h.enter m _

theorem setCause (h : Steady n a s) (m : Fin 24) (c : Cause) (v : Bool) : Steady n a (s.setCause m c v) := by
  refine h.modSlot m _ ?_
  exact fun _ => ⟨rfl, rfl⟩

end Steady

/-! ### TERMINAL_LOST at a slot without a hold (R35, R141) -/

/-- At slot `n` nothing but its state, causes and what these bring has changed, and no record of the payment unit. -/
structure Placed (n : Fin 24) (a s : State) : Prop where
  steady : Steady n a s
  cfg : (s.slot n).cfg = (a.slot n).cfg
  books : a.booksKept s
  outside : s.outside = a.outside

theorem Placed.trans {b c : State} (h : Placed n a b) (k : Placed n b c) : Placed n a c :=
  ⟨h.steady.trans k.steady, k.cfg.trans h.cfg,
    ⟨k.books.accounts.trans h.books.accounts, k.books.holds.trans h.books.holds, k.books.settlement.trans h.books.settlement,
      k.books.writes.trans h.books.writes⟩, k.outside.trans h.outside⟩

theorem Placed.calm (h : Steady n a s) (k : Calm a s) (acts : Acts a s) : Placed n a s := ⟨h, (k.slots n).1, k.booksKept, acts.outside⟩

theorem Placed.refl (n : Fin 24) (a : State) : Placed n a a := .calm (.refl n a) (.refl a) (.refl a)

theorem Placed.ite {c : Prop} [Decidable c] {t u : State} (ht : Placed n a t) (hu : Placed n a u) : Placed n a (if c then t else u) := by
  split <;> assumption

theorem Placed.hold (h : Placed n a s) : s.hold n = a.hold n := by simp only [State.hold, h.books.holds]

theorem setCause_placed (s : State) (n : Fin 24) (v : Bool) : Placed n s (s.setCause n .lost v) := by
  refine ⟨(Steady.refl n s).setCause n _ _, ?_, ⟨rfl, rfl, rfl, rfl⟩, rfl⟩
  unfold State.setCause
  rw [State.slot_modSlot_same]

theorem takeOut_placed (s : State) (n : Fin 24) : Placed n s (s.takeOut n) :=
  .calm ((Steady.refl n s).takeOut n) ((Calm.refl s).takeOut n) ((Acts.refl s).takeOut n)

theorem joinLost_placed (free : s.hold n = none) : Placed n s (s.joinLost n) := by
  have k := setCause_placed s n true
  have posted : Placed n (s.setCause n .lost true) ((s.setCause n .lost true).postSlot n) :=
    .calm ((Steady.refl n _).postSlot n) ((Calm.refl _).postSlot n) ((Acts.refl _).postSlot n)
  have out := takeOut_placed (s.setCause n .lost true) n
  have ended : (s.setCause n .lost true).cycleEnd n .fault (some (.terminalLost, none)) .outOfService false =
      s.setCause n .lost true := cycleEnd_none (k.hold.trans free) _ _ _ _
  unfold State.joinLost
  split
  · exact .refl n s
  dsimp only
  rw [ended]
  split
  · exact k
  · exact k.trans posted
  iterate 5 exact k.trans out
  all_goals exact k

theorem raiseLost_placed (free : s.hold n = none) : Placed n s (s.raise (some n) .terminalLost) := by
  obtain ⟨E, e⟩ := entered_eq s n .terminalLost none
  have entered : Placed n s (s.entered n .terminalLost none) := by
    rw [e]
    exact ⟨⟨rfl, rfl⟩, rfl, ⟨rfl, rfl, rfl, rfl⟩, rfl⟩
  rw [raiseLost_eq]
  exact entered.trans (joinLost_placed (entered.hold.trans free))

theorem regainSlot_placed (s : State) (n : Fin 24) : Placed n s (s.regainSlot n) := by
  have latched : Placed n s (s.latch (some n) .terminalLost) := ⟨⟨rfl, rfl⟩, rfl, ⟨rfl, rfl, rfl, rfl⟩, rfl⟩
  unfold State.regainSlot
  refine latched.trans ?_
  unfold State.removeCause
  generalize s.latch (some n) .terminalLost = u
  have k := setCause_placed u n false
  have written : (u.setCause n .lost false).writeCauses n .lost = u.setCause n .lost false := if_pos rfl
  rw [written]
  dsimp only
  have posted : Placed n (u.setCause n .lost false) ((u.setCause n .lost false).postSlot n) :=
    .calm ((Steady.refl n _).postSlot n) ((Calm.refl _).postSlot n) ((Acts.refl _).postSlot n)
  have idle (v : State) : Placed n v (v.enterIdle n) :=
    .calm ((Steady.refl n v).enterIdle n) ((Calm.refl v).enterIdle n) ((Acts.refl v).enterIdle n)
  exact .ite (.refl n u) (.ite ((k.trans posted).trans (idle _)) (k.trans posted))

theorem followTerminal_placed (free : s.hold n = none) (t : Fin 16) : Placed n s (s.followTerminal n t) :=
  .ite (raiseLost_placed free) (.ite (regainSlot_placed s n) (.refl n s))

/-! ### A class given to a slot (R2, R35) -/

/-- What follows the configuration and its write at a slot given a class, up to the reckoning (R35; log 23). -/
def State.takePlace (s : State) (n : Fin 24) (old : Option SlotCfg) (c : SlotCfg) : State :=
  match old with
  | none => (s.enterIdle n).followTerminal n c.term
  | some o =>
    let moved : Bool := !(o.term == c.term && o.half == c.half)
    let s := if moved then s.showMoved n else s
    let s := if o.cls ≠ c.cls ∧ (s.slot n).state = .idle then s.offer n else s
    if moved then s.followTerminal n c.term else s

/-- The configuration of a slot and its write, the half that it leaves blanked (R2, R35). -/
def State.configured (s : State) (n : Fin 24) (c : SlotCfg) : State :=
  ((s.modSlot n fun x => { x with
    cfg := some c, phase := phaseFor (s.cls c.cls).kind ((s.slot n).cfg.map fun o => (s.cls o.cls).kind) x.phase }).leaveHalf (s.slot n).cfg
      (some (c.term, c.half))).write [.slot n (some c)]

theorem assignClass_eq (s : State) (n : Fin 24) (c : SlotCfg) :
    s.assignClass n c = ((s.configured n c).takePlace n (s.slot n).cfg c).reckon false false false := by
  unfold State.assignClass State.takePlace State.configured
  cases (s.slot n).cfg <;> rfl

theorem enterIdle_placed (s : State) (n : Fin 24) : Placed n s (s.enterIdle n) :=
  .calm ((Steady.refl n s).enterIdle n) ((Calm.refl s).enterIdle n) ((Acts.refl s).enterIdle n)

theorem takePlace_placed (free : s.hold n = none) (old : Option SlotCfg) (c : SlotCfg) : Placed n s (s.takePlace n old c) := by
  have shown : Placed n s (s.showMoved n) :=
    .calm ((Steady.refl n s).showLasting n _) ((Calm.refl s).showLasting n _) ((Acts.refl s).showLasting n _)
  have offered (u : State) : Placed n u (u.offer n) :=
    .calm ((Steady.refl n u).offer n) ((Calm.refl u).offer n) ((Acts.refl u).offer n)
  unfold State.takePlace
  cases old with
  | none =>
    have idle := enterIdle_placed s n
    exact idle.trans (followTerminal_placed (idle.hold.trans free) _)
  | some o =>
    dsimp only
    have moved := Placed.ite (c := (!(o.term == c.term && o.half == c.half)) = true) shown (.refl n s)
    generalize (if (!(o.term == c.term && o.half == c.half)) = true then s.showMoved n else s) = u at *
    have told := moved.trans (Placed.ite (c := o.cls ≠ c.cls ∧ (u.slot n).state = .idle) (offered u) (.refl n u))
    generalize (if o.cls ≠ c.cls ∧ (u.slot n).state = .idle then u.offer n else u) = v at *
    exact told.trans (.ite (followTerminal_placed (told.hold.trans free) _) (.refl n v))

theorem reckon_placed (s : State) (x y z : Bool) : Placed n s (s.reckon x y z) :=
  .calm ((Steady.refl n s).reckon x y z) ((Calm.refl s).reckon x y z) ((Acts.refl s).reckon x y z)

theorem leaveHalf_rest (s : State) (o : Option SlotCfg) (m : Option (Fin 16 × Half)) :
    (s.leaveHalf o m).slots = s.slots ∧ (s.leaveHalf o m).queues = s.queues ∧ (s.leaveHalf o m).gov = s.gov ∧
      (s.leaveHalf o m).faults = s.faults ∧ (s.leaveHalf o m).outside = s.outside ∧
      ∀ t, ((s.leaveHalf o m).terminal t).presence = (s.terminal t).presence := by
  have blank (t : Fin 16) (h : Half) : (s.blankHalf t h).outside = s.outside := by
    unfold State.blankHalf
    refine ((Acts.refl s).modHalf t h _ fun e => ?_).outside
    unfold HalfEntry.setRoom
    rfl
  unfold State.leaveHalf
  split
  · split
    · exact ⟨rfl, rfl, rfl, rfl, rfl, fun _ => rfl⟩
    · exact ⟨rfl, rfl, rfl, rfl, blank _ _, fun t => presence_of_outside (blank _ _) t⟩
  · exact ⟨rfl, rfl, rfl, rfl, rfl, fun _ => rfl⟩

/-- A slot given its class (R2). -/
structure Configured (n : Fin 24) (c : SlotCfg) (a s : State) : Prop where
  slot : s.slot n = { a.slot n with
    cfg := some c, phase := phaseFor (a.cls c.cls).kind ((a.slot n).cfg.map fun o => (a.cls o.cls).kind) (a.slot n).phase }
  queues : s.queues = a.queues
  books : s.accounts = a.accounts ∧ s.holds = a.holds
  writes : s.writes = a.writes ++ [[.slot n (some c)]]
  outside : s.outside = a.outside
  quiet : Quiet a s

theorem configured_does (s : State) (n : Fin 24) (c : SlotCfg) : Configured n c s (s.configured n c) := by
  have modified : (s.modSlot n fun x => { x with
      cfg := some c, phase := phaseFor (s.cls c.cls).kind ((s.slot n).cfg.map fun o => (s.cls o.cls).kind) x.phase }).slot n =
      { s.slot n with
        cfg := some c, phase := phaseFor (s.cls c.cls).kind ((s.slot n).cfg.map fun o => (s.cls o.cls).kind) (s.slot n).phase } := State.slot_modSlot_same s n _
  have quiet : Quiet s (s.modSlot n fun x => { x with
      cfg := some c, phase := phaseFor (s.cls c.cls).kind ((s.slot n).cfg.map fun o => (s.cls o.cls).kind) x.phase }) := by
    refine (Quiet.refl s).modSlot n _ ?_
    exact fun _ => ⟨rfl, rfl⟩
  have outside : (s.modSlot n fun x => { x with
      cfg := some c, phase := phaseFor (s.cls c.cls).kind ((s.slot n).cfg.map fun o => (s.cls o.cls).kind) x.phase }).outside = s.outside := rfl
  have books : (s.modSlot n fun x => { x with
      cfg := some c, phase := phaseFor (s.cls c.cls).kind ((s.slot n).cfg.map fun o => (s.cls o.cls).kind) x.phase }).books = s.books := rfl
  have queues : (s.modSlot n fun x => { x with
      cfg := some c, phase := phaseFor (s.cls c.cls).kind ((s.slot n).cfg.map fun o => (s.cls o.cls).kind) x.phase }).queues = s.queues := rfl
  unfold State.configured
  generalize (s.modSlot n fun x => { x with
      cfg := some c, phase := phaseFor (s.cls c.cls).kind ((s.slot n).cfg.map fun o => (s.cls o.cls).kind) x.phase }) = u at *
  obtain ⟨slots', queues', -, -, outside', -⟩ := leaveHalf_rest u (s.slot n).cfg (some (c.term, c.half))
  have books' := (Calm.leaveHalf u (s.slot n).cfg (some (c.term, c.half))).books
  have quiet' := Quiet.leaveHalf u (s.slot n).cfg (some (c.term, c.half))
  generalize u.leaveHalf (s.slot n).cfg (some (c.term, c.half)) = v at *
  have kept := books'.trans books
  simp only [State.books, Prod.mk.injEq] at kept
  obtain ⟨⟨accounts, holds, -, -⟩, -, writes⟩ := kept
  refine ⟨(slot_of_slots slots' n).trans modified, queues'.trans queues, ⟨accounts, holds⟩, ?_, outside'.trans outside,
    (quiet.trans quiet').write _⟩
  show v.writes ++ _ = _
  rw [writes]

theorem hold_of_spare (w : Whole s) (spare : (s.slot n).state.spare) : s.hold n = none := by
  have busy := w.busy n id
  rw [spare.2] at busy
  simpa using busy

/-- SLOT_SET with a class and a half (R2, R35). -/
structure Assigned (n : Fin 24) (c : SlotCfg) (a s : State) : Prop where
  cfg : (s.slot n).cfg = some c
  scanned : (s.slot n).sense.scanned = (a.slot n).sense.scanned
  phase : (s.slot n).phase = phaseFor (a.cls c.cls).kind ((a.slot n).cfg.map fun o => (a.cls o.cls).kind) (a.slot n).phase
  accounts : s.accounts = a.accounts
  holds : s.holds = a.holds
  writes : s.writes = a.writes ++ [[.slot n (some c)]]
  outside : s.outside = a.outside
  state : (a.slot n).cfg = none → (a.terminal c.term).presence ≠ .lost → (a.slot n).causes.lost = false →
    (s.slot n).state = if a.queue c.cls = [] then .idle else .reserved

theorem assignClass_does (w : Whole s) (spare : (s.slot n).state.spare) (c : SlotCfg) : Assigned n c s (s.assignClass n c) := by
  rw [assignClass_eq]
  obtain ⟨slot, queues, ⟨accounts, holds⟩, writes, outside, quiet⟩ := configured_does s n c
  generalize s.configured n c = u at *
  have free : u.hold n = none := by
    simp only [State.hold, holds]
    exact hold_of_spare w spare
  have placed := (takePlace_placed free (s.slot n).cfg c).trans (reckon_placed _ false false false)
  obtain ⟨⟨phase, scanned⟩, cfg, ⟨accounts', holds', -, writes'⟩, outside'⟩ := placed
  refine ⟨cfg.trans (by rw [slot]), scanned.trans (by rw [slot]), phase.trans (by rw [slot]), accounts'.trans accounts,
    holds'.trans holds, writes'.trans writes, outside'.trans outside, fun fresh heard lost => ?_⟩
  have heard' : (u.terminal c.term).presence ≠ .lost := by rwa [presence_of_outside outside]
  have asked : ¬ u.asked n := mt (quiet.asked n).1 (w.unasked id spare.1).1
  have idle := enterIdle_offered u n
  have calm := (Calm.refl u).enterIdle n
  have acts := (Acts.refl u).enterIdle n
  have still : u.takePlace n (s.slot n).cfg c = u.enterIdle n := by
    rw [fresh]
    unfold State.takePlace State.followTerminal
    dsimp only
    rw [if_neg (by rw [presence_of_outside acts.outside]; exact heard'), if_neg (by rw [(calm.slots n).2, slot, lost]; exact nofun)]
  rw [still, reckon_slot _ _ _ _ _ (by simpa only [State.asked, State.granted, State.waiting, enterIdle_gov] using asked)]
  have cls : u.slotCls n = some c.cls := by unfold State.slotCls; rw [slot]; rfl
  have queue : u.queue c.cls = s.queue c.cls := by simp only [State.queue, queues]
  split
  · next empty => exact (idle.idle fun d hd => by rw [cls] at hd; obtain rfl := Option.some.inj hd; rw [queue, empty]).1
  · next waits =>
    obtain ⟨e, rest, some⟩ := List.exists_cons_of_ne_nil waits
    exact (idle.taken c.cls e rest cls (queue.trans some)).1

/-! ### A class removed from a slot (R2, R35, R146) -/

/-- SLOT_SET without a class. -/
structure Removed (n : Fin 24) (a s : State) : Prop where
  slot : (s.slot n).cfg = none ∧ (s.slot n).state = .unconfigured ∧ (s.slot n).causes = .empty ∧ (s.slot n).run = 0 ∧
    (s.slot n).sense = .start
  faults : s.faults = (a.latchAll n).faults
  accounts : s.accounts = a.accounts
  holds : s.holds = a.holds
  writes : s.writes = a.writes ++ [[.slot n none, .causes n none]]
  others : ∀ m, m ≠ n → (a.slot m).bystander (s.slot m)
  outside : s.outside = a.outside

/-- A slot's class, causes and run seconds taken away, and their write. -/
def State.stripped (s : State) (n : Fin 24) : State :=
  ((s.latchAll n).modSlot n fun x => { x with cfg := none, causes := .empty, run := 0, phase := .none }).write
    [.slot n none, .causes n none]

theorem removeClass_eq {o : SlotCfg} (cfg : (s.slot n).cfg = some o) : s.removeClass n =
    (((s.stripped n).enterTold n .unconfigured).modSlot n fun x => { x with sense := .start }).leaveHalf (some o) none := by
  unfold State.removeClass State.stripped
  dsimp only
  rw [cfg, Option.isSome_some, if_pos rfl]

theorem removeClass_does (w : Whole s) (spare : (s.slot n).state.spare) {o : SlotCfg} (cfg : (s.slot n).cfg = some o) :
    Removed n s (s.removeClass n) := by
  rw [removeClass_eq cfg]
  have slot : (s.stripped n).slot n = { s.slot n with cfg := none, causes := .empty, run := 0, phase := .none } :=
    State.slot_modSlot_same (s.latchAll n) n fun x => { x with cfg := none, causes := .empty, run := 0, phase := .none }
  have others (m : Fin 24) (hm : m ≠ n) : (s.stripped n).slot m = s.slot m :=
    State.slot_modSlot_ne (s.latchAll n) hm.symm fun x => { x with cfg := none, causes := .empty, run := 0, phase := .none }
  have quiet : Quiet s (s.stripped n) := (Quiet.modSlot (s := s.latchAll n) ((Quiet.refl s).change rfl rfl rfl) n
    (fun x => { x with cfg := none, causes := .empty, run := 0, phase := .none }) fun _ => ⟨rfl, rfl⟩).write _
  have rest : (s.stripped n).faults = (s.latchAll n).faults ∧ (s.stripped n).accounts = s.accounts ∧
      (s.stripped n).holds = s.holds ∧ (s.stripped n).writes = s.writes ++ [[.slot n none, .causes n none]] ∧
      (s.stripped n).outside = s.outside := ⟨rfl, rfl, rfl, rfl, rfl⟩
  generalize s.stripped n = u at *
  obtain ⟨faults, accounts, holds, writes, outside⟩ := rest
  have spareU : (u.slot n).state.spare := by rw [slot]; exact spare
  have wu := Law.quiet w quiet
  obtain ⟨entered, -⟩ := Whole.spare wu spareU (st := .unconfigured) rfl
  have own := enterTold_slot (s := u) n n .unconfigured (wu.unasked id spareU.1).1
  rw [if_pos rfl, slot] at own
  have beside := (Beside.refl n u).enterTold .unconfigured entered
  have bare : Bare u (u.enterTold n .unconfigured) := ((Bare.refl u).enter n .unconfigured).reckon _ _ _
  obtain ⟨accounts', holds', -, writes'⟩ := ((Calm.refl u).enterTold n .unconfigured).booksKept
  have outside' := ((Acts.refl u).enterTold n .unconfigured).outside
  have faults' := enterTold_faults u n .unconfigured
  generalize u.enterTold n .unconfigured = v at *
  obtain ⟨slots, -, -, faults'', outside'', -⟩ := leaveHalf_rest (v.modSlot n fun x => { x with sense := .start }) (some o) none
  obtain ⟨accounts'', holds'', -, writes''⟩ :=
    (Calm.leaveHalf (v.modSlot n fun x => { x with sense := .start }) (some o) none).booksKept
  have last : (v.modSlot n fun x => { x with sense := .start }).slot n = { v.slot n with sense := .start } :=
    State.slot_modSlot_same v n _
  refine ⟨?_, faults''.trans (faults'.trans faults), accounts''.trans (accounts'.trans accounts), holds''.trans (holds'.trans holds),
    writes''.trans (writes'.trans writes), fun m hm => ?_, outside''.trans (outside'.trans outside)⟩
  · rw [slot_of_slots slots, last, own]
    exact ⟨rfl, rfl, rfl, rfl, rfl⟩
  · rw [slot_of_slots slots, State.slot_modSlot_ne v hm.symm, ← others m hm]
    exact bystander_of bare beside m hm

/-! ### The requests -/

theorem slotSet_ready (ready : s.readyFor p) (turn : s.turn ≠ some (otherPort p)) {c t h : Nat} (hc : c < 256) (ht : t < 256)
    (hh : h < 256) : exec (.slotSet p (beBytes 1 n ++ beBytes 1 c ++ beBytes 1 t ++ beBytes 1 h)) s =
      .next (((s.countTaken p).slotSet (n.val, c, t, h)).finish p 0x12 (s.countTaken p).writes.length) := by
  have body : body1111 (beBytes 1 n ++ beBytes 1 c ++ beBytes 1 t ++ beBytes 1 h) = .ok (n.val, c, t, h) := by
    rw [beBytes_one, beBytes_one, beBytes_one, beBytes_one]
    show Except.ok (_, _, _, _) = _
    rw [toNat_byte (by omega), toNat_byte hc, toNat_byte ht, toNat_byte hh]
  exact congrArg _ (request_ok ready (by cases p <;> rfl) body (fun _ => turn) _)

theorem slotOf_val (n : Fin 24) : slotOf n.val = some n := dif_pos n.isLt
theorem terminalOf_val (t : Fin 16) : terminalOf t.val = some t := dif_pos t.isLt

/-- A half's code in a body (R35). -/
def halfCode : Half → Nat
  | .a => 0
  | .b => 1

theorem halfOf_halfCode (h : Half) : halfOf (halfCode h) = some h := by cases h <;> rfl

/-- A terminal mode's code in a body (R34). -/
def TermMode.code : TermMode → Nat
  | .single => 0
  | .paired => 1

theorem termModeOf_code (m : TermMode) : termModeOf m.code = some m := by cases m <;> rfl

theorem slotSet_removes (settable : (s.slot n).state.settable = true) (t h : Nat) :
    s.slotSet (n.val, 0xFF, t, h) = (s.removeClass n).ok := by
  unfold State.slotSet
  dsimp only
  rw [slotOf_val]
  dsimp only
  rw [if_pos rfl, if_pos settable]

theorem slotSet_assigns (settable : (s.slot n).state.settable = true) (c : Fin 4) {t : Fin 16} {h : Half}
    (free : s.halfRefused n t h = none) : s.slotSet (n.val, c.val, t.val, halfCode h) = (s.assignClass n ⟨c, t, h⟩).ok := by
  unfold State.slotSet
  dsimp only
  rw [slotOf_val]
  dsimp only
  rw [if_neg (by omega), classOf_val]
  dsimp only
  rw [if_neg (by rw [settable]; exact Bool.false_ne_true), terminalOf_val, halfOf_halfCode]
  dsimp only
  rw [free]

theorem halfRefused_none {t : Fin 16} {h : Half} (free : s.slotAt t h = none ∨ s.slotAt t h = some n)
    (mode : h = .b → (s.terminal t).mode = .paired) : s.halfRefused n t h = none := by
  unfold State.halfRefused
  rw [if_neg fun k => by rw [mode k.1] at k; cases k.2]
  rcases free with e | e <;> rw [e]
  exact if_pos rfl

theorem terminalSet_does (ready : s.readyFor p) (turn : s.turn ≠ some (otherPort p)) {t : Fin 16} {m : TermMode}
    (other : (s.terminal t).mode ≠ m)
    (free : ∀ n o, (s.slot n).cfg = some o → o.term = t → (s.slot n).state.settable = true)
    (single : m = .single → s.slotAt t .b = none) : exec (.terminalSet p (beBytes 1 t ++ beBytes 1 m.code)) s =
      .next ((s.modTerminal t fun x => { x with mode := m }).stores p ⟨0x13, .ok, .empty⟩ [.terminal t m]) := by
  have body : body11 (beBytes 1 t ++ beBytes 1 m.code) = .ok (t.val, m.code) := by
    rw [beBytes_one, beBytes_one]
    show Except.ok (_, _) = _
    rw [toNat_byte (by omega), toNat_byte (by cases m <;> decide)]
  refine congrArg _ ((request_ok ready (by cases p <;> rfl) body (fun _ => turn) _).trans ?_)
  dsimp only
  rw [terminalOf_val, termModeOf_code]
  dsimp only
  have settable : ((s.countTaken p).slotsOn t).any (fun n => !((s.countTaken p).slot n).state.settable) = false := by
    rw [countTaken_proj (fun u => (u.slotsOn t).any fun n => !(u.slot n).state.settable) (fun _ => rfl) s p]
    simp only [List.any_eq_false]
    intro n on
    have cfg := (List.mem_filter.1 on).2
    cases e : (s.slot n).cfg with
    | none => rw [e] at cfg; cases cfg
    | some o =>
      rw [e] at cfg
      rw [free n o e (by simpa using cfg)]
      exact nofun
  unfold State.terminalSet
  rw [countTaken_proj (fun u => (u.terminal t).mode) (fun _ => rfl) s p, if_neg other, settable, if_neg Bool.false_ne_true,
    countTaken_proj (fun u => u.slotAt t .b) (fun _ => rfl) s p, if_neg fun k => by rw [single k.1] at k; cases k.2]
  refine Eq.trans ?_ (finish_stores (s := s) (p := p) (u := s.modTerminal t fun x => { x with mode := m }) rfl 0x13 .empty _)
  cases p <;> rfl

/-- Settles O47. -/
theorem slotsAndTerminalsAreSet : Obligations.SlotsAndTerminalsAreSet := by
  intro s p ready turn heat busy
  have w : Whole (s.countTaken p) := Law.quiet (whole_iff.2 ⟨heat, busy⟩) (countTaken_quiet s p)
  have slot (n : Fin 24) : (s.countTaken p).slot n = s.slot n := slot_of_inside (countTaken_inside s p) n
  have accounts : (s.countTaken p).accounts = s.accounts := countTaken_proj State.accounts (fun _ => rfl) s p
  have holds : (s.countTaken p).holds = s.holds := countTaken_proj State.holds (fun _ => rfl) s p
  have writes : (s.countTaken p).writes = s.writes := countTaken_writes
  refine ⟨fun n t h ht hh settable cfg => ?_, fun n c t h settable free mode => ?_, fun t m other free single =>
    terminalSet_does ready turn other free single⟩
  · obtain ⟨o, cfg⟩ := Option.isSome_iff_exists.1 cfg
    have spare : ((s.countTaken p).slot n).state.spare := by rw [slot]; exact settable_spare settable
    have removed := removeClass_does w spare (by rw [slot]; exact cfg)
    have act : exec (.slotSet p (beBytes 1 n ++ [0xFF] ++ beBytes 1 t ++ beBytes 1 h)) s =
        .next (((s.countTaken p).removeClass n).ok.finish p 0x12 (s.countTaken p).writes.length) := by
      have k := slotSet_ready (n := n) ready turn (show 0xFF < 256 by decide) ht hh
      rwa [slotSet_removes (by rw [slot]; exact settable)] at k
    refine ⟨_, act, ?_⟩
    generalize (s.countTaken p).removeClass n = v at *
    obtain ⟨⟨cfg', state', causes', run', sense'⟩, faults', accounts', holds', writes', others', outside'⟩ := removed
    have waits : s.awaits p ⟨0x12, .ok, .empty⟩ (v.ok.finish p 0x12 (s.countTaken p).writes.length) :=
      finish_awaits (x := v.ok) (fun q => port_of_outside outside' q) (by
        show v.writes.length ≠ _
        rw [writes']; simp)
    have kept {α : Type} (f : State → α) (hf : ∀ u : State, f u = f u.inside) :=
      finish_proj f hf v.ok p 0x12 (s.countTaken p).writes.length
    generalize v.ok.finish p 0x12 (s.countTaken p).writes.length = u at *
    have slotU (m : Fin 24) : u.slot m = v.slot m := kept (fun u => u.slot m) fun _ => rfl
    have faults : u.faults = (s.latchAll n).faults :=
      (kept State.faults fun _ => rfl).trans (faults'.trans (countTaken_proj (fun u => (u.latchAll n).faults) (fun _ => rfl) s p))
    refine ⟨waits, (kept State.writes fun _ => rfl).trans (writes'.trans (by rw [writes])), ?_⟩
    rw [slotU, faults]
    refine ⟨cfg', state', causes', run', sense', ?_, rfl, (kept State.accounts fun _ => rfl).trans (accounts'.trans accounts),
      (kept State.holds fun _ => rfl).trans (holds'.trans holds), fun m hm => ?_⟩
    · unfold State.latchAll
      simp only [beq_iff_eq]
    · rw [slotU, ← slot]
      exact others' m hm
  · have spare : ((s.countTaken p).slot n).state.spare := by rw [slot]; exact settable_spare settable
    have assigned := assignClass_does w spare ⟨c, t, h⟩
    have act : exec (.slotSet p (beBytes 1 n ++ beBytes 1 c ++ beBytes 1 t ++ beBytes 1 (halfCode h))) s =
        .next (((s.countTaken p).assignClass n ⟨c, t, h⟩).ok.finish p 0x12 (s.countTaken p).writes.length) := by
      have k := slotSet_ready (n := n) ready turn (show c.val < 256 by omega) (show t.val < 256 by omega)
        (show halfCode h < 256 by cases h <;> decide)
      have refused : (s.countTaken p).halfRefused n t h = none :=
        halfRefused_none (by rw [countTaken_proj (fun u => u.slotAt t h) (fun _ => rfl) s p]; exact free)
          (by rw [countTaken_proj (fun u => (u.terminal t).mode) (fun _ => rfl) s p]; exact mode)
      rwa [slotSet_assigns (by rw [slot]; exact settable) c refused] at k
    refine ⟨_, act, ?_⟩
    generalize (s.countTaken p).assignClass n ⟨c, t, h⟩ = v at *
    obtain ⟨cfg', scanned', phase', accounts', holds', writes', outside', state'⟩ := assigned
    have waits : s.awaits p ⟨0x12, .ok, .empty⟩ (v.ok.finish p 0x12 (s.countTaken p).writes.length) :=
      finish_awaits (x := v.ok) (fun q => port_of_outside outside' q) (by
        show v.writes.length ≠ _
        rw [writes']; simp)
    have kept {α : Type} (f : State → α) (hf : ∀ u : State, f u = f u.inside) :=
      finish_proj f hf v.ok p 0x12 (s.countTaken p).writes.length
    generalize v.ok.finish p 0x12 (s.countTaken p).writes.length = u at *
    have slotU : u.slot n = v.slot n := kept (fun u => u.slot n) fun _ => rfl
    have cls (d : Fin 4) : (s.countTaken p).cls d = s.cls d := countTaken_proj (fun u => u.cls d) (fun _ => rfl) s p
    refine ⟨waits, (kept State.writes fun _ => rfl).trans (writes'.trans (by rw [writes])), ?_⟩
    rw [slot] at scanned' phase' state'
    simp only [cls] at phase'
    rw [slotU]
    refine ⟨cfg', scanned', fun o ho same => ?_, fun differ => ?_, fun fresh heard lost => ?_,
      (kept State.accounts fun _ => rfl).trans (accounts'.trans accounts), (kept State.holds fun _ => rfl).trans (holds'.trans holds)⟩
    · rw [phase', ho, phaseFor, if_pos (by rw [Option.map_some, same])]
    · rw [phase', phaseFor, if_neg fun k => ?_]
      · exact startPhase_iff _
      · obtain ⟨o, ho, same⟩ := Option.map_eq_some_iff.1 k
        exact differ o ho same
    · have state := state' fresh (by rw [countTaken_proj (fun u => (u.terminal t).presence) (fun _ => rfl) s p]; exact heard) lost
      rw [countTaken_proj (fun u => u.queue c) (fun _ => rfl) s p] at state
      exact state

end

end Sys2Proof.Machine

namespace Sys2Proof.Machine

/-! ## The early notice of compare point A (R25, R165) -/

section
variable {s t : State} {n : Fin 24} {c : Fin 4}

/-- The entries of a class queue that were not told yet (R165). -/
def untold (q : List WaitEntry) : List WaitEntry := q.filter fun e => !e.notified

/-- The first `k` entries not told yet, told (R165). -/
def tell : Nat → List WaitEntry → List WaitEntry
  | _, [] => []
  | k, e :: rest =>
    if e.notified then e :: tell k rest
    else match k with
      | 0 => e :: rest
      | k + 1 => { e with notified := true } :: tell k rest

theorem tell_zero (q : List WaitEntry) : tell 0 q = q := by
  induction q with
  | nil => rfl
  | cons e rest ih =>
    unfold tell
    split
    · rw [ih]
    · rfl

theorem notify_card (q : List WaitEntry) : (notify q).2 = (untold q).head?.map fun e => e.card := by
  induction q with
  | nil => rfl
  | cons e rest ih =>
    unfold notify untold
    by_cases told : e.notified = true
    · rw [if_pos told, List.filter_cons_of_neg (by simp [told])]; exact ih
    · rw [if_neg told, List.filter_cons_of_pos (by simp [told])]; rfl

theorem untold_notify (q : List WaitEntry) : untold (notify q).1 = (untold q).tail := by
  induction q with
  | nil => rfl
  | cons e rest ih =>
    unfold notify untold
    by_cases told : e.notified = true
    · rw [if_pos told, List.filter_cons_of_neg (by simp [told]), List.filter_cons_of_neg (by simp [told])]; exact ih
    · rw [if_neg told, List.filter_cons_of_neg (by simp), List.filter_cons_of_pos (by simp [told])]; rfl

theorem tell_succ (k : Nat) (q : List WaitEntry) : tell (k + 1) q = tell k (notify q).1 := by
  induction q with
  | nil => rfl
  | cons e rest ih =>
    by_cases told : e.notified = true
    · have n1 : (notify (e :: rest)).1 = e :: (notify rest).1 := by simp [notify, told]
      have t1 (j : Nat) (r : List WaitEntry) : tell j (e :: r) = e :: tell j r := by simp [tell, told]
      rw [n1, t1, t1, ih]
    · have n1 : (notify (e :: rest)).1 = { e with notified := true } :: rest := by simp [notify, told]
      have t1 : tell (k + 1) (e :: rest) = { e with notified := true } :: tell k rest := by simp [tell, told]
      have t2 : tell k ({ e with notified := true } :: rest) = { e with notified := true } :: tell k rest := by simp [tell]
      rw [n1, t1, t2]

/-- The notice touches the flags alone. -/
theorem tell_entries (k : Nat) (q : List WaitEntry) : (tell k q).map (fun e => (e.card, e.account, e.joined, e.lifetime)) =
    q.map fun e => (e.card, e.account, e.joined, e.lifetime) := by
  induction q generalizing k with
  | nil => rfl
  | cons e rest ih =>
    by_cases told : e.notified = true
    · have t1 : tell k (e :: rest) = e :: tell k rest := by simp [tell, told]
      rw [t1, List.map_cons, List.map_cons, ih]
    · cases k with
      | zero => rw [tell_zero]
      | succ k =>
        have t1 : tell (k + 1) (e :: rest) = { e with notified := true } :: tell k rest := by simp [tell, told]
        rw [t1, List.map_cons, List.map_cons, ih]

/-- Which entries are told when the first `k` are. -/
theorem tell_notified (k i : Nat) (q : List WaitEntry) : (tell k q)[i]?.map (fun e => e.notified) =
    q[i]?.map fun e => e.notified || decide ((q.take i).countP (fun x => !x.notified) < k) := by
  induction q generalizing k i with
  | nil => rfl
  | cons e rest ih =>
    by_cases told : e.notified = true
    · have t1 : tell k (e :: rest) = e :: tell k rest := by simp [tell, told]
      rw [t1]
      cases i with
      | zero => simp [told]
      | succ i => simp [ih, told]
    · cases k with
      | zero => rw [tell_zero]; simp
      | succ k =>
        have t1 : tell (k + 1) (e :: rest) = { e with notified := true } :: tell k rest := by simp [tell, told]
        rw [t1]
        cases i with
        | zero => simp
        | succ i => simp [ih, told]

/-- The notice at a state: the queue's flags and the event. -/
theorem earlyNotice_eq (s : State) (c : Fin 4) (n : Fin 24) (k : Nat) : s.earlyNotice c n k =
    match (untold (s.queue c)).head? with
    | none => s
    | some e => (s.setQueue c (tell 1 (s.queue c))).post (.waitlistSoon e.card n k) := by
  unfold State.earlyNotice
  rw [notify_card, tell_succ, tell_zero]
  cases (untold (s.queue c)).head? <;> rfl

/-- Compare point A fires at a slot of class `c` (R25). -/
def State.nears (s : State) (n : Fin 24) (c : Fin 4) : Prop :=
  (s.slot n).warning = false ∧ s.estimate n ≤ 60 * (s.cls c).warning

theorem pointA_still (cls : s.slotCls n = some c) (h : ¬ s.nears n c) : s.pointA n = s := by
  unfold State.pointA
  rw [cls]
  refine if_pos ?_
  unfold State.nears at h
  by_contra k
  simp only [Bool.or_eq_true, decide_eq_true_eq, not_or, Bool.not_eq_true] at k
  exact h ⟨k.1, by have := k.2; push_cast at this; omega⟩

theorem pointA_fires (cls : s.slotCls n = some c) (h : s.nears n c) :
    s.pointA n = (s.modSlot n fun x => { x with warning := true }).earlyNotice c n (s.minutesLeft n) := by
  unfold State.pointA
  rw [cls]
  obtain ⟨warned, estimate⟩ := h
  refine if_neg ?_
  simp only [Bool.or_eq_true, decide_eq_true_eq, not_or, Bool.not_eq_true]
  exact ⟨warned, by push_cast; omega⟩

/-- With every entry told there is none to tell. -/
theorem tell_of_untold {q : List WaitEntry} (h : untold q = []) (k : Nat) : tell k q = q := by
  unfold untold at h
  rw [List.filter_eq_nil_iff] at h
  induction q with
  | nil => rfl
  | cons e rest ih =>
    have told : e.notified = true := by simpa using h e (List.mem_cons_self ..)
    have t1 : tell k (e :: rest) = e :: tell k rest := by simp [tell, told]
    rw [t1, ih fun x hx => h x (List.mem_cons_of_mem _ hx)]

theorem untold_tell (q : List WaitEntry) : untold (tell 1 q) = (untold q).tail := by
  rw [tell_succ, tell_zero, untold_notify]

theorem tell_tell (k : Nat) (q : List WaitEntry) : tell k (tell 1 q) = tell (k + 1) q := by
  rw [tell_succ 0, tell_zero, ← tell_succ]

theorem untold_nil {q : List WaitEntry} (h : ∀ e ∈ q, e.notified = true) : untold q = [] := by
  unfold untold
  rw [List.filter_eq_nil_iff]
  intro e he
  simp [h e he]

/-- The first entry not told yet, at its place. -/
theorem untold_first {q : List WaitEntry} {k : Nat} {e : WaitEntry} (at' : q[k]? = some e) (fresh : e.notified = false)
    (before : ∀ j x, j < k → q[j]? = some x → x.notified = true) :
    (untold q).head? = some e ∧ tell 1 q = q.set k { e with notified := true } := by
  induction q generalizing k with
  | nil => cases at'
  | cons x rest ih =>
    cases k with
    | zero =>
      obtain rfl : x = e := by simpa using at'
      exact ⟨by simp [untold, fresh], by simp [tell, fresh, tell_zero]⟩
    | succ k =>
      have told : x.notified = true := before 0 x (Nat.succ_pos k) rfl
      obtain ⟨head, next⟩ := ih (by simpa using at') fun j y hj hy => before (j + 1) y (by omega) (by simpa using hy)
      refine ⟨?_, ?_⟩
      · unfold untold
        rw [List.filter_cons_of_neg (by simp [told])]
        exact head
      · have t1 : tell 1 (x :: rest) = x :: tell 1 rest := by simp [tell, told]
        rw [t1, next, List.set_cons_succ]

/-- What compare point A does where it fires (R25, R165). -/
theorem pointA_does (cls : s.slotCls n = some c) : let t := s.pointA n
    ((s.slot n).warning = true ∨ 60 * (s.cls c).warning < s.estimate n → t = s) ∧
    ((s.slot n).warning = false → s.estimate n ≤ 60 * (s.cls c).warning →
      (∀ m, t.slot m = if m = n then { s.slot n with warning := true } else s.slot m) ∧
      { t with slots := s.slots, queues := s.queues, events := s.events } = s ∧
      (∀ k e, (s.queue c)[k]? = some e → e.notified = false →
        (∀ j x, j < k → (s.queue c)[j]? = some x → x.notified = true) →
        s.told (.waitlistSoon e.card n (((s.estimate n).toNat + 59) / 60)) t ∧
        ∀ d, t.queue d = if d = c then (s.queue c).set k { e with notified := true } else s.queue d) ∧
      ((∀ e ∈ s.queue c, e.notified = true) → t.queues = s.queues ∧ t.events = s.events)) := by
  refine ⟨fun h => pointA_still cls fun k => ?_, fun warned estimate => ?_⟩
  · rcases h with e | e
    · rw [k.1] at e; cases e
    · have := k.2; omega
  rw [pointA_fires cls ⟨warned, estimate⟩, earlyNotice_eq]
  have slot (m : Fin 24) : (s.modSlot n fun x => { x with warning := true }).slot m =
      if m = n then { s.slot n with warning := true } else s.slot m := by
    rw [State.slot_modSlot]
    by_cases e : n = m
    · rw [if_pos e, if_pos e.symm]
    · rw [if_neg e, if_neg (Ne.symm e)]
  have rest : { (s.modSlot n fun x => { x with warning := true }) with
      slots := s.slots, queues := s.queues, events := s.events } = s := rfl
  have queue : ∀ d, (s.modSlot n fun x => { x with warning := true }).queue d = s.queue d := fun _ => rfl
  have fields : (s.modSlot n fun x => { x with warning := true }).queues = s.queues ∧
      (s.modSlot n fun x => { x with warning := true }).events = s.events ∧
      (s.modSlot n fun x => { x with warning := true }).clock = s.clock := ⟨rfl, rfl, rfl⟩
  generalize (s.modSlot n fun x => { x with warning := true }) = u at *
  rw [queue]
  cases first : (untold (s.queue c)).head? with
  | none =>
    refine ⟨slot, rest, fun k e at' fresh before => ?_, fun _ => ⟨fields.1, fields.2.1⟩⟩
    rw [(untold_first at' fresh before).1] at first
    cases first
  | some x =>
    dsimp only
    refine ⟨fun m => ?_, ?_, fun k e at' fresh before => ?_, fun all => ?_⟩
    · rw [slot_of_slots (State.post_slots _ _)]
      exact slot m
    · obtain ⟨E, posted⟩ : ∃ E, (u.setQueue c (tell 1 (s.queue c))).post (.waitlistSoon x.card n (s.minutesLeft n)) =
          { (u.setQueue c (tell 1 (s.queue c))) with events := E } := by
        unfold State.post
        split <;> exact ⟨_, rfl⟩
      rw [posted]
      exact rest
    · obtain ⟨head, set⟩ := untold_first at' fresh before
      obtain rfl : x = e := Option.some.inj (first.symm.trans head)
      refine ⟨told_of_post (u := u.setQueue c (tell 1 (s.queue c))) fields.2.1 fields.2.2 (List.prefix_refl _), fun d => ?_⟩
      have same : ((u.setQueue c (tell 1 (s.queue c))).post (.waitlistSoon x.card n (s.minutesLeft n))).queue d =
          (u.setQueue c (tell 1 (s.queue c))).queue d := by simp [State.queue]
      rw [same, State.queue_setQueue, set, queue]
      by_cases e : c = d
      · rw [if_pos e, if_pos e.symm]
      · rw [if_neg e, if_neg (Ne.symm e)]
    · rw [untold_nil all] at first
      cases first

end

end Sys2Proof.Machine

namespace Sys2Proof.Machine

/-! ## An elapsed second (R15, R20, R25, R78, R161, R163, R165) -/

section
variable {a s t : State} {n : Fin 24} {c : Fin 4}

/-! ### A second at a slot -/

/-- The seconds left of a slot's cycle, with the counters of `x` (R25). -/
def State.estimateAt (s : State) (n : Fin 24) (x : Slot) : Int :=
  match s.kind n with
  | .washer => (s.planned n : Int) - x.run
  | .dryer => (x.remaining + 60 * x.topUp + x.cool : Nat)

/-- A second passes at a slot: it is RUNNING, and no end that it has reached awaits its command (log 4). -/
def State.passes (s : State) (n : Fin 24) : Bool := decide ((s.slot n).state = .running) && !s.endDue n

/-- A slot after a second, before compare point A (R15, R20). -/
def State.ticked (s : State) (n : Fin 24) : Slot := if s.passes n then Slot.counted (s.kind n) (s.slot n) else s.slot n

/-- The minutes left after a second (R25). -/
def State.minutesThen (s : State) (n : Fin 24) : Nat := ((s.estimateAt n (s.ticked n)).toNat + 59) / 60

/-- The class in whose queue a second at the slot tells an entry: compare point A fires there (R25, R165). -/
def State.reaches (s : State) (n : Fin 24) : Option (Fin 4) :=
  (s.slotCls n).filter fun c => s.passes n && !(s.slot n).warning && decide (s.estimateAt n (s.ticked n) ≤ 60 * (s.cls c).warning)

/-- A slot's hold after a second: the run seconds are stored at each whole minute (R78). -/
def State.tickedHold (s : State) (n : Fin 24) : Option Hold :=
  (s.hold n).map fun h => if (s.ticked n).run ≠ (s.slot n).run ∧ (s.ticked n).run % 60 = 0 then
    { h with storedRun := (s.ticked n).run } else h

/-- The notice that a second at the slot gives, if any (R165). -/
def State.noticed (s : State) (n : Fin 24) : State :=
  match s.reaches n with
  | none => s
  | some c => s.earlyNotice c n (s.minutesThen n)

/-- What a second at slot `n` does. -/
structure Ticked (n : Fin 24) (a s : State) : Prop where
  slot : s.slot n = { a.ticked n with warning := (a.slot n).warning || (a.reaches n).isSome }
  others : ∀ m, m ≠ n → s.slot m = a.slot m
  hold : s.hold n = a.tickedHold n
  holds : ∀ m, m ≠ n → s.hold m = a.hold m
  queues : s.queues = (a.noticed n).queues
  events : s.events = (a.noticed n).events
  accounts : s.accounts = a.accounts
  settlement : s.settlement = a.settlement
  gov : s.gov = a.gov
  faults : s.faults = a.faults
  outside : s.outside = a.outside
  room : s.room = a.room

theorem counted_fields (k : Kind) (x : Slot) : (Slot.counted k x).cfg = x.cfg ∧ (Slot.counted k x).warning = x.warning := by
  unfold Slot.counted
  split <;> exact ⟨rfl, rfl⟩

theorem ticked_fields (s : State) (n : Fin 24) : (s.ticked n).cfg = (s.slot n).cfg ∧ (s.ticked n).warning = (s.slot n).warning := by
  unfold State.ticked
  split
  · exact counted_fields _ _
  · exact ⟨rfl, rfl⟩

/-- A second does not pass. -/
theorem slotSecond_still (h : s.passes n = false) : Ticked n s (s.slotSecond n) := by
  have still : s.slotSecond n = s := by
    unfold State.slotSecond
    refine if_pos ?_
    unfold State.passes at h
    by_contra k
    simp only [not_or, Bool.not_eq_true, ne_eq, not_not] at k
    rw [k.1, k.2] at h
    cases h
  have ticked : s.ticked n = s.slot n := by unfold State.ticked; rw [h]; rfl
  have reaches : s.reaches n = none := by
    unfold State.reaches
    rw [h]
    cases s.slotCls n <;> rfl
  have noticed : s.noticed n = s := by unfold State.noticed; rw [reaches]
  rw [still]
  refine ⟨?_, fun _ _ => rfl, ?_, fun _ _ => rfl, by rw [noticed], by rw [noticed], rfl, rfl, rfl, rfl, rfl, rfl⟩
  · rw [ticked, reaches, Option.isSome_none, Bool.or_false]
  · unfold State.tickedHold
    rw [ticked]
    cases s.hold n <;> simp

/-- The count of a second, and its store at a whole minute (R15, R20, R78). -/
def State.countSecond (s : State) (n : Fin 24) : State :=
  let run := (s.slot n).run
  let s := s.modSlot n (Slot.counted (s.kind n))
  if (s.slot n).run = run then s else s.storeRun n

theorem slotSecond_passes (h : s.passes n = true) : s.slotSecond n =
    if ((s.countSecond n).pointA n).minutesLeft n = s.minutesLeft n then (s.countSecond n).pointA n
    else ((s.countSecond n).pointA n).showLasting n ⟨.running, ((s.countSecond n).pointA n).minutesLeft n⟩ := by
  unfold State.slotSecond
  refine if_neg ?_
  unfold State.passes at h
  simp only [Bool.and_eq_true, decide_eq_true_eq, Bool.not_eq_eq_eq_not, Bool.not_true] at h
  rw [h.1, h.2]
  rintro (k | k)
  · exact k rfl
  · cases k

/-- The state after the count, before compare point A. -/
structure Counted (n : Fin 24) (a s : State) : Prop where
  slot : s.slot n = a.ticked n
  others : ∀ m, m ≠ n → s.slot m = a.slot m
  hold : s.hold n = a.tickedHold n
  holds : ∀ m, m ≠ n → s.hold m = a.hold m
  queues : s.queues = a.queues
  events : s.events = a.events
  clock : s.clock = a.clock
  settings : s.settings = a.settings
  accounts : s.accounts = a.accounts
  settlement : s.settlement = a.settlement
  gov : s.gov = a.gov
  faults : s.faults = a.faults
  outside : s.outside = a.outside
  room : s.room = a.room

theorem storeRun_eq (s : State) (n : Fin 24) : ∃ hs ws, s.storeRun n = { s with holds := hs, writes := ws } ∧
    ∀ m : Fin 24, hs[m.val] = if m = n then (s.hold n).map fun h =>
      if (s.slot n).run % 60 = 0 then { h with storedRun := (s.slot n).run } else h else s.hold m := by
  have kept (same : ((s.hold n).map fun h => if (s.slot n).run % 60 = 0 then { h with storedRun := (s.slot n).run } else h) = s.hold n)
      (m : Fin 24) : s.holds[m.val] = if m = n then (s.hold n).map fun h =>
        if (s.slot n).run % 60 = 0 then { h with storedRun := (s.slot n).run } else h else s.hold m := by
    split
    · next e => rw [same, e]; rfl
    · rfl
  unfold State.storeRun
  cases hn : s.hold n with
  | none => exact ⟨_, _, rfl, by rw [hn] at kept; exact kept rfl⟩
  | some h =>
    dsimp only
    by_cases minute : (s.slot n).run % 60 = 0
    · rw [if_pos minute]
      refine ⟨_, _, rfl, fun m => ?_⟩
      show (s.setHold n _).hold m = _
      rw [State.hold_setHold, Option.map_some, if_pos minute]
      by_cases e : n = m
      · rw [if_pos e, if_pos e.symm]
      · rw [if_neg e, if_neg (Ne.symm e)]
    · rw [if_neg minute]
      exact ⟨_, _, rfl, by rw [hn] at kept; exact kept (by rw [Option.map_some, if_neg minute])⟩

theorem countSecond_counted (h : s.passes n = true) : Counted n s (s.countSecond n) := by
  have ticked : s.ticked n = Slot.counted (s.kind n) (s.slot n) := if_pos h
  have slot : (s.modSlot n (Slot.counted (s.kind n))).slot n = s.ticked n := (State.slot_modSlot_same s n _).trans ticked.symm
  have others (m : Fin 24) (hm : m ≠ n) : (s.modSlot n (Slot.counted (s.kind n))).slot m = s.slot m := State.slot_modSlot_ne s hm.symm _
  unfold State.countSecond
  dsimp only
  rw [slot]
  split
  · next same =>
    refine ⟨slot, others, ?_, fun _ _ => rfl, rfl, rfl, rfl, rfl, rfl, rfl, rfl, rfl, rfl, rfl⟩
    unfold State.tickedHold
    rw [same]
    show s.hold n = _
    cases s.hold n <;> simp
  · next other =>
    obtain ⟨hs, ws, e, at'⟩ := storeRun_eq (s.modSlot n (Slot.counted (s.kind n))) n
    rw [e]
    refine ⟨slot, others, ?_, fun m hm => (at' m).trans (if_neg hm), rfl, rfl, rfl, rfl, rfl, rfl, rfl, rfl, rfl, rfl⟩
    refine (at' n).trans ((if_pos rfl).trans ?_)
    rw [slot]
    unfold State.tickedHold
    simp only [ne_eq, other, not_false_eq_true, true_and]
    rfl

theorem kind_congr (slot : (t.slot n).cfg = (s.slot n).cfg) (settings : t.settings = s.settings) : t.kind n = s.kind n := by
  unfold State.kind State.slotCls State.cls
  rw [slot, settings]

theorem planned_tickedHold (hold : t.hold n = s.tickedHold n) : t.planned n = s.planned n := by
  unfold State.planned
  rw [hold]
  unfold State.tickedHold
  cases s.hold n with
  | none => rfl
  | some h =>
    rw [Option.map_some]
    show (Hold.snap (if _ then _ else h)).planned = h.snap.planned
    split <;> rfl

theorem estimate_eq (s : State) (n : Fin 24) : s.estimate n = s.estimateAt n (s.slot n) := by
  unfold State.estimate State.estimateAt
  cases s.kind n <;> rfl

/-- The estimate of a slot whose counters are those of `y` (R25). -/
theorem estimate_congr {y : Slot} (cfg : (t.slot n).cfg = (s.slot n).cfg) (run : (t.slot n).run = y.run)
    (remaining : (t.slot n).remaining = y.remaining) (topUp : (t.slot n).topUp = y.topUp) (cool : (t.slot n).cool = y.cool)
    (planned : t.planned n = s.planned n) (settings : t.settings = s.settings) : t.estimate n = s.estimateAt n y := by
  rw [estimate_eq]
  unfold State.estimateAt
  rw [kind_congr cfg settings, planned, run, remaining, topUp, cool]

/-- The estimate after the count is the one that the second brings (R25). -/
theorem estimate_ticked {x : Slot} (slot : t.slot n = x) (cfg : x.cfg = (s.slot n).cfg) (run : x.run = (s.ticked n).run)
    (remaining : x.remaining = (s.ticked n).remaining) (topUp : x.topUp = (s.ticked n).topUp) (cool : x.cool = (s.ticked n).cool)
    (hold : t.hold n = s.tickedHold n) (settings : t.settings = s.settings) : t.estimate n = s.estimateAt n (s.ticked n) := by
  subst slot
  exact estimate_congr cfg run remaining topUp cool (planned_tickedHold hold) settings

/-- The notice changes queues and events, by these and the clock alone. -/
theorem earlyNotice_form (s : State) (c : Fin 4) (n : Fin 24) (k : Nat) : ∃ Q E,
    ∀ t : State, t.queues = s.queues → t.events = s.events → t.clock = s.clock →
      t.earlyNotice c n k = { t with queues := Q, events := E } := by
  cases first : (untold (s.queue c)).head? with
  | none =>
    refine ⟨s.queues, s.events, fun t queues events _ => ?_⟩
    have queue : t.queue c = s.queue c := by simp only [State.queue, queues]
    rw [earlyNotice_eq, queue, first, ← queues, ← events]
  | some e =>
    by_cases room : s.events.queue.length < 64
    · refine ⟨(s.setQueue c (tell 1 (s.queue c))).queues, { s.events with
        queue := s.events.queue ++ [⟨s.events.next, .waitlistSoon e.card n k, s.clock⟩],
        next := (s.events.next + 1) % 65536 }, fun t queues events clock => ?_⟩
      have queue : t.queue c = s.queue c := by simp only [State.queue, queues]
      rw [earlyNotice_eq, queue, first]
      dsimp only
      unfold State.post
      rw [if_pos (by show t.events.queue.length < 64; rw [events]; exact room)]
      unfold State.setQueue
      rw [← events, ← clock, ← queues]
    · refine ⟨(s.setQueue c (tell 1 (s.queue c))).queues, { s.events with lost := min 255 (s.events.lost + 1) },
        fun t queues events clock => ?_⟩
      have queue : t.queue c = s.queue c := by simp only [State.queue, queues]
      rw [earlyNotice_eq, queue, first]
      dsimp only
      unfold State.post
      rw [if_neg (by show ¬ t.events.queue.length < 64; rw [events]; exact room)]
      unfold State.setQueue
      rw [← events, ← queues]

/-- Compare point A after the count (R25). -/
theorem pointA_ticked (h : Counted n a s) (passes : a.passes n = true) : Ticked n a (s.pointA n) := by
  obtain ⟨slot, others, hold, holds, queues, events, clock, settings, accounts, settlement, gov, faults, outside, room⟩ := h
  obtain ⟨cfg, warning⟩ := ticked_fields a n
  have cls : s.slotCls n = a.slotCls n := by unfold State.slotCls; rw [slot, cfg]
  have estimate : s.estimate n = a.estimateAt n (a.ticked n) := estimate_ticked slot cfg rfl rfl rfl rfl hold settings
  have nears (c : Fin 4) : (a.passes n && !(a.slot n).warning &&
      decide (a.estimateAt n (a.ticked n) ≤ 60 * (a.cls c).warning)) = true ↔ s.nears n c := by
    have warned : (s.slot n).warning = (a.slot n).warning := by rw [slot, warning]
    have class' : s.cls c = a.cls c := by unfold State.cls; rw [settings]
    unfold State.nears
    rw [passes, estimate, warned, class']
    simp
  have quiet (none : a.reaches n = none) : Ticked n a s := by
    have noticed : a.noticed n = a := by unfold State.noticed; rw [none]
    refine ⟨?_, others, hold, holds, by rw [noticed, queues], by rw [noticed, events], accounts, settlement, gov, faults, outside, room⟩
    rw [slot, none, Option.isSome_none, Bool.or_false, ← warning]
  cases hc : a.slotCls n with
  | none =>
    have still : s.pointA n = s := by unfold State.pointA; rw [cls, hc]
    rw [still]
    exact quiet (by unfold State.reaches; rw [hc]; rfl)
  | some c =>
    by_cases fires : s.nears n c
    · have nears : a.reaches n = some c := by
        unfold State.reaches
        rw [hc, Option.filter_some, if_pos ((nears c).2 fires)]
      obtain ⟨Q, E, form⟩ := earlyNotice_form a c n (a.minutesThen n)
      have minutes : s.minutesLeft n = a.minutesThen n := by unfold State.minutesLeft State.minutesThen; rw [estimate]
      have noticed : a.noticed n = { a with queues := Q, events := E } := by
        unfold State.noticed
        rw [nears]
        exact form a rfl rfl rfl
      rw [pointA_fires (cls.trans hc) fires, minutes, form (s.modSlot n fun x => { x with warning := true }) queues events clock]
      have own : (s.modSlot n fun x => { x with warning := true }).slot n = { s.slot n with warning := true } :=
        State.slot_modSlot_same s n _
      have ne (m : Fin 24) (hm : m ≠ n) : (s.modSlot n fun x => { x with warning := true }).slot m = s.slot m :=
        State.slot_modSlot_ne s hm.symm _
      refine ⟨?_, fun m hm => ?_, hold, holds, by rw [noticed], by rw [noticed], accounts, settlement, gov, faults, outside, room⟩
      · rw [nears, Option.isSome_some, Bool.or_true, ← slot]
        exact own
      · rw [← others m hm]
        exact ne m hm
    · have nears : a.reaches n = none := by
        unfold State.reaches
        rw [hc, Option.filter_some, if_neg (mt (nears c).1 fires)]
      rw [pointA_still (cls.trans hc) fires]
      exact quiet nears

theorem slotSecond_ticked (s : State) (n : Fin 24) : Ticked n s (s.slotSecond n) := by
  cases h : s.passes n with
  | false => exact slotSecond_still h
  | true =>
  have shown : ∃ ts, s.slotSecond n = { (s.countSecond n).pointA n with terminals := ts } := by
    rw [slotSecond_passes h]
    split
    · exact ⟨_, rfl⟩
    · exact showLasting_eq _ n _
  obtain ⟨ts, e⟩ := shown
  have acts := (Acts.refl s).slotSecond n
  obtain ⟨slot, others, hold, holds, queues, events, accounts, settlement, gov, faults, -, room⟩ :=
    pointA_ticked (countSecond_counted h) h
  have outside := acts.outside
  rw [e] at outside ⊢
  exact ⟨slot, others, hold, holds, queues, events, accounts, settlement, gov, faults, outside, room⟩

end

end Sys2Proof.Machine

namespace Sys2Proof.Machine

section
variable {a s t : State} {n : Fin 24}

/-! ### The second over all slots (R15; log 45) -/

/-- What a second at other slots leaves of slot `n`. -/
structure Waiting (n : Fin 24) (a s : State) : Prop where
  slot : s.slot n = a.slot n
  hold : s.hold n = a.hold n
  settings : s.settings = a.settings

theorem Waiting.refl (n : Fin 24) (a : State) : Waiting n a a := ⟨rfl, rfl, rfl⟩

theorem Waiting.trans {b c : State} (h : Waiting n a b) (k : Waiting n b c) : Waiting n a c :=
  ⟨k.slot.trans h.slot, k.hold.trans h.hold, k.settings.trans h.settings⟩

theorem slotSecond_waiting {m : Fin 24} (hm : m ≠ n) : Waiting n s (s.slotSecond m) := by
  have ticked := slotSecond_ticked s m
  exact ⟨ticked.others n hm.symm, ticked.holds n hm.symm, outside_settings ticked.outside⟩

namespace Waiting

theorem planned (h : Waiting n a s) : s.planned n = a.planned n := by unfold State.planned; rw [h.hold]

theorem kind (h : Waiting n a s) : s.kind n = a.kind n := kind_congr (by rw [h.slot]) h.settings

theorem passes (h : Waiting n a s) : s.passes n = a.passes n := by
  unfold State.passes State.endDue
  rw [h.slot, h.kind, h.planned]

theorem ticked (h : Waiting n a s) : s.ticked n = a.ticked n := by
  unfold State.ticked
  rw [h.passes, h.slot, h.kind]

theorem tickedHold (h : Waiting n a s) : s.tickedHold n = a.tickedHold n := by
  unfold State.tickedHold
  rw [h.ticked, h.slot, h.hold]

theorem estimateAt (h : Waiting n a s) (x : Slot) : s.estimateAt n x = a.estimateAt n x := by
  unfold State.estimateAt
  rw [h.kind, h.planned]

theorem minutesThen (h : Waiting n a s) : s.minutesThen n = a.minutesThen n := by
  unfold State.minutesThen
  rw [h.ticked, h.estimateAt]

theorem reaches (h : Waiting n a s) : s.reaches n = a.reaches n := by
  unfold State.reaches
  have cls : s.slotCls n = a.slotCls n := by unfold State.slotCls; rw [h.slot]
  have class' (c : Fin 4) : s.cls c = a.cls c := by unfold State.cls; rw [h.settings]
  simp only [cls, h.passes, h.slot, h.ticked, h.estimateAt, class']

end Waiting

/-- The slots' part of a second. -/
def State.slotsSecond (s : State) : State := overSlots (fun n s => s.slotSecond n) s

theorem slotsSecond_slot (s : State) (n : Fin 24) :
    s.slotsSecond.slot n = { s.ticked n with warning := (s.slot n).warning || (s.reaches n).isSome } ∧
      s.slotsSecond.hold n = s.tickedHold n := by
  obtain ⟨u, before, after⟩ := overSlots_at (Waiting.refl n) Waiting.trans (f := fun n s => s.slotSecond n) n
    (fun m s hm => slotSecond_waiting hm) s
  have own := slotSecond_ticked u n
  refine ⟨after.slot.trans ?_, after.hold.trans ?_⟩
  · rw [own.slot, before.ticked, before.slot, before.reaches]
  · rw [own.hold, before.tickedHold]

/-- What a second at the slots leaves alone. -/
structure BesideSeconds (a s : State) : Prop where
  accounts : s.accounts = a.accounts
  settlement : s.settlement = a.settlement
  gov : s.gov = a.gov
  faults : s.faults = a.faults
  outside : s.outside = a.outside
  room : s.room = a.room

theorem seconds_leave (l : List (Fin 24)) (s : State) : BesideSeconds s (l.foldl (fun s n => s.slotSecond n) s) := by
  induction l generalizing s with
  | nil => exact ⟨rfl, rfl, rfl, rfl, rfl, rfl⟩
  | cons m l ih =>
    have own := slotSecond_ticked s m
    obtain ⟨accounts, settlement, gov, faults, outside, room⟩ := ih (s.slotSecond m)
    exact ⟨accounts.trans own.accounts, settlement.trans own.settlement, gov.trans own.gov, faults.trans own.faults,
      outside.trans own.outside, room.trans own.room⟩

/-! ### The notices of a second (R165; log 45) -/

/-- A class queue after a notice. -/
theorem noticed_queue (s : State) (m : Fin 24) (c : Fin 4) :
    (s.noticed m).queue c = if s.reaches m = some c then tell 1 (s.queue c) else s.queue c := by
  unfold State.noticed
  cases reaches : s.reaches m with
  | none => rw [if_neg nofun]
  | some d =>
    dsimp only
    rw [earlyNotice_eq]
    cases first : (untold (s.queue d)).head? with
    | none =>
      dsimp only
      split
      · next e =>
        obtain rfl : d = c := Option.some.inj e
        exact (tell_of_untold (List.head?_eq_none_iff.1 first) 1).symm
      · rfl
    | some e =>
      dsimp only
      have same (u : State) (b : EventBody) : (u.post b).queue c = u.queue c := by simp [State.queue]
      rw [same, State.queue_setQueue]
      by_cases e : d = c
      · subst e; rw [if_pos rfl, if_pos rfl]
      · rw [if_neg e, if_neg fun k => e (Option.some.inj k)]

theorem seconds_queue {l : List (Fin 24)} (nodup : l.Nodup) (s : State) (c : Fin 4) :
    (l.foldl (fun s n => s.slotSecond n) s).queue c = tell (l.countP fun n => s.reaches n == some c) (s.queue c) := by
  induction l generalizing s with
  | nil => exact (tell_zero _).symm
  | cons m l ih =>
    obtain ⟨fresh, nodup⟩ := List.nodup_cons.1 nodup
    have own : (s.slotSecond m).queue c = (s.noticed m).queue c := by simp only [State.queue, (slotSecond_ticked s m).queues]
    have same : (l.countP fun n => (s.slotSecond m).reaches n == some c) = l.countP fun n => s.reaches n == some c :=
      List.countP_congr fun n hn => by
        have other : m ≠ n := by rintro rfl; exact fresh hn
        rw [(slotSecond_waiting other).reaches]
    rw [List.foldl_cons, ih nodup, own, noticed_queue, same]
    by_cases e : s.reaches m = some c
    · rw [if_pos e, tell_tell, List.countP_cons_of_pos (by simp [e])]
    · rw [if_neg e, List.countP_cons_of_neg (by simp [e])]

/-- The event of a notice (R165). -/
def State.noticeEvent (s : State) (n : Fin 24) (k : Nat) : Option EventBody :=
  (s.reaches n).bind fun c => ((untold (s.queue c))[k]?).map fun e => .waitlistSoon e.card n (s.minutesThen n)

theorem noticed_events (room : s.events.queue.length < 64) (m : Fin 24) :
    (s.noticed m).events.queue.map (fun e => e.body) = s.events.queue.map (fun e => e.body) ++ (s.noticeEvent m 0).toList := by
  unfold State.noticed State.noticeEvent
  cases s.reaches m with
  | none => simp
  | some c =>
    dsimp only
    rw [earlyNotice_eq, Option.bind_some, ← List.head?_eq_getElem?]
    cases first : (untold (s.queue c)).head? with
    | none => simp
    | some e =>
      have posted : ((s.setQueue c (tell 1 (s.queue c))).post (.waitlistSoon e.card m (s.minutesThen m))).events.queue =
          s.events.queue ++ [⟨s.events.next, .waitlistSoon e.card m (s.minutesThen m), s.clock⟩] := by
        simp [State.post, room]
      dsimp only
      rw [posted]
      simp

/-- The slots of a list that take the notice of a class ahead of slot `n`. -/
def State.ahead (s : State) (l : List (Fin 24)) (n : Fin 24) : Nat :=
  l.countP fun m => decide (m < n) && (s.reaches m == s.reaches n)

theorem seconds_events {l : List (Fin 24)} (sorted : l.Pairwise (· < ·)) (s : State)
    (room : s.events.queue.length + l.length ≤ 64) :
    (l.foldl (fun s n => s.slotSecond n) s).events.queue.map (fun e => e.body) =
      s.events.queue.map (fun e => e.body) ++ l.filterMap fun n => s.noticeEvent n (s.ahead l n) := by
  induction l generalizing s with
  | nil => simp
  | cons m l ih =>
    obtain ⟨below, sorted⟩ := List.pairwise_cons.1 sorted
    have room' : s.events.queue.length < 64 := by simp at room; omega
    have own := slotSecond_ticked s m
    have fresh : m ∉ l := fun k => lt_irrefl m (below m k)
    have events : (s.slotSecond m).events.queue.map (fun e => e.body) =
        s.events.queue.map (fun e => e.body) ++ (s.noticeEvent m 0).toList := by
      rw [own.events]
      exact noticed_events room' m
    have short : (s.slotSecond m).events.queue.length ≤ s.events.queue.length + 1 := by
      have k := congrArg List.length events
      simp only [List.length_map, List.length_append] at k
      have : (s.noticeEvent m 0).toList.length ≤ 1 := by cases s.noticeEvent m 0 <;> simp
      omega
    have first : s.ahead (m :: l) m = 0 := by
      unfold State.ahead
      rw [List.countP_eq_zero]
      intro x hx
      rcases List.mem_cons.1 hx with rfl | hx
      · simp
      · simp [not_lt.2 (le_of_lt (below x hx))]
    have later (n : Fin 24) (hn : n ∈ l) : (s.slotSecond m).noticeEvent n ((s.slotSecond m).ahead l n) =
        s.noticeEvent n (s.ahead (m :: l) n) := by
      have other : m ≠ n := by rintro rfl; exact fresh hn
      have waiting := slotSecond_waiting (s := s) other
      have others : (s.slotSecond m).ahead l n = s.ahead l n := by
        unfold State.ahead
        refine List.countP_congr fun x hx => ?_
        have apart : m ≠ x := by rintro rfl; exact fresh hx
        rw [waiting.reaches, (slotSecond_waiting apart).reaches]
      unfold State.noticeEvent
      rw [waiting.reaches, waiting.minutesThen, others]
      cases at' : s.reaches n with
      | none => rfl
      | some c =>
        have queue : (s.slotSecond m).queue c = (s.noticed m).queue c := by simp only [State.queue, own.queues]
        rw [Option.bind_some, Option.bind_some, queue, noticed_queue]
        have unfolded : s.ahead (m :: l) n = s.ahead l n + if s.reaches m = some c then 1 else 0 := by
          unfold State.ahead
          rw [List.countP_cons, at']
          simp [below n hn]
        rw [unfolded]
        by_cases e : s.reaches m = some c
        · rw [if_pos e, if_pos e, untold_tell, List.getElem?_tail]
        · rw [if_neg e, if_neg e, Nat.add_zero]
    rw [List.foldl_cons, ih sorted _ (by simp at room; omega), events, List.append_assoc]
    congr 1
    rw [List.filterMap_congr later]
    cases e : s.noticeEvent m 0 with
    | none => rw [List.filterMap_cons_none (by rw [first, e])]; rfl
    | some b => rw [List.filterMap_cons_some (by rw [first, e])]; rfl

end

end Sys2Proof.Machine

namespace Sys2Proof.Machine

section
variable {a s t : State} {n : Fin 24} {c : Fin 4}

/-! ### The lifetimes and the windows of a second (R161, R163) -/

/-- An entry that a second of an OPEN room has aged (R161). -/
def WaitEntry.aged (d : Nat) (e : WaitEntry) : WaitEntry := { e with lifetime := e.lifetime - d }

/-- A slot whose reservation's window a second of an OPEN room has lowered (R163). -/
def Slot.aged (d : Nat) (x : Slot) : Slot :=
  { x with reservation := x.reservation.map fun r => { r with window := r.window - d } }

theorem aged_zero (x : Slot) : x.aged 0 = x := by
  unfold Slot.aged
  simp

theorem ageQueues_form (l : List (Fin 4)) (s : State) :
    ∃ Q, l.foldl (fun s c => s.setQueue c ((s.queue c).map (WaitEntry.aged 1))) s = { s with queues := Q } := by
  induction l generalizing s with
  | nil => exact ⟨_, rfl⟩
  | cons c l ih =>
    obtain ⟨Q, e⟩ := ih (s.setQueue c ((s.queue c).map (WaitEntry.aged 1)))
    exact ⟨Q, e⟩

theorem ageQueues_queue {l : List (Fin 4)} (nodup : l.Nodup) (s : State) (c : Fin 4) :
    (l.foldl (fun s c => s.setQueue c ((s.queue c).map (WaitEntry.aged 1))) s).queue c =
      if c ∈ l then (s.queue c).map (WaitEntry.aged 1) else s.queue c := by
  induction l generalizing s with
  | nil => exact (if_neg List.not_mem_nil).symm
  | cons d l ih =>
    obtain ⟨fresh, nodup⟩ := List.nodup_cons.1 nodup
    rw [List.foldl_cons, ih nodup, State.queue_setQueue]
    by_cases e : d = c
    · subst e
      rw [if_neg fresh, if_pos rfl, if_pos (List.mem_cons_self ..)]
    · rw [if_neg e]
      simp [Ne.symm e]

theorem ageSlots_form (l : List (Fin 24)) (s : State) :
    ∃ X, l.foldl (fun s n => s.modSlot n (Slot.aged 1)) s = { s with slots := X } := by
  induction l generalizing s with
  | nil => exact ⟨_, rfl⟩
  | cons m l ih =>
    obtain ⟨X, e⟩ := ih (s.modSlot m (Slot.aged 1))
    exact ⟨X, e⟩

/-- What a second does to the waiting, with `d` a second of an OPEN room. -/
structure Waited (d : Nat) (s t : State) : Prop where
  slot (n : Fin 24) : t.slot n = (s.slot n).aged d
  queue (c : Fin 4) : t.queue c = (s.queue c).map (WaitEntry.aged d)
  rest : ∃ X Q, t = { s with slots := X, queues := Q }

theorem waitSecond_waited (s : State) : Waited 1 s s.waitSecond := by
  have whole : s.waitSecond = overSlots (fun n s => s.modSlot n (Slot.aged 1))
      (allClasses.foldl (fun s c => s.setQueue c ((s.queue c).map (WaitEntry.aged 1))) s) := rfl
  have queue := ageQueues_queue (List.nodup_finRange 4) s
  obtain ⟨Q, classes⟩ := ageQueues_form allClasses s
  unfold allClasses at whole classes
  rw [classes] at whole queue
  obtain ⟨X, slots⟩ := ageSlots_form allSlots { s with queues := Q }
  have rest : s.waitSecond = { s with slots := X, queues := Q } := whole.trans slots
  refine ⟨fun n => ?_, fun c => ?_, X, Q, rest⟩
  · rw [whole]
    obtain ⟨v, before, after⟩ := overSlots_at (R := fun s t => t.slot n = s.slot n) (fun _ => rfl) (fun h k => k.trans h) n
      (f := fun n s => s.modSlot n (Slot.aged 1)) (fun m s hm => State.slot_modSlot_ne s hm _) { s with queues := Q }
    exact after.trans ((State.slot_modSlot_same v n _).trans (congrArg (Slot.aged 1) before))
  · rw [rest, ← if_pos (c := c ∈ List.finRange 4) (List.mem_finRange c) (t := (s.queue c).map (WaitEntry.aged 1)), ← queue c]
    rfl

theorem waited_zero (s : State) : Waited 0 s s :=
  ⟨fun _ => (aged_zero _).symm, fun _ => (List.map_id'' (fun _ => rfl) _).symm, s.slots, s.queues, rfl⟩

/-! ### The whole second -/

/-- A second is counted at a slot (R15, R20). -/
def State.counts (s : State) (n : Fin 24) : Bool :=
  s.passes n && decide (s.kind n = .washer ∨ (s.slot n).phase = .dry ∨ (s.slot n).phase = .cool)

theorem counts_iff : s.counts n = true ↔ (s.slot n).state = .running ∧ s.endDue n = false ∧
    (s.kind n = .washer ∨ (s.slot n).phase = .dry ∨ (s.slot n).phase = .cool) := by
  unfold State.counts State.passes
  simp only [Bool.and_eq_true, decide_eq_true_eq, Bool.not_eq_eq_eq_not, Bool.not_true, and_assoc]

theorem ticked_eq (s : State) (n : Fin 24) : s.ticked n = { s.slot n with
    run := (s.slot n).run + (if s.counts n ∧ (s.kind n = .washer ∨ (s.slot n).phase = .dry) then 1 else 0),
    remaining := (s.slot n).remaining - (if s.counts n ∧ s.kind n = .dryer ∧ (s.slot n).phase = .dry then 1 else 0),
    cool := (s.slot n).cool - (if s.counts n ∧ s.kind n = .dryer ∧ (s.slot n).phase = .cool then 1 else 0) } := by
  unfold State.ticked State.counts Slot.counted
  cases s.passes n with
  | false => simp
  | true =>
    generalize s.slot n = x
    obtain ⟨_, _, _, _, phase, _⟩ := x
    cases s.kind n with
    | washer => simp
    | dryer => cases phase <;> simp

theorem reaches_some : s.reaches n = some c ↔ s.slotCls n = some c ∧ s.passes n = true ∧ (s.slot n).warning = false ∧
    s.estimateAt n (s.ticked n) ≤ 60 * (s.cls c).warning := by
  unfold State.reaches
  rw [Option.filter_eq_some_iff]
  simp only [Bool.and_eq_true, decide_eq_true_eq, Bool.not_eq_eq_eq_not, Bool.not_true, and_assoc]

/-- Where compare point A fires the class is the slot's. -/
theorem reaches_eq : s.reaches n = if (s.reaches n).isSome then s.slotCls n else none := by
  cases e : s.reaches n with
  | none => rfl
  | some c => exact (reaches_some.1 e).1.symm

/-- What a second does. -/
structure Seconded (s t : State) : Prop where
  slot : ∀ n, t.slot n = { (s.ticked n).aged (if s.room.state = .openRoom then 1 else 0) with
    warning := (s.slot n).warning || (s.reaches n).isSome }
  hold : ∀ n, t.hold n = s.tickedHold n
  queue : ∀ c, t.queue c = (tell (allSlots.countP fun n => s.reaches n == some c) (s.queue c)).map
    (WaitEntry.aged (if s.room.state = .openRoom then 1 else 0))
  events : s.events.queue.length ≤ 40 → t.events.queue.map (fun e => e.body) =
    s.events.queue.map (fun e => e.body) ++ allSlots.filterMap fun n => s.noticeEvent n (s.ahead allSlots n)
  accounts : t.accounts = s.accounts
  settlement : t.settlement = s.settlement
  gov : t.gov = s.gov
  faults : t.faults = s.faults
  outside : t.outside = s.outside

/-- The part of a second after its count in the elapsed seconds. -/
def State.aSecond (s : State) : State :=
  if s.slotsSecond.room.state = .openRoom then s.slotsSecond.waitSecond else s.slotsSecond

theorem aSecond_seconded (s : State) : Seconded s s.aSecond := by
  have inTurn : s.slotsSecond = allSlots.foldl (fun s n => s.slotSecond n) s := rfl
  have leave : BesideSeconds s s.slotsSecond := by
    rw [inTurn]
    exact seconds_leave allSlots s
  obtain ⟨accounts, settlement, gov, faults, outside, room⟩ := leave
  have slots := slotsSecond_slot s
  have nodup : allSlots.Nodup := List.nodup_finRange 24
  have sorted : allSlots.Pairwise (· < ·) := List.pairwise_lt_finRange 24
  have length : allSlots.length = 24 := List.length_finRange
  have queues (c : Fin 4) : s.slotsSecond.queue c = tell (allSlots.countP fun n => s.reaches n == some c) (s.queue c) := by
    rw [inTurn]
    exact seconds_queue nodup s c
  have events (few : s.events.queue.length ≤ 40) : s.slotsSecond.events.queue.map (fun e => e.body) =
      s.events.queue.map (fun e => e.body) ++ allSlots.filterMap fun n => s.noticeEvent n (s.ahead allSlots n) := by
    have fits : s.events.queue.length + allSlots.length ≤ 64 := by rw [length]; omega
    rw [inTurn]
    exact seconds_events sorted s fits
  have waited : Waited (if s.room.state = .openRoom then 1 else 0) s.slotsSecond s.aSecond := by
    unfold State.aSecond
    rw [room]
    split
    · exact waitSecond_waited _
    · exact waited_zero _
  obtain ⟨slot, queue, X, Q, rest⟩ := waited
  generalize s.slotsSecond = u at *
  refine ⟨fun n => ?_, fun n => ?_, fun c => ?_, fun few => ?_, ?_, ?_, ?_, ?_, ?_⟩
  · rw [slot n, (slots n).1]; rfl
  · rw [rest]; exact (slots n).2
  · rw [queue c]; exact congrArg _ (queues c)
  · rw [rest]; exact events few
  · rw [rest]; exact accounts
  · rw [rest]; exact settlement
  · rw [rest]; exact gov
  · rw [rest]; exact faults
  · rw [rest]; exact outside

section
variable (h : Seconded s t)
include h

theorem Seconded.settings : t.settings = s.settings := outside_settings h.outside

theorem Seconded.estimate (n : Fin 24) : t.estimate n = s.estimateAt n (s.ticked n) :=
  estimate_ticked (h.slot n) (ticked_fields s n).1 rfl rfl rfl rfl (h.hold n) h.settings

/-- The slots that a second warns are those where compare point A fires (R25). -/
theorem Seconded.warned (n : Fin 24) : ((t.slot n).warning && !(s.slot n).warning) = (s.reaches n).isSome := by
  rw [h.slot n]
  dsimp only
  cases e : s.reaches n with
  | none => simp
  | some c => simp [(reaches_some.1 e).2.2.1]

/-- The class queues' notices are one for each warned slot of the class (R165). -/
theorem Seconded.notices (c : Fin 4) :
    (allSlots.filter fun n => (t.slot n).warning && !(s.slot n).warning).countP (fun n => s.slotCls n == some c) =
      allSlots.countP fun n => s.reaches n == some c := by
  rw [List.countP_filter]
  refine List.countP_congr fun n _ => ?_
  rw [h.warned n, reaches_eq (s := s) (n := n)]
  cases s.reaches n with
  | none => simp
  | some d => simp +contextual

/-- The events of a second, by the warned slots (R165; log 45). -/
theorem Seconded.told (few : s.events.queue.length ≤ 40) :
    let warned := allSlots.filter fun n => (t.slot n).warning && !(s.slot n).warning
    t.events.queue.map (fun e => e.body) =
      s.events.queue.map (fun e => e.body) ++ warned.filterMap fun n => (s.slotCls n).bind fun c =>
        (((s.queue c).filter fun e => !e.notified)[warned.countP fun m => decide (m < n) && s.slotCls m == some c]?).map
          fun e => .waitlistSoon e.card n (((t.estimate n).toNat + 59) / 60) := by
  dsimp only
  rw [h.events few, List.filterMap_filter]
  congr 1
  refine List.filterMap_congr fun n _ => ?_
  rw [h.warned n]
  unfold State.noticeEvent
  cases e : s.reaches n with
  | none => rfl
  | some c =>
    have cls := (reaches_some.1 e).1
    have count : s.ahead allSlots n = (allSlots.filter fun n => (t.slot n).warning && !(s.slot n).warning).countP
        fun m => decide (m < n) && s.slotCls m == some c := by
      rw [List.countP_filter]
      unfold State.ahead
      refine List.countP_congr fun m _ => ?_
      rw [h.warned m, e, reaches_eq (s := s) (n := m)]
      cases s.reaches m with
      | none => simp
      | some d => simp +contextual
    rw [Option.isSome_some, if_pos rfl, cls, Option.bind_some, Option.bind_some, count, h.estimate n]
    rfl

end

section
variable (h : Seconded s t)
include h

/-- The warning flag after a second that was counted (R25). -/
theorem Seconded.warns (n : Fin 24) (counted : s.kind n = .washer ∨ (s.slot n).phase = .dry ∨ (s.slot n).phase = .cool) :
    ((s.slot n).warning || (s.reaches n).isSome) = true ↔ (s.slot n).warning = true ∨
      s.counts n = true ∧ ∃ c, s.slotCls n = some c ∧ t.estimate n ≤ 60 * (s.cls c).warning := by
  have passes : s.counts n = s.passes n := by unfold State.counts; simp [counted]
  rw [Bool.or_eq_true, Option.isSome_iff_exists, h.estimate n, passes]
  constructor
  · rintro (warned | ⟨c, fires⟩)
    · exact .inl warned
    · obtain ⟨cls, passes, -, near⟩ := reaches_some.1 fires
      exact .inr ⟨passes, c, cls, near⟩
  · rintro (warned | ⟨passes, c, cls, near⟩)
    · exact .inl warned
    · cases warned : (s.slot n).warning with
      | true => exact .inl rfl
      | false => exact .inr ⟨c, reaches_some.2 ⟨cls, passes, warned, near⟩⟩

theorem Seconded.stored (n : Fin 24) : t.hold n = (s.hold n).map fun h =>
    if (t.slot n).run ≠ (s.slot n).run ∧ (t.slot n).run % 60 = 0 then { h with storedRun := (t.slot n).run } else h := by
  rw [h.hold n, h.slot n]
  rfl

theorem Seconded.entries (c : Fin 4) : (t.queue c).map (fun e => (e.card, e.account, e.joined, e.lifetime)) =
    (s.queue c).map fun e => (e.card, e.account, e.joined, e.lifetime - if s.room.state = .openRoom then 1 else 0) := by
  have lower (q : List WaitEntry) (d : Nat) : q.map (fun e => (e.card, e.account, e.joined, e.lifetime - d)) =
      (q.map fun e => (e.card, e.account, e.joined, e.lifetime)).map fun x => (x.1, x.2.1, x.2.2.1, x.2.2.2 - d) := by
    rw [List.map_map]; rfl
  rw [h.queue c, List.map_map, lower, ← tell_entries (allSlots.countP fun n => s.reaches n == some c) (s.queue c), ← lower]
  rfl

theorem Seconded.flags (c : Fin 4) {k : Nat} {e : WaitEntry} (at' : (s.queue c)[k]? = some e) :
    (t.queue c)[k]?.map (fun x => x.notified) = some (e.notified ||
      decide (((s.queue c).take k).countP (fun x => !x.notified) <
        (allSlots.filter fun n => (t.slot n).warning && !(s.slot n).warning).countP fun n => s.slotCls n == some c)) := by
  have aged (q : List WaitEntry) (d : Nat) :
      (q.map (WaitEntry.aged d))[k]?.map (fun x => x.notified) = q[k]?.map fun x => x.notified := by
    rw [List.getElem?_map, Option.map_map]; rfl
  rw [h.notices c, h.queue c, aged, tell_notified, at']
  rfl

end

/-- Settles O17, by a second at each slot in turn, then the lifetimes and windows of an OPEN room. -/
theorem secondIsCounted : Obligations.SecondIsCounted := by
  unfold Obligations.SecondIsCounted
  refine ⟨fun s n c cls => pointA_does cls, fun s running => ?_⟩
  have does := aSecond_seconded { s with elapsed := s.elapsed + 1 }
  have step : exec .runSecond s = .next (State.aSecond { s with elapsed := s.elapsed + 1 }) := by
    show execRunSecond s = _
    unfold execRunSecond State.aSecond State.slotsSecond
    rw [ifRunning_of running]
  generalize State.aSecond _ = t at does step
  refine ⟨t, step, outside_elapsed does.outside, fun n => ?_, does.entries, ?_, does.accounts, does.settlement, does.gov,
    does.faults, does.outside⟩
  · refine ⟨_, s.counts n, counts_iff, does.warns n, ?_, does.stored n⟩
    rw [does.slot n, ticked_eq]
    rfl
  · rintro _ rfl
    exact ⟨fun c k e at' => does.flags c at', does.told⟩

end

end Sys2Proof.Machine

namespace Sys2Proof.Machine

/-! ## A good reply (R41, R42) -/

section
variable {s u : State} {t : Fin 16} {n : Fin 24}

/-! ### What a reply leaves alone -/

theorem terminal_outside (s : State) (t : Fin 16) : s.outside.terminal t = (s.terminal t).bare := by
  unfold State.outside State.terminal
  simp

theorem modTerminal_outside (s : State) (t : Fin 16) (f : Terminal → Terminal) :
    (s.modTerminal t f).outside = s.outside.setTerminal t (f (s.terminal t)).bare := by
  unfold State.modTerminal State.setTerminal State.outside
  simp only [Vector.map_set]

/-- A change of a terminal that does not read its displays, at states equal outside the blocks. -/
theorem modTerminal_outside_congr (h : u.outside = s.outside) {f : Terminal → Terminal} (hf : ∀ x, (f x).bare = f x.bare) :
    (u.modTerminal t f).outside = (s.modTerminal t f).outside := by
  have bare : (u.terminal t).bare = (s.terminal t).bare := by rw [← terminal_outside, ← terminal_outside, h]
  rw [modTerminal_outside, modTerminal_outside, h, hf, hf, bare]

theorem modTerminal_modTerminal (s : State) (t : Fin 16) (f g : Terminal → Terminal) :
    (s.modTerminal t f).modTerminal t g = s.modTerminal t fun x => g (f x) := by
  unfold State.modTerminal State.setTerminal State.terminal
  simp

/-- A terminal heard (R41). -/
def Terminal.heard (x : Terminal) : Terminal := { x with presence := .present, misses := 0 }

/-- A terminal whose halves have reported (R41). -/
def Terminal.reported (r : TerminalReply) (x : Terminal) : Terminal :=
  { x with halfA := { x.halfA with report := some r.a.view }, halfB := { x.halfB with report := some r.b.view } }

/-- A terminal whose latched events are taken under a reply's tag (R42). -/
def Terminal.tagged (r : TerminalReply) (x : Terminal) : Terminal := { x with tag := r.tag, tagValid := true }

theorem hearTerminal_outside (s : State) (t : Fin 16) :
    (s.hearTerminal t).outside = (s.modTerminal t Terminal.heard).outside := by
  unfold State.hearTerminal
  dsimp only
  split
  · rfl
  · split
    · exact (((Acts.refl (s.modTerminal t Terminal.heard)).post _).regainSlots t).outside
    · exact ((Acts.refl (s.modTerminal t Terminal.heard)).post _).outside

theorem takeReports_outside (s : State) (t : Fin 16) (r : TerminalReply) :
    (s.takeReports t r).outside = (s.modTerminal t (Terminal.reported r)).outside := by
  unfold State.takeReports
  exact (((Acts.refl (s.modTerminal t (Terminal.reported r))).handReport _ _ _ _).handReport _ _ _ _).outside

/-- The events of a reply are taken (R42): some are flagged, and not under the tag taken last. -/
def Terminal.takes (x : Terminal) (r : TerminalReply) : Prop :=
  (r.a.flagged || r.b.flagged) = true ∧ ¬ (x.tagValid = true ∧ x.tag = r.tag)

theorem takeTagged_takes {r : TerminalReply} (h : (s.terminal t).takes r) : s.takeTagged t r =
    ((s.modTerminal t (Terminal.tagged r)).handEvents t .a r.a).handEvents t .b r.b := by
  obtain ⟨flagged, fresh⟩ := h
  unfold State.takeTagged
  dsimp only
  rw [flagged]
  exact if_neg fresh

theorem takeTagged_still {r : TerminalReply} (h : ¬ (s.terminal t).takes r) : s.takeTagged t r = s := by
  unfold Terminal.takes at h
  unfold State.takeTagged
  dsimp only
  cases flagged : r.a.flagged || r.b.flagged with
  | false => rfl
  | true => exact if_pos (by_contra fun k => h ⟨flagged, k⟩)

/-- A terminal after a good reply (R41, R42). -/
def Terminal.answered (r : TerminalReply) (x : Terminal) : Terminal :=
  { x with
    presence := .present, misses := 0, halfA := { x.halfA with report := some r.a.view },
    halfB := { x.halfB with report := some r.b.view }, tag := if (r.a.flagged || r.b.flagged) = true then r.tag else x.tag,
    tagValid := x.tagValid || r.a.flagged || r.b.flagged }

theorem answered_takes {x : Terminal} {r : TerminalReply} (h : x.takes r) :
    x.answered r = ((x.heard).reported r).tagged r := by
  unfold Terminal.answered
  rw [if_pos h.1, Bool.or_assoc, h.1, Bool.or_true]
  rfl

theorem answered_still {x : Terminal} {r : TerminalReply} (h : ¬ x.takes r) : x.answered r = (x.heard).reported r := by
  unfold Terminal.takes at h
  unfold Terminal.answered
  rw [Bool.or_assoc]
  cases flagged : r.a.flagged || r.b.flagged with
  | false => rw [Bool.or_false]; rfl
  | true =>
    obtain ⟨valid, tag⟩ : x.tagValid = true ∧ x.tag = r.tag := by_contra fun k => h ⟨flagged, k⟩
    rw [Bool.or_true, if_pos rfl, ← tag, ← valid]
    rfl

theorem goodReply_outside (s : State) (t : Fin 16) (r : TerminalReply) :
    (s.goodReply t r).outside = (s.modTerminal t (Terminal.answered r)).outside := by
  have reports : ((s.hearTerminal t).takeReports t r).outside =
      (s.modTerminal t fun x => (x.heard).reported r).outside := by
    have both := modTerminal_modTerminal s t Terminal.heard (Terminal.reported r)
    rw [takeReports_outside, ← both]
    exact modTerminal_outside_congr (f := Terminal.reported r) (hearTerminal_outside s t) fun _ => rfl
  have takes : (((s.hearTerminal t).takeReports t r).terminal t).takes r ↔ (s.terminal t).takes r := by
    have bare := congrArg (fun v => v.terminal t) reports
    simp only [terminal_outside, State.terminal_modTerminal, if_pos] at bare
    have tag := congrArg Terminal.tag bare
    have valid := congrArg Terminal.tagValid bare
    unfold Terminal.takes
    rw [show (((s.hearTerminal t).takeReports t r).terminal t).tag = (s.terminal t).tag from tag,
      show (((s.hearTerminal t).takeReports t r).terminal t).tagValid = (s.terminal t).tagValid from valid]
  unfold State.goodReply
  by_cases h : (s.terminal t).takes r
  · have after : s.modTerminal t (Terminal.answered r) = (s.modTerminal t fun x => (x.heard).reported r).modTerminal t
        (Terminal.tagged r) := by
      rw [modTerminal_modTerminal]
      unfold State.modTerminal
      rw [answered_takes h]
    rw [takeTagged_takes (takes.2 h), after]
    exact (((Acts.refl _).handEvents t .a r.a).handEvents t .b r.b).outside.trans (modTerminal_outside_congr reports fun _ => rfl)
  · have after : s.modTerminal t (Terminal.answered r) = s.modTerminal t fun x => (x.heard).reported r := by
      unfold State.modTerminal
      rw [answered_still h]
    rw [takeTagged_still (mt takes.1 h), after]
    exact reports

/-! ### The stages of a reply (R41, R42) -/

theorem terminalReply_heard {k : PollKind} {chars : List RxChar} {r : TerminalReply} (running : s.life = .running)
    (turn : s.bus.turn = .exchange t k) (good : goodReply t chars = some r) :
    ∃ u, exec (.terminalReply chars) s = .next u ∧ u = (((s.hearTerminal t).takeReports t r).takeTagged t r).endExchange ∧
      u.outside = State.outside { s.modTerminal t (Terminal.answered r) with bus := { s.bus with turn := .window } } := by
  refine ⟨(s.goodReply t r).endExchange, ?_, rfl, ?_⟩
  · show execTerminalReply chars s = _
    unfold execTerminalReply
    rw [ifRunning_of running, turn]
    dsimp only
    rw [good]
  · exact congrArg State.endExchange (goodReply_outside s t r)

theorem handReport_reports (s : State) (t : Fin 16) (h : Half) (before : Option View) (v : View) :
    (∀ n, s.slotAt t h = some n → s.handReport t h before v = s.report n (before.getD .start) v) ∧
      (s.slotAt t h = none → s.handReport t h before v = s) := by
  unfold State.handReport
  exact ⟨fun n at' => by rw [at'], fun at' => by rw [at']⟩

theorem takeTagged_takesOnce (s : State) (t : Fin 16) (r : TerminalReply) :
    let events := r.a.stop || r.a.start || r.a.tap || r.b.stop || r.b.start || r.b.tap
    let taken := (s.terminal t).tagValid = true ∧ (s.terminal t).tag = r.tag
    (events = false ∨ taken → s.takeTagged t r = s) ∧
    (events = true → ¬ taken → s.takeTagged t r =
      ((s.modTerminal t fun x => { x with tag := r.tag, tagValid := true }).handEvents t .a r.a).handEvents t .b r.b) := by
  have flagged : (r.a.flagged || r.b.flagged) = (r.a.stop || r.a.start || r.a.tap || r.b.stop || r.b.start || r.b.tap) := by
    unfold HalfReply.flagged
    rw [Bool.or_comm r.a.start, Bool.or_comm r.b.start]
    simp only [Bool.or_assoc]
  dsimp only
  rw [← flagged]
  refine ⟨fun h => takeTagged_still fun k => ?_, fun events fresh => takeTagged_takes ⟨events, fresh⟩⟩
  rcases h with none | taken
  · rw [k.1] at none; cases none
  · exact k.2 taken

theorem handEvents_inOrder (s : State) (t : Fin 16) (h : Half) (r : HalfReply) :
    (s.slotAt t h = none → s.handEvents t h r = s) ∧
      ∀ n, s.slotAt t h = some n → ∀ a b, a = (if r.stop then s.stopPress n else s) →
        b = (if r.start then a.startPress n else a) → s.handEvents t h r = if r.tap then b.tap n r.card else b := by
  unfold State.handEvents
  refine ⟨fun at' => by rw [at'], ?_⟩
  rintro n at' _ _ rfl rfl
  rw [at']
  rfl

end

end Sys2Proof.Machine

namespace Sys2Proof.Machine

section
variable {s u : State} {n : Fin 24}

/-! ### A report taken (R41, R144) -/

/-- An entry whose condition has ended (R144). -/
def FaultEntry.ended (x : FaultEntry) : FaultEntry := { x with condition := .latched }

/-- The table after the end of a condition, where it has ended (R144). -/
def Faults.ends (f : Faults) (n : Fin 24) (c : FaultCode) (b : Bool) : Faults :=
  { f with table := f.table.map fun x => if x.source = some n ∧ x.code = c ∧ b = true then x.ended else x }

theorem latch_ends (s : State) (n : Fin 24) (c : FaultCode) (p : Prop) [Decidable p] :
    (if p then s.latch (some n) c else s) = { s with faults := s.faults.ends n c (decide p) } := by
  by_cases h : p
  · rw [if_pos h]
    unfold State.latch Faults.latch Faults.ends
    have key (x : FaultEntry) : x.hasKey (some n) c = true ↔ x.source = some n ∧ x.code = c ∧ decide p = true := by
      rw [FaultEntry.hasKey_iff, and_iff_left (decide_eq_true h)]
    simp only [key]
    rfl
  · rw [if_neg h]
    have same : s.faults.ends n c (decide p) = s.faults := by
      unfold Faults.ends
      simp [h]
    rw [same]

/-- The entries of a slot whose conditions a report shows ended (R144). -/
def Faults.shows (f : Faults) (n : Fin 24) (locked : Bool) (v : View) : Faults :=
  { f with table := f.table.map fun x =>
      if x.source = some n ∧ x.code.endedBy locked v = true then { x with condition := .latched } else x }

theorem ends_four (f : Faults) (n : Fin 24) (locked : Bool) (v : View) :
    (((f.ends n .lockFail (decide (v.lock = if locked then .locked else .unlocked))).ends n .unlockFail
      (decide (v.lock = .unlocked))).ends n .doorForced (decide ¬ v.forced = true)).ends n .machineError
        (decide ¬ v.status = .error) = f.shows n locked v := by
  unfold Faults.ends Faults.shows
  simp only [List.map_map]
  congr 1
  refine List.map_congr_left fun x _ => ?_
  have condition (p : Prop) [Decidable p] (y : FaultEntry) :
      (if p then { y with condition := .latched } else y) = { y with condition := if p then .latched else y.condition } := by
    split <;> rfl
  simp only [FaultEntry.ended, condition, Function.comp_apply, FaultEntry.mk.injEq, true_and, and_true]
  cases x.code <;> simp [FaultCode.endedBy, View.forced, -not_and]

theorem latchReport_eq (s : State) (n : Fin 24) (v : View) :
    s.latchReport n v = { s with faults := s.faults.shows n (s.slot n).outputs.locked v } := by
  unfold State.latchReport
  rw [← ends_four]
  simp only [← ite_not (p := v.forced = true), ← ite_not (p := v.status = .error), latch_ends]

/-- The state with a report taken. -/
def State.taken (s : State) (n : Fin 24) (v : View) : State := (s.takeView n v).latchReport n v

theorem taken_took (s : State) (n : Fin 24) (v : View) : s.took n v (s.taken n v) := by
  have slot : (s.takeView n v).slot n = { s.slot n with
      view := v,
      phase := if s.kind n = .washer ∧ (s.slot n).state.busy = true then v.phase else (s.slot n).phase,
      heatReq := if s.kind n = .washer then v.heat else (s.slot n).heatReq } := by
    unfold State.takeView
    rw [State.slot_modSlot_same]
    simp
  have others (m : Fin 24) (hm : m ≠ n) : (s.takeView n v).slot m = s.slot m := by
    unfold State.takeView
    exact State.slot_modSlot_ne s (Ne.symm hm) _
  unfold State.taken
  rw [latchReport_eq, slot]
  exact ⟨slot, others, rfl, rfl, rfl⟩

theorem report_eq (s : State) (n : Fin 24) (before v : View) : s.report n before v =
    if (s.slot n).state = .recovering then
      ((s.taken n v).recover n).actOn n (((s.taken n v).recover n).slot n).heatReq before v
    else (s.taken n v).actOn n (s.slot n).heatReq before v := by
  unfold State.report State.taken
  by_cases h : (s.slot n).state = .recovering
  · rw [if_pos h]
    simp [h]
  · rw [if_neg h]
    simp [h]

end

end Sys2Proof.Machine

namespace Sys2Proof.Machine

section
variable {a s u : State} {t : Fin 16} {n : Fin 24}

/-! ### A terminal heard again (R5, R30, R41, R141) -/

/-- What the return of its terminal makes of a cause set (R141). -/
def Causes.heard (c : Causes) : Causes := { c with lost := false }

/-- What the return of its terminal makes of slot `n` (R30, R141). -/
structure Regained (n : Fin 24) (a s : State) : Prop where
  causes : (s.slot n).causes = (a.slot n).causes.heard
  state : (a.slot n).state = .outOfService →
    if (a.slot n).causes.lost = true ∧ (a.slot n).causes.heard.isEmpty = true then (s.slot n).state.vacant
    else (s.slot n).state = .outOfService

theorem regainSlot_faults (s : State) (n : Fin 24) : (s.regainSlot n).faults = s.faults.latch (some n) .terminalLost := by
  unfold State.regainSlot State.removeCause
  split
  · rfl
  · dsimp only
    have marked := markCause_faults (s.latch (some n) .terminalLost) n .lost false
    generalize ((s.latch (some n) .terminalLost).setCause n .lost false).writeCauses n .lost = v at *
    have told : (v.postSlot n).faults = v.faults := by simp [State.postSlot]
    split
    · exact (enterIdle_faults _ n).trans (told.trans marked)
    · exact told.trans marked

theorem regainSlot_bystander (s : State) (n m : Fin 24) (hm : m ≠ n) : (s.slot m).bystander ((s.regainSlot n).slot m) := by
  have latched : (s.latch (some n) .terminalLost).slot m = s.slot m := rfl
  unfold State.regainSlot
  rw [← latched]
  generalize s.latch (some n) .terminalLost = u
  unfold State.removeCause
  split
  · exact .refl _
  · dsimp only
    have marked := (markCause_marked u n .lost false).1.others m hm
    generalize (u.setCause n .lost false).writeCauses n .lost = v at *
    have told : (v.postSlot n).slot m = v.slot m := slot_of_slots (State.post_slots v _) m
    rw [← marked, ← told]
    split
    · exact enterIdle_bystander _ n m hm
    · exact .refl _

theorem regainSlot_regained (s : State) (n : Fin 24) : Regained n s (s.regainSlot n) := by
  have latched : (s.latch (some n) .terminalLost).slot n = s.slot n := rfl
  unfold State.regainSlot
  generalize s.latch (some n) .terminalLost = u at latched
  suffices Regained n u (u.removeCause n .lost) by
    obtain ⟨causes, state⟩ := this
    rw [latched] at causes state
    exact ⟨causes, state⟩
  unfold State.removeCause
  cases has : (u.slot n).causes.has .lost with
  | false =>
    have lost : (u.slot n).causes.lost = false := has
    refine ⟨?_, fun out => ?_⟩
    · show (u.slot n).causes = { (u.slot n).causes with lost := false }
      rw [← lost]
    · rw [if_neg (by rw [lost]; rintro ⟨k, -⟩; cases k)]
      exact out
  | true =>
    have lost : (u.slot n).causes.lost = true := has
    obtain ⟨marked, causes⟩ := markCause_marked u n .lost false
    simp only [Bool.not_true, Bool.false_eq_true, if_false]
    generalize (u.setCause n .lost false).writeCauses n .lost = v at *
    have told : (v.postSlot n).slot n = v.slot n := slot_of_slots (State.post_slots v _) n
    have state : (v.slot n).state = (u.slot n).state := by rw [marked.slot]
    rw [told, state, causes]
    by_cases free : (u.slot n).state = .outOfService ∧ ((u.slot n).causes.set .lost false).isEmpty = true
    · rw [if_pos free]
      refine ⟨(((Calm.refl (v.postSlot n)).enterIdle n).slots n).2.trans ((congrArg Slot.causes told).trans causes), fun _ => ?_⟩
      rw [if_pos ⟨lost, free.2⟩]
      exact enterIdle_vacant _ n
    · rw [if_neg free]
      refine ⟨(congrArg Slot.causes told).trans causes, fun out => ?_⟩
      rw [if_neg fun k => free ⟨out, k.2⟩, told, state, out]

theorem SlotState.vacant_of_bystander {x y : Slot} (h : x.bystander y) (v : x.state.vacant) : y.state.vacant := by
  rcases h.2 with e | ⟨-, e⟩ | ⟨e, -⟩
  · rw [e]; exact v
  · exact .inl e
  · rcases v with v | v <;> rcases e with e | e <;> cases v.symm.trans e

/-- What the slots' regaining their terminal makes of slot `n`, other slots acting before and after. -/
theorem Regained.after {b : State} (h : Regained n a s) (k : (s.slot n).bystander (b.slot n)) : Regained n a b := by
  obtain ⟨causes, state⟩ := h
  refine ⟨(congrArg Slot.causes k.1).trans causes, fun out => ?_⟩
  have state := state out
  split at state
  · next free => rw [if_pos free]; exact SlotState.vacant_of_bystander k state
  · next held =>
    rw [if_neg held, k.state (by rw [state]; exact nofun) (by rw [state]; rintro (e | e) <;> cases e), state]

theorem Regained.before {b : State} (h : (a.slot n).bystander (b.slot n)) (k : Regained n b s) : Regained n a s := by
  obtain ⟨causes, state⟩ := k
  have same : (b.slot n).causes = (a.slot n).causes := by
    have bare := congrArg Slot.causes h.1
    exact bare
  rw [same] at causes state
  refine ⟨causes, fun out => state ?_⟩
  rw [h.state (by rw [out]; exact nofun) (by rw [out]; rintro (e | e) <;> cases e), out]

/-- The entries of TERMINAL_LOST at the slots of a list, LATCHED (R141). -/
def Faults.heard (f : Faults) (l : List (Fin 24)) : Faults :=
  { f with table := f.table.map fun x =>
      if x.code = .terminalLost ∧ (x.source.any fun n => decide (n ∈ l)) = true then { x with condition := .latched } else x }

theorem heard_nil (f : Faults) : f.heard [] = f := by
  unfold Faults.heard
  have none (x : FaultEntry) : ¬ (x.code = .terminalLost ∧ (x.source.any fun n => decide (n ∈ ([] : List (Fin 24)))) = true) := by
    cases x.source <;> simp
  simp only [none, if_false, List.map_id']

theorem heard_cons (f : Faults) (n : Fin 24) (l : List (Fin 24)) : (f.latch (some n) .terminalLost).heard l = f.heard (n :: l) := by
  unfold Faults.heard Faults.latch
  simp only [List.map_map]
  congr 1
  refine List.map_congr_left fun x _ => ?_
  simp only [Function.comp_apply]
  by_cases key : x.hasKey (some n) .terminalLost = true
  · obtain ⟨source, code⟩ := FaultEntry.hasKey_iff.1 key
    rw [if_pos key]
    simp [source, code]
  · rw [if_neg key]
    rw [FaultEntry.hasKey_iff] at key
    cases source : x.source with
    | none => simp
    | some m =>
      rw [source] at key
      by_cases code : x.code = .terminalLost
      · have other : m ≠ n := fun e => key ⟨congrArg some e, code⟩
        simp [other]
      · simp [code]

/-- What the slots of a list regaining their terminal make of the whole. -/
structure Heard (l : List (Fin 24)) (a s : State) : Prop where
  whole : Whole s
  faults : s.faults = a.faults.heard l
  own : ∀ n ∈ l, Regained n a s
  others : ∀ n, n ∉ l → (a.slot n).bystander (s.slot n)
  books : a.booksKept s

theorem regains_heard {l : List (Fin 24)} (nodup : l.Nodup) (w : Whole s) :
    Heard l s (l.foldl (fun s n => s.regainSlot n) s) := by
  induction l generalizing s with
  | nil => exact ⟨w, (heard_nil _).symm, fun _ h => absurd h List.not_mem_nil, fun _ _ => .refl _, ⟨rfl, rfl, rfl, rfl⟩⟩
  | cons m l ih =>
    obtain ⟨fresh, nodup⟩ := List.nodup_cons.1 nodup
    obtain ⟨whole, faults, own, others, books⟩ := ih nodup (w.regainSlot m)
    have first := (regainSlot_placed s m).books
    rw [List.foldl_cons]
    refine ⟨whole, ?_, fun n hn => ?_, fun n hn => ?_, ⟨books.accounts.trans first.accounts, books.holds.trans first.holds,
      books.settlement.trans first.settlement, books.writes.trans first.writes⟩⟩
    · rw [faults, regainSlot_faults, heard_cons]
    · rcases List.mem_cons.1 hn with rfl | tail
      · exact (regainSlot_regained s n).after (others n fresh)
      · have other : n ≠ m := by rintro rfl; exact fresh tail
        exact .before (regainSlot_bystander s m n other) (own n tail)
    · rw [List.mem_cons, not_or] at hn
      exact (regainSlot_bystander s m n hn.1).trans (others n hn.2)

theorem regainSlots_heard (w : Whole s) (t : Fin 16) : Heard (s.slotsOn t) s (s.regainSlots t) := by
  have nodup : (s.slotsOn t).Nodup := (List.nodup_finRange 24).filter _
  obtain ⟨whole, faults, own, others, books⟩ := regains_heard nodup w
  unfold State.regainSlots
  clear nodup
  generalize (s.slotsOn t).foldl (fun s n => s.regainSlot n) s = v at *
  have beside (n : Fin 24) : (v.slot n).bystander ((v.reckon false false false).slot n) :=
    ⟨(Bare.refl v).reckon _ _ _ n, reckon_beside v _ _ _ whole.heated n⟩
  have calm := ((Calm.refl v).reckon false false false).booksKept
  exact ⟨Law.reckon whole _ _ _, (reckon_faults v _ _ _).trans faults, fun n hn => (own n hn).after (beside n),
    fun n hn => (others n hn).trans (beside n), calm.accounts.trans books.accounts, calm.holds.trans books.holds,
    calm.settlement.trans books.settlement, calm.writes.trans books.writes⟩

theorem hearTerminal_hears (heat : s.heatLaw) (busy : s.busyLaw) (t : Fin 16) : let u := s.hearTerminal t
    let heard := s.modTerminal t fun x => { x with presence := .present, misses := 0 }
    ((s.terminal t).presence = .present → u = heard) ∧
    ((s.terminal t).presence = .absent → u = heard.post (.terminalPresence t .present)) ∧
    ((s.terminal t).presence = .lost → s.told (.terminalPresence t .present) u ∧ s.booksKept u ∧
      u.faults = { s.faults with table := s.faults.table.map fun x =>
        if x.code = .terminalLost ∧ (x.source.any fun n => (s.slot n).cfg.any fun c => c.term = t) = true then
          { x with condition := .latched } else x } ∧
      (∀ n h, s.slotAt t h = some n →
        (u.slot n).causes = { (s.slot n).causes with lost := false } ∧
        ((s.slot n).state = .outOfService →
          if (s.slot n).causes.lost = true ∧ ({ (s.slot n).causes with lost := false } : Causes).isEmpty = true then
            (u.slot n).state = .idle ∨ (u.slot n).state = .reserved else (u.slot n).state = .outOfService)) ∧
      (∀ n, (∀ c, (s.slot n).cfg = some c → c.term ≠ t) → (s.slot n).bystander (u.slot n)) ∧
      u.outside = heard.outside) := by
  refine ⟨fun present => ?_, fun absent => ?_, fun lost => ?_⟩
  · unfold State.hearTerminal
    exact if_pos present
  · unfold State.hearTerminal
    dsimp only
    rw [absent, if_neg nofun, if_neg nofun]
  have step : s.hearTerminal t = ((s.modTerminal t Terminal.heard).post (.terminalPresence t .present)).regainSlots t := by
    unfold State.hearTerminal
    dsimp only
    rw [lost, if_neg nofun, if_pos rfl]
    rfl
  have told : s.told (.terminalPresence t .present) (s.hearTerminal t) := by
    rw [step]
    exact told_of_post (u := s.modTerminal t Terminal.heard) rfl rfl ((Books.refl _).regainSlots t).events
  have quiet : Quiet s ((s.modTerminal t Terminal.heard).post (.terminalPresence t .present)) :=
    ((Quiet.refl s).modTerminal t _).post _
  have slots (n : Fin 24) : ((s.modTerminal t Terminal.heard).post (.terminalPresence t .present)).slot n = s.slot n :=
    slot_of_slots (State.post_slots _ _) n
  have faults : ((s.modTerminal t Terminal.heard).post (.terminalPresence t .present)).faults = s.faults := by simp
  have kept : s.booksKept ((s.modTerminal t Terminal.heard).post (.terminalPresence t .present)) :=
    (((Calm.refl s).modTerminal t Terminal.heard fun _ => rfl).post _).booksKept
  have does := regainSlots_heard (Law.quiet (whole_iff.2 ⟨heat, busy⟩) quiet) t
  have mem (n : Fin 24) : n ∈ ((s.modTerminal t Terminal.heard).post (.terminalPresence t .present)).slotsOn t ↔
      ((s.slot n).cfg.any fun c => c.term = t) = true := by
    unfold State.slotsOn
    rw [List.mem_filter, slots n]
    exact and_iff_right (List.mem_finRange n)
  rw [← step] at does
  generalize (s.modTerminal t Terminal.heard).post (.terminalPresence t .present) = v at *
  obtain ⟨-, latched, own, others, books⟩ := does
  refine ⟨told, ⟨books.accounts.trans kept.accounts, books.holds.trans kept.holds, books.settlement.trans kept.settlement,
    books.writes.trans kept.writes⟩, ?_, fun n h at' => ?_, fun n elsewhere => ?_, hearTerminal_outside s t⟩
  · rw [latched, faults]
    unfold Faults.heard
    simp only [mem, Bool.decide_eq_true]
  · obtain ⟨causes, state⟩ := own n ((mem n).2 (by
      have on := mem_slotsOn at'
      unfold State.slotsOn at on
      exact (List.mem_filter.1 on).2))
    rw [slots n] at causes state
    exact ⟨causes, state⟩
  · rw [← slots n]
    refine others n fun on => ?_
    have on := (mem n).1 on
    cases cfg : (s.slot n).cfg with
    | none => rw [cfg] at on; cases on
    | some c =>
      rw [cfg] at on
      exact elsewhere c cfg (by simpa using on)

end

end Sys2Proof.Machine

namespace Sys2Proof.Machine

section
variable {a s t u : State} {n : Fin 24} {before v : View}

/-! ### The faults of a report (R22, R23) -/

/-- The faults that a report raises stop the slot, or lock it out at their third occurrence, and stay ACTIVE (R138, R140, R144). -/
structure Stopping (code : FaultCode) : Prop where
  severity : ∀ (s : State) (n : Fin 24), s.severity n code = .stop ∨ s.severity n code = .lockout
  unlock : code ≠ .unlockFail
  lasting : code.selfLatching = false

theorem doorForced_stopping : Stopping .doorForced := by
  refine ⟨fun s n => ?_, nofun, rfl⟩
  unfold State.severity FaultCode.applied
  split
  · exact .inr rfl
  · exact .inl rfl

theorem machineError_stopping : Stopping .machineError := by
  refine ⟨fun s n => ?_, nofun, rfl⟩
  unfold State.severity FaultCode.applied
  split
  · exact .inr rfl
  · exact .inl rfl

theorem entered_marked (s : State) (n : Fin 24) (code : FaultCode) (err : Option Nat) : Marked n s (s.entered n code err) := by
  obtain ⟨E, e⟩ := entered_eq s n code err
  rw [e]
  exact ⟨rfl, fun _ _ => rfl, rfl, rfl, rfl, rfl, rfl, rfl, rfl⟩

/-- At a slot without a cycle a stopping fault ends none: at its third occurrence FAULT_LOCKOUT joins the set (R138, R139). -/
theorem raise_free {code : FaultCode} (stops : Stopping code) (free : (s.slot n).state.busy = false) (err : Option Nat) :
    s.raise (some n) code err = s.entered n code err ∨
      s.raise (some n) code err = (s.entered n code err).joinCause n .lockout := by
  have ended : (s.entered n code err).faultEnd n code err = s.entered n code err := by
    have same : ((s.entered n code err).slot n).state = (s.slot n).state := by rw [(entered_marked s n code err).slot]
    refine if_neg ?_
    rw [same, free]
    exact Bool.false_ne_true
  rw [raise_eq, stops.lasting]
  rcases stops.severity s n with e | e <;> rw [e]
  · exact .inl ended
  · refine .inr ((if_neg stops.unlock).trans ?_)
    rw [ended]

/-- A stopping fault at a settled slot that waits for its unlock. -/
theorem raise_settled {code : FaultCode} (stops : Stopping code)
    (state : (s.slot n).state = .finishing ∨ (s.slot n).state = .faulted) (err : Option Nat) :
    Marked n s (s.raise (some n) code err) := by
  have marked := entered_marked s n code err
  have same : ((s.entered n code err).slot n).state = (s.slot n).state := by rw [marked.slot]
  rcases raise_free stops (by rcases state with e | e <;> rw [e] <;> rfl) err with e | e <;> rw [e]
  · exact marked
  · refine marked.trans (joinCause_marked .lockout ?_).1
    rw [same]
    rcases state with e | e <;> rw [e] <;> exact ⟨nofun, nofun, nofun⟩

/-- A stopping fault at a slot without a cycle touches no record of an account, hold or settlement. -/
theorem raise_free_books {code : FaultCode} (stops : Stopping code) (free : (s.slot n).state.busy = false) (err : Option Nat) :
    (s.raise (some n) code err).accounts = s.accounts ∧ (s.raise (some n) code err).holds = s.holds := by
  have marked := entered_marked s n code err
  rcases raise_free stops free err with e | e <;> rw [e]
  · exact ⟨marked.accounts, marked.holds⟩
  · cases has : ((s.entered n code err).slot n).causes.has .lockout with
    | true =>
      have still : (s.entered n code err).joinCause n .lockout = s.entered n code err := if_pos has
      rw [still]
      exact ⟨marked.accounts, marked.holds⟩
    | false =>
      have joined := joinCause_joined (m := .lockout) nofun has
      exact ⟨joined.accounts.trans marked.accounts, joined.holds.trans marked.holds⟩

/-! ### The confirmed unlock (R28, R29) -/

/-- The confirmed unlock of a settled slot. -/
theorem confirmUnlock_unlocks (w : Whole s) (state : (s.slot n).state = .finishing ∨ (s.slot n).state = .faulted) (v : View)
    (view : (s.slot n).view = v) (lock : v.lock = .unlocked) (st : SlotState) : (s.confirmUnlock n).unlocked n st v := by
  have cold : (s.slot n).state.cold := by rcases state with e | e <;> rw [e] <;> exact ⟨nofun, nofun⟩
  have unasked := (Law.unasked w (n := n) id cold).1
  have causes := (((Calm.refl s).confirmUnlock n).slots n).2
  unfold State.unlocked
  rw [if_pos lock, causes]
  unfold State.confirmUnlock
  dsimp only
  split
  · have told := enterTold_slot (s := s) n n .collect unasked
    rw [if_pos rfl] at told
    rw [told, view]
    split
    · exact enterIdle_vacant _ n
    · rw [told]
  · have told := enterTold_slot (s := s) n n .outOfService unasked
    rw [if_pos rfl] at told
    rw [told]

theorem Bare.confirmUnlock (h : Bare a s) (n : Fin 24) : Bare a (s.confirmUnlock n) := by
  have told (st : SlotState) : Bare a (s.enterTold n st) := (h.enter n st).reckon _ _ _
  unfold State.confirmUnlock
  exact .ite (.ite ((told _).enterIdle n) (told _)) (told _)

theorem confirmUnlock_faults (s : State) (n : Fin 24) : (s.confirmUnlock n).faults = s.faults := by
  unfold State.confirmUnlock
  dsimp only
  split
  · split
    · exact (enterIdle_faults _ n).trans (enterTold_faults s n _)
    · exact enterTold_faults s n _
  · exact enterTold_faults s n _

/-! ### What a report does at a slot without a cycle (R28, R29) -/

theorem reportAct_settled (state : (s.slot n).state = .finishing ∨ (s.slot n).state = .faulted) (was : Bool) (v : View) :
    s.reportAct n was v = if v.lock = .unlocked then s.confirmUnlock n else s := by
  unfold State.reportAct
  rcases state with e | e <;> rw [e]

theorem reportAct_free (free : (s.slot n).state.busy = false) (was : Bool) (v : View) :
    Calm s (s.reportAct n was v) ∧ (s.reportAct n was v).faults = s.faults := by
  have unlock : Calm s (if v.lock = .unlocked then s.confirmUnlock n else s) ∧
      (if v.lock = .unlocked then s.confirmUnlock n else s).faults = s.faults := by
    split
    · exact ⟨(Calm.refl s).confirmUnlock n, confirmUnlock_faults s n⟩
    · exact ⟨.refl s, rfl⟩
  have idle : Calm s (if v.doorOpen then s.enterIdle n else s) ∧ (if v.doorOpen then s.enterIdle n else s).faults = s.faults := by
    split
    · exact ⟨(Calm.refl s).enterIdle n, enterIdle_faults s n⟩
    · exact ⟨.refl s, rfl⟩
  unfold State.reportAct
  split
  · next e => rw [e] at free; cases free
  · next e => rw [e] at free; cases free
  · next e => rw [e] at free; cases free
  · exact unlock
  · exact unlock
  · exact idle
  all_goals exact ⟨.refl s, rfl⟩

/-! ### A report acted on -/

/-- A forced door at its onset (R22). -/
def State.forces (s : State) (n : Fin 24) (before v : View) : Prop :=
  v.forced = true ∧ before.forced = false ∧ (s.slot n).state.forcible = true

/-- A machine that enters ERROR (R23). -/
def View.errs (before v : View) : Prop := v.status = .error ∧ before.status ≠ .error

theorem forces_iff : s.forces n before v ↔
    (v.forced = true ∧ (!before.forced) = true ∧ (s.slot n).state.forcible = true) := by
  unfold State.forces
  rw [Bool.not_eq_true']

theorem reportFaults_forced (forced : s.forces n before v) (sound : ¬ before.errs v) :
    s.reportFaults n before v = s.raise (some n) .doorForced := by
  have onset := forces_iff.1 forced
  unfold State.reportFaults
  dsimp only
  rw [if_pos onset]
  exact if_neg sound

theorem reportFaults_both (forced : s.forces n before v) (errs : before.errs v) :
    s.reportFaults n before v = (s.raise (some n) .doorForced).raise (some n) .machineError (some v.errorCode) := by
  have onset := forces_iff.1 forced
  unfold State.reportFaults
  dsimp only
  rw [if_pos onset]
  exact if_pos errs

theorem reportFaults_errs (shut : ¬ s.forces n before v) (errs : before.errs v) :
    s.reportFaults n before v = s.raise (some n) .machineError (some v.errorCode) := by
  have quiet := mt forces_iff.2 shut
  unfold State.reportFaults
  dsimp only
  rw [if_neg quiet]
  exact if_pos errs

theorem reportFaults_none (shut : ¬ s.forces n before v) (sound : ¬ before.errs v) : s.reportFaults n before v = s := by
  have quiet := mt forces_iff.2 shut
  unfold State.reportFaults
  dsimp only
  rw [if_neg quiet]
  exact if_neg sound

/-- A report that raises no fault (R41). -/
theorem actOn_none (shut : ¬ s.forces n before v) (sound : ¬ before.errs v) (was : Bool) :
    s.actOn n was before v = s.reportAct n was v := by
  unfold State.actOn
  dsimp only
  rw [reportFaults_none shut sound, if_pos rfl]

/-- A report whose faults end the slot's cycle does no more (log 15). -/
theorem actOn_ended (state : ((s.reportFaults n before v).slot n).state ≠ (s.slot n).state) (was : Bool) :
    s.actOn n was before v = s.reportFaults n before v := if_neg state

/-- A door forced in a cycle (R22). -/
theorem actOn_forced (w : Whole s) {h : Hold} (hn : s.hold n = some h) (forced : s.forces n before v) (was : Bool) :
    s.cycleEnded n h .userStop (some (.doorForced, none)) .faulted (s.actOn n was before v) ∧
      ((s.actOn n was before v).slot n).state = .faulted ∧
      (¬ before.errs v → s.raisedAt n .doorForced none (s.actOn n was before v)) := by
  have busy : (s.slot n).state.busy = true := by rw [← w.busy n id, hn]; rfl
  have ended := (raise_busy w hn (doorForced_stopping.severity s n) nofun none).1
  have faulted : ((s.raise (some n) .doorForced).slot n).state = .faulted := by
    rcases ended.state with e | ⟨e, -⟩
    · exact e
    · cases e
  have other : SlotState.faulted ≠ (s.slot n).state := by rintro e; rw [← e] at busy; cases busy
  by_cases errs : before.errs v
  · have marked := raise_settled machineError_stopping (s := s.raise (some n) .doorForced) (.inr faulted) (some v.errorCode)
    have state : (((s.raise (some n) .doorForced).raise (some n) .machineError (some v.errorCode)).slot n).state = .faulted := by
      rw [marked.slot]; exact faulted
    rw [actOn_ended (by rw [reportFaults_both forced errs, state]; exact other), reportFaults_both forced errs]
    exact ⟨ended.marked marked, state, fun sound => absurd errs sound⟩
  · rw [actOn_ended (by rw [reportFaults_forced forced errs, faulted]; exact other), reportFaults_forced forced errs]
    exact ⟨ended, faulted, fun _ => raise_raisedAt s n rfl none⟩

/-- A machine in ERROR in a cycle (R23). -/
theorem actOn_error (w : Whole s) {h : Hold} (hn : s.hold n = some h) (shut : ¬ s.forces n before v) (errs : before.errs v)
    (was : Bool) :
    s.cycleEnded n h .fault (some (.machineError, some v.errorCode)) .faulted (s.actOn n was before v) ∧
      s.raisedAt n .machineError (some v.errorCode) (s.actOn n was before v) := by
  have busy : (s.slot n).state.busy = true := by rw [← w.busy n id, hn]; rfl
  have ended := (raise_busy w hn (machineError_stopping.severity s n) nofun (some v.errorCode)).1
  have faulted : ((s.raise (some n) .machineError (some v.errorCode)).slot n).state = .faulted := by
    rcases ended.state with e | ⟨e, -⟩
    · exact e
    · cases e
  have other : SlotState.faulted ≠ (s.slot n).state := by rintro e; rw [← e] at busy; cases busy
  rw [actOn_ended (by rw [reportFaults_errs shut errs, faulted]; exact other), reportFaults_errs shut errs]
  exact ⟨ended, raise_raisedAt s n rfl _⟩

/-- A stopping fault that a report raises at a slot without a cycle (R22, R23, R139). -/
theorem actOn_free {code : FaultCode} (stops : Stopping code) (err : Option Nat)
    (raised : s.reportFaults n before v = s.raise (some n) code err) (free : (s.slot n).state.busy = false) (was : Bool) :
    s.raisedAt n code err (s.actOn n was before v) ∧ s.holds = (s.actOn n was before v).holds ∧
      s.accounts = (s.actOn n was before v).accounts := by
  have entry := raise_raisedAt s n stops.lasting err
  obtain ⟨accounts, holds⟩ := raise_free_books stops free err
  unfold State.actOn
  dsimp only
  rw [raised]
  split
  · next same =>
    obtain ⟨calm, faults⟩ := reportAct_free (s := s.raise (some n) code err) (n := n) (by rw [same]; exact free) was v
    obtain ⟨accounts', holds', -, -⟩ := calm.booksKept
    exact ⟨entry.later faults calm.events, (holds'.trans holds).symm, (accounts'.trans accounts).symm⟩
  · exact ⟨entry, holds.symm, accounts.symm⟩

/-- A report at a settled slot: whatever faults it raises, the slot waits for its unlock, and takes it (R28). -/
theorem actOn_settled (w : Whole s) (state : (s.slot n).state = .finishing ∨ (s.slot n).state = .faulted)
    (view : (s.slot n).view = v) (was : Bool) :
    (s.actOn n was before v).unlocked n (s.slot n).state v ∧ (s.actOn n was before v).holds = s.holds ∧
      (s.actOn n was before v).settlement = s.settlement := by
  have marked : Marked n s (s.reportFaults n before v) ∧ Whole (s.reportFaults n before v) := by
    refine ⟨?_, w.reportFaults n before v⟩
    by_cases forced : s.forces n before v <;> by_cases errs : before.errs v
    · have first := raise_settled doorForced_stopping state none
      rw [reportFaults_both forced errs]
      exact first.trans (raise_settled machineError_stopping (by rw [first.slot]; exact state) _)
    · rw [reportFaults_forced forced errs]; exact raise_settled doorForced_stopping state _
    · rw [reportFaults_errs forced errs]; exact raise_settled machineError_stopping state _
    · rw [reportFaults_none forced errs]; exact .refl n s
  obtain ⟨marked, whole⟩ := marked
  unfold State.actOn
  dsimp only
  generalize s.reportFaults n before v = u at *
  have same : (u.slot n).state = (s.slot n).state := by rw [marked.slot]
  have seen : (u.slot n).view = v := by rw [marked.slot]; exact view
  rw [← same] at state
  rw [if_pos same, reportAct_settled state]
  split
  · next lock =>
    obtain ⟨-, holds, settlement, -⟩ := ((Calm.refl u).confirmUnlock n).booksKept
    exact ⟨confirmUnlock_unlocks whole state v seen lock _, holds.trans marked.holds, settlement.trans marked.settlement⟩
  · next lock =>
    refine ⟨?_, marked.holds, marked.settlement⟩
    unfold State.unlocked
    rw [if_neg lock, same]

end

end Sys2Proof.Machine

namespace Sys2Proof.Machine

section
variable {a s t u : State} {n : Fin 24} {c : Fin 4}

/-! ### Heat asked for and given up at a report (R14, R17) -/

theorem Bare.placeNew (h : Bare a s) (m : Fin 24) : Bare a (s.placeNew m) := h.change (placeNew_slots s m).1

theorem askHeat_one (s : State) (n : Fin 24) : s.askHeat [n] =
    if (((s.placeNew n).reckon false true false).slot n).heatGrant then (s.placeNew n).reckon false true false
    else ((s.placeNew n).reckon false true false).enter n .awaitPower := by
  unfold State.askHeat
  rw [if_neg (by simp)]
  simp only [List.foldl_cons, List.foldl_nil]

/-- A slot that asks has its request on a list (R110). -/
theorem placeNew_asked (cls : s.slotCls n = some c) : (s.placeNew n).asked n := by
  unfold State.placeNew
  rw [cls]
  cases has : s.hasRequest n with
  | true => exact (hasRequest_iff s n).1 has
  | false =>
    dsimp only
    have placed (k : Nat) : n ∈ slotsOf (placeRequest (fun c => (s.govClass c).priority) ⟨n, c, k, 0, false⟩ s.gov.waits) :=
      ((placeRequest_perm _ _ _).map _).mem_iff.2 (List.mem_cons_self ..)
    split
    · exact .inr (placed _)
    · refine .inr ?_
      rw [waiting_eq]
      show n ∈ slotsOf (restamped _ _)
      rw [slotsOf_restamped]
      exact placed _

/-- Heat asked for by one slot (R14, R17, R110). -/
theorem askHeat_asks (w : Whole s) (cls : s.slotCls n = some c) (state : (s.slot n).state = .running) :
    ((s.askHeat [n]).slot n).state.heated ∧ (s.askHeat [n]).asked n ∧ Bare s (s.askHeat [n]) := by
  have near := askHeat_near w (ns := [n]) (by simpa using state) n
  have heated : ((s.askHeat [n]).slot n).state.heated := by
    rcases near with e | ⟨e, -⟩ | ⟨-, e⟩
    · exact .inl (e.trans state)
    · rw [state] at e; rcases e with e | e <;> cases e
    · exact e
  have asked : ((s.placeNew n).reckon false true false).asked n :=
    ((reckon_reckoned _ _ _ _).asked n).2 (placeNew_asked cls)
  have bare : Bare s ((s.placeNew n).reckon false true false) := ((Bare.refl s).placeNew n).reckon _ _ _
  refine ⟨heated, ?_⟩
  rw [askHeat_one]
  generalize (s.placeNew n).reckon false true false = u at *
  split
  · exact ⟨asked, bare⟩
  · exact ⟨(enter_asked n n .awaitPower).2 asked, bare.enter n _⟩

/-- A slot that gives up its grant runs on without heat (R17, R116). -/
theorem giveUpGrant_runs (state : (s.slot n).state = .running) :
    ((s.giveUpGrant n).slot n).state = .running ∧ ¬ (s.giveUpGrant n).asked n ∧
      ((s.giveUpGrant n).slot n).outputs = ⟨true, true, false⟩ ∧ Bare s (s.giveUpGrant n) := by
  have dropped := dropGrant_dropped s n
  have given : (s.dropGrant n).slot n = { s.slot n with
      heatGrant := false, outputs := outputsOf (s.slot n).state false,
      sense := { (s.slot n).sense.disturb with armed := false } } := State.slot_modSlot_same (s.removeRequest n) n _
  have bare : Bare s (s.giveUpGrant n) := (((Bare.refl s).dropReqs n).setGrant n false).reckon _ _ _
  refine ⟨?_, (giveUpGrant_dropped s n).asked, ?_, bare⟩
  · exact (giveUpGrant_dropped s n).state.trans state
  · unfold State.giveUpGrant
    rw [reckon_slot _ _ _ _ n dropped.asked, given, state]
    rfl

/-- A slot in AWAIT_POWER that withdraws its request runs (R17, R116). -/
theorem withdraw_runs (flag : (s.slot n).heatGrant = false) :
    (((s.withdraw n).enter n .running).slot n).state = .running ∧ ¬ ((s.withdraw n).enter n .running).asked n ∧
      (((s.withdraw n).enter n .running).slot n).outputs = ⟨true, true, false⟩ ∧ Bare s ((s.withdraw n).enter n .running) := by
  have dropped := withdraw_dropped s n flag
  have entered := State.enter_slot (s := s.withdraw n) n .running n
  rw [if_pos rfl, dropped.flag] at entered
  refine ⟨by rw [entered], mt (enter_asked n n .running).1 dropped.asked, by rw [entered]; rfl, ?_⟩
  exact Bare.enter (Bare.tidyStamp ((Bare.refl s).dropReqs n)) n .running

/-! ### A washer's report in its cycle (R16, R17) -/

theorem heatChange_same (was : Bool) (same : (s.slot n).heatReq = was) : s.heatChange n was = s := by
  unfold State.heatChange
  dsimp only
  rw [same]
  cases (s.slot n).state <;> cases was <;> rfl

theorem heatChange_rises (state : (s.slot n).state = .running) (now : (s.slot n).heatReq = true) :
    s.heatChange n false = s.askHeat [n] := by
  unfold State.heatChange
  dsimp only
  rw [state, now]

theorem heatChange_granted (state : (s.slot n).state = .running) (now : (s.slot n).heatReq = false)
    (grant : (s.slot n).heatGrant = true) : s.heatChange n true = s.giveUpGrant n := by
  unfold State.heatChange
  dsimp only
  rw [state, now]
  exact if_pos grant

theorem heatChange_waiting (state : (s.slot n).state = .awaitPower) (now : (s.slot n).heatReq = false) :
    s.heatChange n true = (s.withdraw n).enter n .running := by
  unfold State.heatChange
  dsimp only
  rw [state, now]

/-! ### The entry to RUNNING (R14) -/

theorem pointA_warns (cls : s.slotCls n = some c) : (s.pointA n).slot n =
    { s.slot n with warning := (s.slot n).warning || decide (s.estimate n ≤ 60 * (s.cls c).warning) } := by
  obtain ⟨still, fires⟩ := pointA_does cls
  by_cases nears : (s.slot n).warning = false ∧ s.estimate n ≤ 60 * (s.cls c).warning
  · obtain ⟨warned, estimate⟩ := nears
    rw [(fires warned estimate).1 n, if_pos rfl, decide_eq_true estimate, Bool.or_true]
  · have same : s.pointA n = s := still (by
      by_contra k
      rw [not_or, Bool.not_eq_true, not_lt] at k
      exact nears k)
    rw [same]
    cases warned : (s.slot n).warning with
    | true => rw [Bool.true_or, ← warned]
    | false =>
      have far : ¬ s.estimate n ≤ 60 * (s.cls c).warning := fun k => nears ⟨warned, k⟩
      rw [decide_eq_false far, Bool.or_false, ← warned]

end

end Sys2Proof.Machine

namespace Sys2Proof.Machine

section
variable {a s t u : State} {n : Fin 24} {c : Fin 4} {h : Hold}

/-! ### The counters at the entry to RUNNING (R14, R25) -/

/-- An entry to RUNNING after a change of the slot's counters, and compare point A. -/
theorem startRunning_form (s : State) (n : Fin 24) : s.startRunning n = ((s.modSlot n fun x =>
    match s.kind n with
    | .washer => { x with run := 0, phase := x.view.phase, heatReq := x.view.heat }
    | .dryer => { x with remaining := s.planned n, cool := s.coolTime n, phase := .dry, heatReq := true }).enter n
      .running).pointA n := by
  unfold State.startRunning
  cases s.kind n <;> rfl

/-- A slot's fields and warning flag after its counters change, it enters RUNNING, and compare point A is tested. -/
theorem enterRunning_warned (cls : s.slotCls n = some c) (f : Slot → Slot)
    (hf : (f (s.slot n)).cfg = (s.slot n).cfg) :
    ((((s.modSlot n f).enter n .running).pointA n).slot n).bare = { (f (s.slot n)).bare with
      warning := (f (s.slot n)).warning || decide (s.estimateAt n (f (s.slot n)) ≤ 60 * (s.cls c).warning) } := by
  have entered := State.enter_slot (s := s.modSlot n f) n .running n
  rw [if_pos rfl, State.slot_modSlot_same] at entered
  have settings : ((s.modSlot n f).enter n .running).settings = s.settings := settings_of_aside (aside_enter n .running)
  have planned : ((s.modSlot n f).enter n .running).planned n = s.planned n := by
    unfold State.planned
    rw [State.enter_hold]
    rfl
  generalize (s.modSlot n f).enter n .running = v at *
  have cfg : (v.slot n).cfg = (s.slot n).cfg := by rw [entered]; exact hf
  have cls' : v.slotCls n = some c := by rw [← cls]; unfold State.slotCls; rw [cfg]
  have class' : v.cls c = s.cls c := by unfold State.cls; rw [settings]
  have estimate : v.estimate n = s.estimateAt n (f (s.slot n)) :=
    estimate_congr cfg (by rw [entered]) (by rw [entered]) (by rw [entered]) (by rw [entered]) planned settings
  rw [pointA_warns cls', estimate, class', entered]
  rfl

theorem startRunning_washer (kind : s.kind n = .washer) (cls : s.slotCls n = some c) (hn : s.hold n = some h) :
    ((s.startRunning n).slot n).bare = { (s.slot n).bare with
      run := 0, phase := (s.slot n).view.phase, heatReq := (s.slot n).view.heat,
      warning := (s.slot n).warning || decide (h.snap.planned ≤ 60 * (s.cls c).warning) } := by
  have planned : s.planned n = h.snap.planned := by unfold State.planned; rw [hn]; rfl
  have near (x : Slot) (start : x.run = 0) :
      s.estimateAt n x ≤ 60 * ((s.cls c).warning : Int) ↔ h.snap.planned ≤ 60 * (s.cls c).warning := by
    unfold State.estimateAt
    rw [kind, planned, start]
    dsimp only
    omega
  rw [startRunning_form, kind, enterRunning_warned cls _ rfl, decide_eq_decide.2 (near _ rfl)]
  rfl

theorem startRunning_dryer (kind : s.kind n = .dryer) (cls : s.slotCls n = some c) (hn : s.hold n = some h) :
    ((s.startRunning n).slot n).bare = { (s.slot n).bare with
      remaining := h.snap.planned, cool := (s.cls c).cool, phase := .dry, heatReq := true,
      warning := (s.slot n).warning ||
        decide (h.snap.planned + 60 * (s.slot n).topUp + (s.cls c).cool ≤ 60 * (s.cls c).warning) } := by
  have planned : s.planned n = h.snap.planned := by unfold State.planned; rw [hn]; rfl
  have cool : s.coolTime n = (s.cls c).cool := by unfold State.coolTime; rw [cls]
  have near (x : Slot) : s.estimateAt n x ≤ 60 * ((s.cls c).warning : Int) ↔
      x.remaining + 60 * x.topUp + x.cool ≤ 60 * (s.cls c).warning := by
    unfold State.estimateAt
    rw [kind]
    dsimp only
    omega
  rw [startRunning_form, kind, planned, cool, enterRunning_warned cls _ rfl, decide_eq_decide.2 (near _)]
  rfl

theorem Slot.heatReq_of_bare {x y : Slot} (h : x.bare = y.bare) : x.heatReq = y.heatReq := by
  have req := congrArg Slot.heatReq h
  exact req

/-- Heat is asked for where a slot that runs wants it (R14, R210). -/
theorem askIfWanted_asks (w : Whole s) (cls : s.slotCls n = some c) (state : (s.slot n).state = .running) (hu : ¬ s.asked n) :
    ((s.askIfWanted n).slot n).state.heated ∧ ((s.askIfWanted n).asked n ↔ ((s.askIfWanted n).slot n).heatReq = true) ∧
      ((s.askIfWanted n).slot n).bare = (s.slot n).bare := by
  unfold State.askIfWanted
  split
  · next wanted =>
    obtain ⟨heated, asked, bare⟩ := askHeat_asks w cls state
    have req : ((s.askHeat [n]).slot n).heatReq = (s.slot n).heatReq := Slot.heatReq_of_bare (bare n)
    exact ⟨heated, iff_of_true asked (req.trans wanted), bare n⟩
  · next content => exact ⟨.inl state, iff_of_false hu content, rfl⟩

/-- A slot locked goes to RUNNING (R14). -/
theorem enterRunning_runs (w : Whole s) (cls : s.slotCls n = some c) (state : (s.slot n).state = .locking) :
    ((s.enterRunning n).slot n).state.heated ∧
      ((s.enterRunning n).asked n ↔ ((s.enterRunning n).slot n).heatReq = true) ∧
      ((s.enterRunning n).slot n).bare = ((s.startRunning n).slot n).bare := by
  have cold : (s.slot n).state.cold := state ▸ cold_locking
  have unasked := (Law.unasked w (n := n) id cold).1
  obtain ⟨whole, running⟩ := Whole.startRunning w cold (by rw [state]; rfl)
  have cfg := (((Calm.refl s).startRunning n).slots n).1
  have cls' : (s.startRunning n).slotCls n = some c := by rw [← cls]; unfold State.slotCls; rw [cfg]
  exact askIfWanted_asks whole cls' running (startRunning_own s n unasked).1

/-- A door OPEN and not LOCKED takes a slot back to ARMED (R13). -/
theorem armAgain_arms (w : Whole s) (state : (s.slot n).state = .locking) (d : Display) :
    (((s.enterTold n .armed).showLasting n d).slot n).state = .armed ∧
      (((s.enterTold n .armed).showLasting n d).slot n).timer = some (s.elapsed + 180) ∧
      (((s.enterTold n .armed).showLasting n d).slot n).outputs = ⟨false, false, false⟩ ∧
      (((s.enterTold n .armed).showLasting n d).slot n).bare = (s.slot n).bare := by
  have unasked := (Law.unasked w (n := n) id (state ▸ cold_locking)).1
  rw [slot_of_slots (showLasting_slots n d), enterTold_slot n n .armed unasked, if_pos rfl]
  exact ⟨rfl, rfl, rfl, rfl⟩

end

end Sys2Proof.Machine

namespace Sys2Proof.Machine

section
variable {s : State} {n : Fin 24} {c : Fin 4} {before v : View}

/-! ### The state with a report taken -/

/-- What a report taken leaves for the slot's state to act on. -/
structure TakenAs (s : State) (n : Fin 24) (v : View) (u : State) : Prop where
  took : s.took n v u
  whole : Whole s → Whole u
  calm : Calm s u
  state : (u.slot n).state = (s.slot n).state
  view : (u.slot n).view = v
  kind : u.kind n = s.kind n
  hold : u.hold n = s.hold n
  cls : u.slotCls n = s.slotCls n
  settings : u.settings = s.settings
  elapsed : u.elapsed = s.elapsed

theorem taken_is (s : State) (n : Fin 24) (v : View) : TakenAs s n v (s.taken n v) := by
  have took := taken_took s n v
  have quiet : Quiet s (s.taken n v) := ((Quiet.refl s).takeView n v).latchReport n v
  have calm : Calm s (s.taken n v) := ((Calm.refl s).takeView n v).latchReport n v
  have slot := took.slot
  have settings : (s.taken n v).settings = s.settings := by
    have same := congrArg State.settings took.rest
    exact same
  have elapsed : (s.taken n v).elapsed = s.elapsed := by
    have same := congrArg State.elapsed took.rest
    exact same
  generalize s.taken n v = u at *
  have cfg : (u.slot n).cfg = (s.slot n).cfg := by rw [slot]
  exact ⟨took, fun w => Law.quiet w quiet, calm, by rw [slot], by rw [slot], kind_congr cfg settings, hold_of_calm calm n, by
    unfold State.slotCls; rw [cfg], settings, elapsed⟩

/-- A report that raises no fault and meets no RECOVERING slot. -/
theorem report_acts (state : (s.slot n).state ≠ .recovering) (shut : ¬ s.forces n before v) (sound : ¬ before.errs v) :
    s.report n before v = (s.taken n v).reportAct n (s.slot n).heatReq v := by
  have same := (taken_is s n v).state
  rw [report_eq, if_neg state]
  refine actOn_none ?_ sound _
  unfold State.forces
  rw [same]
  exact shut

/-! ### A report by the state of its slot (R13, R14, R16, R17, R28, R29) -/

section
variable {u : State} (k : TakenAs s n v u) (w : Whole s) (cls : s.slotCls n = some c)
include k

theorem report_still (was : Bool) (state : (s.slot n).state = .unconfigured ∨ (s.slot n).state = .outOfService ∨ (s.slot n).state = .idle ∨
    (s.slot n).state = .reserved ∨ (s.slot n).state = .armed ∨ (s.slot n).state = .suspended) : u.reportAct n was v = u := by
  unfold State.reportAct
  rcases state with e | e | e | e | e | e <;> rw [k.state, e]

include w in
include cls in
theorem report_locked {h : Hold} (hn : s.hold n = some h) (state : (s.slot n).state = .locking) (lock : v.lock = .locked)
    (door : v.doorOpen = false) (was : Bool) : let t := u.reportAct n was v
    (t.slot n).state.heated ∧ t.hold n = some h ∧ s.booksKept t ∧
      (match s.kind n with
        | .washer => (t.slot n).bare = { (u.slot n).bare with
            run := 0, phase := v.phase, heatReq := v.heat,
            warning := (s.slot n).warning || decide (h.snap.planned ≤ 60 * (s.cls c).warning) }
        | .dryer => (t.slot n).bare = { (u.slot n).bare with
            remaining := h.snap.planned, cool := (s.cls c).cool, phase := .dry, heatReq := true,
            warning := (s.slot n).warning ||
              decide (h.snap.planned + 60 * (s.slot n).topUp + (s.cls c).cool ≤ 60 * (s.cls c).warning) }) ∧
      (t.asked n ↔ (t.slot n).heatReq = true) := by
  have step : u.reportAct n was v = u.enterRunning n := by
    unfold State.reportAct State.lockingReport
    rw [k.state, state]
    dsimp only
    rw [lock, door]
  have calm := k.calm.enterRunning n
  have cls' := k.cls.trans cls
  have hold := k.hold.trans hn
  have class' : u.cls c = s.cls c := by unfold State.cls; rw [k.settings]
  have warned : (u.slot n).warning = (s.slot n).warning := by rw [k.took.slot]
  have topUp : (u.slot n).topUp = (s.slot n).topUp := by rw [k.took.slot]
  obtain ⟨heated, asked, bare⟩ := enterRunning_runs (k.whole w) cls' (k.state.trans state)
  dsimp only
  rw [step]
  refine ⟨heated, (hold_of_calm calm n).trans hn, calm.booksKept, ?_, asked⟩
  rw [bare, ← class', ← warned, ← topUp]
  cases kind : s.kind n with
  | washer => rw [startRunning_washer (k.kind.trans kind) cls' hold, k.view]
  | dryer => rw [startRunning_dryer (k.kind.trans kind) cls' hold]

include w in
theorem report_open (state : (s.slot n).state = .locking) (lock : v.lock ≠ .locked) (door : v.doorOpen = true) (was : Bool) :
    let t := u.reportAct n was v
    (t.slot n).state = .armed ∧ (t.slot n).timer = some (s.elapsed + 180) ∧ (t.slot n).outputs = ⟨false, false, false⟩ ∧
      (t.slot n).bare = (u.slot n).bare ∧ s.booksKept t := by
  have step : u.reportAct n was v = (u.enterTold n .armed).showLasting n ⟨.closeDoor, 0⟩ := by
    unfold State.reportAct State.lockingReport
    rw [k.state, state]
    dsimp only
    rw [door]
    cases e : v.lock with
    | locked => exact absurd e lock
    | unlocked => rfl
    | moving => rfl
  have calm := (k.calm.enterTold n .armed).showLasting n ⟨.closeDoor, 0⟩
  obtain ⟨armed, timer, outputs, bare⟩ := armAgain_arms (k.whole w) (k.state.trans state) ⟨.closeDoor, 0⟩
  rw [k.elapsed] at timer
  dsimp only
  rw [step]
  exact ⟨armed, timer, outputs, bare, calm.booksKept⟩

theorem report_waits (state : (s.slot n).state = .locking)
    (seen : v.doorOpen = true ∧ v.lock = .locked ∨ v.doorOpen = false ∧ v.lock ≠ .locked) (was : Bool) :
    u.reportAct n was v = u := by
  unfold State.reportAct State.lockingReport
  rw [k.state, state]
  dsimp only
  rcases seen with ⟨door, lock⟩ | ⟨door, lock⟩
  · rw [door, lock]
  · rw [door]
    cases e : v.lock with
    | locked => exact absurd e lock
    | unlocked => rfl
    | moving => rfl

theorem report_dryer (state : (s.slot n).state.heated) (kind : s.kind n = .dryer) (was : Bool) : u.reportAct n was v = u := by
  unfold State.reportAct
  rw [k.kind, kind]
  rcases state with e | e <;> rw [k.state, e] <;> exact if_neg nofun

theorem report_washer (state : (s.slot n).state.heated) (kind : s.kind n = .washer) (was : Bool) : u.reportAct n was v =
    if v.status = .done then u.cycleEnd n .completed none .finishing else u.heatChange n was := by
  unfold State.reportAct
  rw [k.kind, kind]
  rcases state with e | e <;> rw [k.state, e] <;> exact if_pos rfl

include w in
include cls in
theorem report_washes (state : (s.slot n).state.heated) (kind : s.kind n = .washer) :
    let t := u.reportAct n (s.slot n).heatReq v
    (v.status = .done → ∀ h, s.hold n = some h → u.cycleEnded n h .completed none .finishing t) ∧
    (v.status ≠ .done →
      (v.heat = (s.slot n).heatReq → t = u) ∧
      (v.heat = true → (s.slot n).heatReq = false → (s.slot n).state = .running →
        (t.slot n).state.heated ∧ t.asked n ∧ s.booksKept t ∧ (t.slot n).bare = (u.slot n).bare) ∧
      (v.heat = false → (s.slot n).heatReq = true → (s.slot n).state = .awaitPower ∨ (s.slot n).heatGrant = true →
        (t.slot n).state = .running ∧ ¬ t.asked n ∧ (t.slot n).outputs = ⟨true, true, false⟩ ∧ s.booksKept t ∧
        (t.slot n).bare = (u.slot n).bare)) := by
  have req : (u.slot n).heatReq = v.heat := by rw [k.took.slot, if_pos kind]
  have grant : (u.slot n).heatGrant = (s.slot n).heatGrant := by rw [k.took.slot]
  have wu := k.whole w
  dsimp only
  rw [report_washer k state kind]
  refine ⟨fun done h hn => ?_, fun going => ⟨fun same => ?_, fun rises was run => ?_, fun falls was asks => ?_⟩⟩
  · rw [if_pos done]
    exact cycleEnd_ended wu n h (k.hold.trans hn) .completed none (st := .finishing) rfl nofun
  · rw [if_neg going]
    exact heatChange_same _ (req.trans same)
  · have run' := k.state.trans run
    rw [if_neg going, was, heatChange_rises run' (req.trans rises)]
    obtain ⟨heated, asked, bare⟩ := askHeat_asks wu (k.cls.trans cls) run'
    exact ⟨heated, asked, (k.calm.askHeat [n]).booksKept, bare n⟩
  · rw [if_neg going, was]
    by_cases granted : (s.slot n).heatGrant = true
    · have run' : (u.slot n).state = .running := by
        obtain ⟨flag, runs, -⟩ := wu.heat n id
        exact runs (flag.1 (grant.trans granted))
      rw [heatChange_granted run' (req.trans falls) (grant.trans granted)]
      obtain ⟨running, asked, outputs, bare⟩ := giveUpGrant_runs run'
      exact ⟨running, asked, outputs, (k.calm.giveUpGrant n).booksKept, bare n⟩
    · have wait := k.state.trans (asks.resolve_right granted)
      have flag : (u.slot n).heatGrant = false := grant.trans (Bool.eq_false_iff.2 granted)
      rw [heatChange_waiting wait (req.trans falls)]
      obtain ⟨running, asked, outputs, bare⟩ := withdraw_runs flag
      exact ⟨running, asked, outputs, ((k.calm.withdraw n).enter n .running).booksKept, bare n⟩

include w in
theorem report_settled (state : (s.slot n).state = .finishing ∨ (s.slot n).state = .faulted) (was : Bool) :
    let t := u.reportAct n was v
    t.unlocked n (s.slot n).state v ∧ (v.lock ≠ .unlocked → t = u) ∧ s.booksKept t ∧ (t.slot n).bare = (u.slot n).bare := by
  have state' := k.state ▸ state
  dsimp only
  rw [reportAct_settled state']
  by_cases lock : v.lock = .unlocked
  · rw [if_pos lock]
    exact ⟨confirmUnlock_unlocks (k.whole w) state' v k.view lock _, fun other => absurd lock other,
      (k.calm.confirmUnlock n).booksKept, (Bare.refl u).confirmUnlock n n⟩
  · rw [if_neg lock]
    refine ⟨?_, fun _ => rfl, k.calm.booksKept, rfl⟩
    unfold State.unlocked
    rw [if_neg lock]
    exact k.state

theorem report_collect (state : (s.slot n).state = .collect) (was : Bool) : let t := u.reportAct n was v
    (v.doorOpen = false → t = u) ∧ (v.doorOpen = true → u.offered n t ∧ s.booksKept t ∧ (t.slot n).bare = (u.slot n).bare) := by
  have step : u.reportAct n was v = if v.doorOpen then u.enterIdle n else u := by
    unfold State.reportAct
    rw [k.state, state]
  dsimp only
  rw [step]
  refine ⟨fun shut => by rw [shut]; rfl, fun door => ?_⟩
  rw [if_pos door]
  exact ⟨enterIdle_offered u n, (k.calm.enterIdle n).booksKept, (Bare.refl u).enterIdle n n⟩

end

end

end Sys2Proof.Machine

namespace Sys2Proof.Machine

section
variable {s t u b : State} {n : Fin 24} {c : Fin 4} {h : Hold} {before v : View}

/-! ### A settlement, as R210 says of it -/

/-- What a settlement record takes from the state, beside the slot's view. -/
structure Settles (n : Fin 24) (s b : State) : Prop where
  hold : b.hold n = s.hold n
  settlement : b.settlement = s.settlement
  run : (b.slot n).run = (s.slot n).run
  clock : b.clock = s.clock
  view : (b.slot n).view = (s.slot n).view

theorem Settles.trans (h : Settles n s b) (k : Settles n b t) : Settles n s t :=
  ⟨k.hold.trans h.hold, k.settlement.trans h.settlement, k.run.trans h.run, k.clock.trans h.clock, k.view.trans h.view⟩

theorem Settles.settledAs (k : Settles n s b) (hn : s.hold n = some h) {r : Reason} {f : Option (FaultCode × Option Nat)}
    {st : SlotState} (ended : b.cycleEnded n h r f st t) : s.settledAs n r f t := by
  refine ⟨(ended.holds n).trans (if_pos rfl), fun h' hn' => ?_⟩
  obtain rfl : h = h' := Option.some.inj (hn.symm.trans hn')
  have record : b.settlementRecord n h r f = s.settlementRecord n h r f := by
    unfold State.settlementRecord
    rw [k.settlement, k.run, k.clock]
  have records := congrArg SettlementQueue.records ended.queue
  rw [record, k.settlement] at records
  exact records

theorem State.settledAs.later {r : Reason} {f : Option (FaultCode × Option Nat)} (k : s.settledAs n r f t)
    (holds : u.holds = t.holds) (settlement : u.settlement = t.settlement) : s.settledAs n r f u := by
  refine ⟨?_, fun h hn => ?_⟩
  · rw [← k.hold]; simp only [State.hold, holds]
  · rw [settlement]; exact k.record h hn

/-- A cycle that a recovery ends, and the report then acted on (R28, R210). -/
theorem ended_acts (k : Settles n s b) (w : Whole b) (hn : s.hold n = some h) (view : (s.slot n).view = v) (r : Reason)
    {st : SlotState} (settled : st = .finishing ∨ st = .faulted) (was : Bool) :
    s.settledAs n r none ((b.cycleEnd n r none st).actOn n was before v) ∧
      ((b.cycleEnd n r none st).actOn n was before v).unlocked n st v := by
  have busy : st.busy = false := by rcases settled with e | e <;> rw [e] <;> rfl
  have reserved : st ≠ .reserved := by rcases settled with e | e <;> rw [e] <;> nofun
  have idle : st ≠ .idle := by rcases settled with e | e <;> rw [e] <;> nofun
  have ended := cycleEnd_ended w n h (k.hold.trans hn) r none busy reserved
  have whole := w.cycleEnd n r none busy
  have state : ((b.cycleEnd n r none st).slot n).state = st := by
    rcases ended.state with e | ⟨e, -⟩
    · exact e
    · exact absurd e idle
  have seen : ((b.cycleEnd n r none st).slot n).view = v := by
    have bare := congrArg Slot.view ended.slot
    exact bare.trans (k.view.trans view)
  have as := k.settledAs hn ended
  generalize b.cycleEnd n r none st = t at *
  obtain ⟨unlocked, holds, settlement⟩ := actOn_settled (before := before) whole (by rw [state]; exact settled) seen was
  rw [state] at unlocked
  exact ⟨as.later holds settlement, unlocked⟩

/-! ### The counters of a resumed slot (R210) -/

theorem recoverCounters_settles (s : State) (n : Fin 24) : Settles n s (s.recoverCounters n) := by
  have run (f : Slot → Slot) (hr : ∀ x, (f x).run = x.run) (hv : ∀ x, (f x).view = x.view) : Settles n s (s.modSlot n f) :=
    ⟨rfl, rfl, by rw [State.slot_modSlot_same, hr], rfl, by rw [State.slot_modSlot_same, hv]⟩
  unfold State.recoverCounters
  dsimp only
  split <;> exact run _ (fun _ => rfl) fun _ => rfl

theorem recoverCounters_washer (kind : s.kind n = .washer) : ((s.recoverCounters n).slot n) = { s.slot n with
    phase := (s.slot n).view.phase, heatReq := (s.slot n).view.heat } := by
  unfold State.recoverCounters
  rw [kind]
  exact State.slot_modSlot_same s n _

theorem recoverCounters_dryer (kind : s.kind n = .dryer) (cls : s.slotCls n = some c) (hn : s.hold n = some h) {q : Nat}
    (hq : q = h.snap.planned + 60 * h.steps * h.snap.step) : (s.recoverCounters n).slot n = { s.slot n with
      remaining := q - (s.slot n).run, topUp := 0, cool := (s.cls c).cool, phase := if (s.slot n).run < q then .dry else .cool,
      heatReq := decide ((s.slot n).run < q) } := by
  have cool : s.coolTime n = (s.cls c).cool := by unfold State.coolTime; rw [cls]
  unfold State.recoverCounters
  rw [kind, cool, hn, hq]
  exact State.slot_modSlot_same s n _

/-! ### A cycle found still running (R210) -/

/-- What the decision of a slot found running makes of it, its counters set in `r`, where its cycle goes on. -/
structure Resumes (n : Fin 24) (s r t : State) : Prop where
  whole : Whole t
  settles : Settles n s t
  state : (t.slot n).state.heated ∨ (t.slot n).state = .suspended
  bare : (t.slot n).bare = { (r.slot n).bare with
    resume := if (t.slot n).state = .suspended then some .running else (s.slot n).resume }

theorem outside_clock (h : s.outside = t.outside) : s.clock = t.clock := by
  have same := congrArg State.clock h
  exact same

theorem recoverCounters_resume (s : State) (n : Fin 24) : ((s.recoverCounters n).slot n).resume = (s.slot n).resume := by
  have kept (f : Slot → Slot) (hf : ∀ x, (f x).resume = x.resume) : ((s.modSlot n f).slot n).resume = (s.slot n).resume := by
    rw [State.slot_modSlot_same, hf]
  unfold State.recoverCounters
  dsimp only
  split <;> exact kept _ fun _ => rfl

section
variable (w : Whole s) (state : (s.slot n).state = .recovering) (cls : s.slotCls n = some c)
include w state

include cls in
/-- In a room that is neither SUSPENDED nor HELD the slot runs. -/
theorem recoverRunning_runs (room : ¬ (s.room.state = .suspended ∨ s.room.state = .held)) :
    ((s.recoverRunning n).slot n).state.heated ∧
      ((s.recoverRunning n).asked n ↔ ((s.recoverRunning n).slot n).heatReq = true) ∧
        Resumes n s (s.recoverCounters n) (s.recoverRunning n) := by
  have whole := Whole.recoverRunning w state
  have quiet := (Quiet.refl s).recoverCounters n
  have calm := (Calm.refl s).recoverCounters n
  have counted := recoverCounters_settles s n
  have resume := recoverCounters_resume s n
  have wc := Law.quiet w quiet
  have same : (s.recoverCounters n).room = s.room := by
    unfold State.recoverCounters
    dsimp only
    split <;> rfl
  have recovering : ((s.recoverCounters n).slot n).state = .recovering := (quiet.state n).trans state
  have unasked := (Law.unasked wc (n := n) id (recovering ▸ cold_recovering)).1
  have step : s.recoverRunning n = ((s.recoverCounters n).enter n .running).askIfWanted n := by
    unfold State.recoverRunning
    dsimp only
    rw [same]
    exact if_neg room
  rw [step] at whole ⊢
  generalize s.recoverCounters n = r at *
  have entered := Law.move wc (st := .running) (recovering ▸ cold_recovering) (recovering ▸ rfl)
  obtain ⟨notYet, running⟩ := enter_own r n .running unasked
  have ran := (Calm.refl r).enter n .running
  have cls' : (r.enter n .running).slotCls n = some c := by
    rw [← cls]
    unfold State.slotCls
    rw [(ran.slots n).1, (calm.slots n).1]
  obtain ⟨heated, asked, bare⟩ := askIfWanted_asks entered cls' running notYet
  have kept := bare.trans ((Bare.refl r).enter n .running n)
  have done := ran.askIfWanted n
  have moving : ((((r.enter n .running).askIfWanted n).slot n).state = .suspended) = False := by
    refine eq_false fun e => ?_
    rw [e] at heated
    rcases heated with k | k <;> cases k
  refine ⟨heated, asked, whole, counted.trans ⟨hold_of_calm done n, done.booksKept.settlement, ?_, ?_, ?_⟩, .inl heated, ?_⟩
  · have run := congrArg Slot.run kept
    exact run
  · exact outside_clock (((Acts.refl r).enter n .running).askIfWanted n).outside
  · have view := congrArg Slot.view kept
    exact view
  · rw [kept]
    simp only [moving, if_false]
    rw [← resume]
    rfl

omit w state in
theorem recoverRunning_halts (s : State) (n : Fin 24) (room : s.room.state = .suspended ∨ s.room.state = .held) :
    s.recoverRunning n = if s.room.timer = .reached then
      (((s.recoverCounters n).modSlot n fun x => { x with resume := some .running }).enter n .suspended).cycleEnd n .abandoned
        none .finishing
    else ((s.recoverCounters n).modSlot n fun x => { x with resume := some .running }).enter n .suspended := by
  have same : (s.recoverCounters n).room = s.room := by
    unfold State.recoverCounters
    dsimp only
    split <;> rfl
  have halted : (((s.recoverCounters n).modSlot n fun x => { x with resume := some .running }).enter n .suspended).room =
      s.room := (room_of_aside (aside_enter n .suspended)).trans same
  unfold State.recoverRunning
  dsimp only
  rw [halted, same, if_pos room]

/-- In a SUSPENDED or HELD room the slot is SUSPENDED. -/
theorem recoverCounters_halts : Resumes n s (s.recoverCounters n)
      (((s.recoverCounters n).modSlot n fun x => { x with resume := some .running }).enter n .suspended) ∧
    ((((s.recoverCounters n).modSlot n fun x => { x with resume := some .running }).enter n .suspended).slot n).state =
      .suspended := by
  have quiet := (Quiet.refl s).recoverCounters n
  have counted := recoverCounters_settles s n
  have wc := Law.quiet w quiet
  have recovering : ((s.recoverCounters n).slot n).state = .recovering := (quiet.state n).trans state
  generalize s.recoverCounters n = r at *
  have marked : (r.modSlot n fun x => { x with resume := some .running }).slot n = { r.slot n with resume := some .running } :=
    State.slot_modSlot_same r n _
  have q : Quiet r (r.modSlot n fun x => { x with resume := some .running }) :=
    (Quiet.refl r).modSlot n (fun x => { x with resume := some .running }) fun _ => ⟨rfl, rfl⟩
  have books : (r.modSlot n fun x => { x with resume := some .running }).hold n = r.hold n ∧
      (r.modSlot n fun x => { x with resume := some .running }).settlement = r.settlement ∧
      (r.modSlot n fun x => { x with resume := some .running }).clock = r.clock := ⟨rfl, rfl, rfl⟩
  have wm := Law.quiet wc q
  have held : ((r.modSlot n fun x => { x with resume := some .running }).slot n).state = .recovering := by
    rw [marked]; exact recovering
  generalize (r.modSlot n fun x => { x with resume := some .running }) = m at *
  have entered := State.enter_slot (s := m) n .suspended n
  rw [if_pos rfl, marked] at entered
  have whole := Law.move wm (st := .suspended) (held ▸ cold_recovering) (held ▸ rfl)
  have calm := (Calm.refl m).enter n .suspended
  obtain ⟨hold, settlement, clock⟩ := books
  have settles : Settles n r (m.enter n .suspended) := ⟨(hold_of_calm calm n).trans hold,
    calm.booksKept.settlement.trans settlement, by rw [entered],
    (outside_clock ((Acts.refl m).enter n .suspended).outside).trans clock, by rw [entered]⟩
  have suspended : ((m.enter n .suspended).slot n).state = .suspended := by rw [entered]
  refine ⟨⟨whole, counted.trans settles, .inr suspended, ?_⟩, suspended⟩
  rw [suspended, if_pos rfl, entered]
  rfl

end

end

end Sys2Proof.Machine

namespace Sys2Proof.Machine

section
variable {s t u r g : State} {n : Fin 24} {c : Fin 4} {h : Hold} {before v : View}

/-! ### The decision of a RECOVERING slot (R210) -/

theorem recover_running (view : (s.slot n).view = v) (status : v.status = .running) (free : (s.slot n).causes.isEmpty = true) :
    s.recover n = s.recoverRunning n := by
  unfold State.recover
  dsimp only
  rw [view, status]
  exact if_pos free

theorem recover_outage (view : (s.slot n).view = v) (lost : v.status = .running ∧ (s.slot n).causes.isEmpty = false ∨
    v.status = .idle ∨ v.status = .error ∨ v.status = .done ∧ s.kind n = .dryer) :
    s.recover n = s.cycleEnd n .outage none .faulted := by
  unfold State.recover
  dsimp only
  rw [view]
  rcases lost with ⟨status, held⟩ | status | status | ⟨status, kind⟩
  · rw [status]
    exact if_neg (by rw [held]; exact Bool.false_ne_true)
  · rw [status]
  · rw [status]
  · rw [status, kind]

theorem recover_complete (view : (s.slot n).view = v) (status : v.status = .done) (kind : s.kind n = .washer) :
    s.recover n = s.cycleEnd n .outageComplete none .finishing := by
  unfold State.recover
  dsimp only
  rw [view, status, kind]

/-! ### The report that decided, acted on (R22, R210) -/

/-- A cycle found running goes on where the report shows no door forced anew. -/
theorem resumes_still (k : Resumes n s r g) (status : v.status = .running) (shut : before.forced = true ∨ v.forced = false) :
    g.actOn n (g.slot n).heatReq before v = g := by
  have quiet : ¬ g.forces n before v := by
    rintro ⟨now, was, -⟩
    rcases shut with e | e
    · rw [e] at was; cases was
    · rw [e] at now; cases now
  have sound : ¬ before.errs v := by
    rintro ⟨e, -⟩
    rw [status] at e; cases e
  have washer : (if v.status = .done then g.cycleEnd n .completed none .finishing else g.heatChange n (g.slot n).heatReq) = g := by
    rw [if_neg (by rw [status]; nofun)]
    exact heatChange_same _ rfl
  rw [actOn_none quiet sound]
  unfold State.reportAct
  rcases k.state with (e | e) | e <;> rw [e]
  · dsimp only
    split
    · exact washer
    · rfl
  · dsimp only
    split
    · exact washer
    · rfl

/-- One whose door is forced ends at once (log 15). -/
theorem resumes_forced (k : Resumes n s r g) (hn : s.hold n = some h) (now : v.forced = true) (was : before.forced = false)
    (b : Bool) : s.settledAs n .userStop (some (.doorForced, none)) (g.actOn n b before v) ∧
      ((g.actOn n b before v).slot n).state = .faulted := by
  have forced : g.forces n before v := by
    refine ⟨now, was, ?_⟩
    rcases k.state with (e | e) | e <;> rw [e] <;> rfl
  obtain ⟨ended, state, -⟩ := actOn_forced k.whole (k.settles.hold.trans hn) forced b
  exact ⟨k.settles.settledAs hn ended, state⟩

section
variable (k : TakenAs s n v u)
include k

theorem TakenAs.room : u.room = s.room := by
  have same := congrArg State.room k.took.rest
  exact same

theorem TakenAs.settledAs {r : Reason} {f : Option (FaultCode × Option Nat)} (e : u.settledAs n r f t) : s.settledAs n r f t := by
  have settlement : u.settlement = s.settlement := by
    have same := congrArg State.settlement k.took.rest
    exact same
  have clock : u.clock = s.clock := by
    have same := congrArg State.clock k.took.rest
    exact same
  have run : (u.slot n).run = (s.slot n).run := by rw [k.took.slot]
  refine ⟨e.hold, fun h hn => ?_⟩
  have record := e.record h (k.hold.trans hn)
  have same : u.settlementRecord n h r f = s.settlementRecord n h r f := by
    unfold State.settlementRecord
    rw [settlement, run, clock]
  rw [← same, ← settlement]
  exact record

/-- The counters of a resumed slot are those of the report and of its hold (R210). -/
theorem resumes_bare (cls : s.slotCls n = some c) (hn : s.hold n = some h)
    (e : Resumes n u (u.recoverCounters n) t) : t.hold n = some h ∧
      (match s.kind n with
        | .washer => (t.slot n).bare = { (u.slot n).bare with
            phase := v.phase, heatReq := v.heat,
            resume := if (t.slot n).state = .suspended then some .running else (s.slot n).resume }
        | .dryer => ∀ q, q = h.snap.planned + 60 * h.steps * h.snap.step → (t.slot n).bare = { (u.slot n).bare with
            remaining := q - (s.slot n).run, topUp := 0, cool := (s.cls c).cool,
            phase := if (s.slot n).run < q then .dry else .cool, heatReq := decide ((s.slot n).run < q),
            resume := if (t.slot n).state = .suspended then some .running else (s.slot n).resume }) := by
  have hold := k.hold.trans hn
  have run : (u.slot n).run = (s.slot n).run := by rw [k.took.slot]
  have resume : (u.slot n).resume = (s.slot n).resume := by rw [k.took.slot]
  have class' : u.cls c = s.cls c := by unfold State.cls; rw [k.settings]
  refine ⟨e.settles.hold.trans hold, ?_⟩
  rw [e.bare, resume]
  cases kind : s.kind n with
  | washer =>
    rw [recoverCounters_washer (k.kind.trans kind), k.view]
    rfl
  | dryer =>
    intro q hq
    rw [recoverCounters_dryer (k.kind.trans kind) (k.cls.trans cls) hold hq, run, class']
    rfl

end

end

end Sys2Proof.Machine

namespace Sys2Proof.Machine

section
variable {s u : State} {n : Fin 24} {c : Fin 4} {h : Hold} {before v : View}

/-! ### A report at a RECOVERING slot (R210) -/

section
variable (k : TakenAs s n v u) (w : Whole s) (state : (s.slot n).state = .recovering) (hn : s.hold n = some h)
include k w hn

theorem recovered_outage (lost : v.status = .running ∧ (s.slot n).causes.isEmpty = false ∨ v.status = .idle ∨ v.status = .error ∨
    v.status = .done ∧ s.kind n = .dryer) : let t := (u.recover n).actOn n ((u.recover n).slot n).heatReq before v
    s.settledAs n .outage none t ∧ t.unlocked n .faulted v := by
  have causes : (u.slot n).causes = (s.slot n).causes := by rw [k.took.slot]
  rw [← causes, ← k.kind] at lost
  rw [recover_outage k.view lost]
  obtain ⟨settled, unlocked⟩ := ended_acts (before := before) ⟨rfl, rfl, rfl, rfl, rfl⟩ (k.whole w) (k.hold.trans hn) k.view .outage
    (.inr rfl) ((u.cycleEnd n .outage none .faulted).slot n).heatReq
  exact ⟨k.settledAs settled, unlocked⟩

theorem recovered_complete (status : v.status = .done) (kind : s.kind n = .washer) :
    let t := (u.recover n).actOn n ((u.recover n).slot n).heatReq before v
    s.settledAs n .outageComplete none t ∧ t.unlocked n .finishing v := by
  rw [recover_complete k.view status (k.kind.trans kind)]
  obtain ⟨settled, unlocked⟩ := ended_acts (before := before) ⟨rfl, rfl, rfl, rfl, rfl⟩ (k.whole w) (k.hold.trans hn) k.view
    .outageComplete (.inl rfl) ((u.cycleEnd n .outageComplete none .finishing).slot n).heatReq
  exact ⟨k.settledAs settled, unlocked⟩

include state

theorem recovered_abandoned (status : v.status = .running) (free : (s.slot n).causes.isEmpty = true)
    (room : s.room.state = .suspended ∨ s.room.state = .held) (timer : s.room.timer = .reached) :
    let t := (u.recover n).actOn n ((u.recover n).slot n).heatReq before v
    s.settledAs n .abandoned none t ∧ t.unlocked n .finishing v := by
  have causes : (u.slot n).causes = (s.slot n).causes := by rw [k.took.slot]
  have halts := (recoverCounters_halts (k.whole w) (k.state.trans state)).1
  rw [recover_running k.view status (causes ▸ free), recoverRunning_halts u n (k.room ▸ room), k.room, if_pos timer]
  obtain ⟨settled, unlocked⟩ := ended_acts (before := before) halts.settles halts.whole (k.hold.trans hn) k.view .abandoned
    (.inl rfl) (((((u.recoverCounters n).modSlot n fun x => { x with resume := some .running }).enter n
      .suspended).cycleEnd n .abandoned none .finishing).slot n).heatReq
  exact ⟨k.settledAs settled, unlocked⟩

omit hn in
/-- A slot found running whose cycle goes on, by the room's state (R210). -/
theorem recover_resumes (cls : s.slotCls n = some c) (status : v.status = .running) (free : (s.slot n).causes.isEmpty = true) :
    (s.room.state ≠ .suspended → s.room.state ≠ .held → ((u.recover n).slot n).state.heated ∧
      ((u.recover n).asked n ↔ ((u.recover n).slot n).heatReq = true)) ∧
    (s.room.state = .suspended ∨ s.room.state = .held → s.room.timer ≠ .reached → ((u.recover n).slot n).state = .suspended) ∧
    (s.room.state ≠ .suspended ∧ s.room.state ≠ .held ∨ s.room.timer ≠ .reached →
      Resumes n u (u.recoverCounters n) (u.recover n)) := by
  have causes : (u.slot n).causes = (s.slot n).causes := by rw [k.took.slot]
  have state' := k.state.trans state
  rw [recover_running k.view status (causes ▸ free)]
  by_cases room : s.room.state = .suspended ∨ s.room.state = .held
  · have halted (timer : s.room.timer ≠ .reached) : u.recoverRunning n =
        ((u.recoverCounters n).modSlot n fun x => { x with resume := some .running }).enter n .suspended := by
      rw [recoverRunning_halts u n (k.room ▸ room), k.room, if_neg timer]
    obtain ⟨resumes, suspended⟩ := recoverCounters_halts (k.whole w) state'
    refine ⟨fun a b => (room.elim a b).elim, fun _ timer => ?_, fun on => ?_⟩
    · rw [halted timer]; exact suspended
    · rw [halted (on.resolve_left fun e => room.elim e.1 e.2)]; exact resumes
  · obtain ⟨heated, asked, resumes⟩ := recoverRunning_runs (k.whole w) state' (k.cls.trans cls) (k.room ▸ room)
    exact ⟨fun _ _ => ⟨heated, asked⟩, fun e => absurd e room, fun _ => resumes⟩

end

/-- The decision of a RECOVERING slot, and the report then acted on (R210). -/
theorem report_recovers (w : Whole s) (cls : s.slotCls n = some c) (state : (s.slot n).state = .recovering)
    (hn : s.hold n = some h) (k : TakenAs s n v u) {t : State}
    (step : t = (u.recover n).actOn n ((u.recover n).slot n).heatReq before v) : let x := s.slot n
    (v.status = .running → x.causes.isEmpty = true → before.forced = true ∨ v.forced = false →
      (s.room.state ≠ .suspended → s.room.state ≠ .held → (t.slot n).state.heated ∧ (t.asked n ↔ (t.slot n).heatReq = true)) ∧
      (s.room.state = .suspended ∨ s.room.state = .held →
        (s.room.timer ≠ .reached → (t.slot n).state = .suspended) ∧
        (s.room.timer = .reached → s.settledAs n .abandoned none t ∧ t.unlocked n .finishing v)) ∧
      (s.room.state ≠ .suspended ∧ s.room.state ≠ .held ∨ s.room.timer ≠ .reached → t.hold n = some h ∧
        (match s.kind n with
          | .washer => (t.slot n).bare = { (u.slot n).bare with
              phase := v.phase, heatReq := v.heat,
              resume := if (t.slot n).state = .suspended then some .running else x.resume }
          | .dryer => ∀ q, q = h.snap.planned + 60 * h.steps * h.snap.step → (t.slot n).bare = { (u.slot n).bare with
              remaining := q - x.run, topUp := 0, cool := (s.cls c).cool, phase := if x.run < q then .dry else .cool,
              heatReq := decide (x.run < q),
              resume := if (t.slot n).state = .suspended then some .running else x.resume }))) ∧
    (v.status = .running → x.causes.isEmpty = true → before.forced = false → v.forced = true →
      s.room.state ≠ .suspended ∧ s.room.state ≠ .held ∨ s.room.timer ≠ .reached →
      s.settledAs n .userStop (some (.doorForced, none)) t ∧ (t.slot n).state = .faulted) ∧
    (v.status = .running ∧ x.causes.isEmpty = false ∨ v.status = .idle ∨ v.status = .error ∨
        v.status = .done ∧ s.kind n = .dryer →
      s.settledAs n .outage none t ∧ t.unlocked n .faulted v) ∧
    (v.status = .done → s.kind n = .washer → s.settledAs n .outageComplete none t ∧ t.unlocked n .finishing v) := by
  subst step
  refine ⟨fun status free shut => ?_, fun status free was now on => ?_, fun lost => recovered_outage k w hn lost,
    fun status kind => recovered_complete k w hn status kind⟩
  · obtain ⟨runs, halts, resumes⟩ := recover_resumes k w state cls status free
    have still (on : s.room.state ≠ .suspended ∧ s.room.state ≠ .held ∨ s.room.timer ≠ .reached) :=
      resumes_still (resumes on) status shut
    refine ⟨fun a b => ?_, fun room => ⟨fun timer => ?_, fun timer => recovered_abandoned k w state hn status free room timer⟩,
      fun on => ?_⟩
    · rw [still (.inl ⟨a, b⟩)]; exact runs a b
    · rw [still (.inr timer)]; exact halts room timer
    · rw [still on]; exact resumes_bare k cls hn (resumes on)
  · obtain ⟨-, -, resumes⟩ := recover_resumes k w state cls status free
    obtain ⟨settled, faulted⟩ := resumes_forced (resumes on) (k.hold.trans hn) now was ((u.recover n).slot n).heatReq
    exact ⟨k.settledAs settled, faulted⟩

end

end Sys2Proof.Machine

namespace Sys2Proof.Machine

section
variable {s u : State} {n : Fin 24} {c : Fin 4} {before v : View}

/-! ### A report with a fault (R22, R23) -/

theorem report_faults (state : (s.slot n).state ≠ .recovering) : s.report n before v =
    (s.taken n v).actOn n (s.slot n).heatReq before v := by rw [report_eq, if_neg state]

/-- The faults that a report raises at a slot that is not RECOVERING. -/
theorem report_raises (k : TakenAs s n v u) (w : Whole s) (was : Bool) : let x := s.slot n
    let t := u.actOn n was before v
    (s.forces n before v → x.state.busy = true → ∀ h, s.hold n = some h →
      u.cycleEnded n h .userStop (some (.doorForced, none)) .faulted t ∧
        (¬ before.errs v → u.raisedAt n .doorForced none t)) ∧
    (s.forces n before v → x.state.busy = false → ¬ before.errs v →
      u.raisedAt n .doorForced none t ∧ s.holds = t.holds ∧ s.accounts = t.accounts) ∧
    (before.errs v → ¬ s.forces n before v → u.raisedAt n .machineError (some v.errorCode) t ∧
      (∀ h, s.hold n = some h → u.cycleEnded n h .fault (some (.machineError, some v.errorCode)) .faulted t) ∧
      (s.hold n = none → s.holds = t.holds ∧ s.accounts = t.accounts)) := by
  have forces : u.forces n before v ↔ s.forces n before v := by unfold State.forces; rw [k.state]
  have wu := k.whole w
  have books := k.calm.booksKept
  rw [← forces]
  refine ⟨fun forced _ h hn => ?_, fun forced free sound => ?_, fun errs shut => ?_⟩
  · obtain ⟨ended, -, raised⟩ := actOn_forced wu (k.hold.trans hn) forced was
    exact ⟨ended, raised⟩
  · obtain ⟨raised, holds, accounts⟩ := actOn_free doorForced_stopping none (reportFaults_forced forced sound)
      (k.state ▸ free) was
    exact ⟨raised, books.holds.symm.trans holds, books.accounts.symm.trans accounts⟩
  · cases hn : s.hold n with
    | some h =>
      obtain ⟨ended, raised⟩ := actOn_error wu (k.hold.trans hn) shut errs was
      exact ⟨raised, fun h' hn' => by obtain rfl := Option.some.inj hn'; exact ended, nofun⟩
    | none =>
      have free : (u.slot n).state.busy = false := by rw [← wu.busy n id, k.hold, hn]; rfl
      obtain ⟨raised, holds, accounts⟩ := actOn_free machineError_stopping (some v.errorCode) (reportFaults_errs shut errs)
        free was
      exact ⟨raised, nofun, fun _ => ⟨books.holds.symm.trans holds, books.accounts.symm.trans accounts⟩⟩

end

/-- Settles O10: the stages of a reply one by one, and a report by the state of its slot; a RECOVERING one is decided first. -/
theorem goodReplyIsHeard : Obligations.GoodReplyIsHeard := by
  unfold Obligations.GoodReplyIsHeard
  refine ⟨fun s t k chars r running turn good => terminalReply_heard running turn good, handReport_reports,
    fun s t heat busy => hearTerminal_hears heat busy t, takeTagged_takesOnce, handEvents_inOrder, ?_⟩
  intro s n c before v heat busy cls
  have w : Whole s := whole_iff.2 ⟨heat, busy⟩
  have k := taken_is s n v
  dsimp only
  refine ⟨s.taken n v, k.took, fun shut sound => ?_, ?_⟩
  · have acts (other : (s.slot n).state ≠ .recovering) := report_acts other shut sound
    refine ⟨fun state => ?_, fun state h hn => ?_, fun state kind => ?_, fun state kind => ?_, fun state => ?_, fun state => ?_⟩
    · rw [acts (by rcases state with e | e | e | e | e | e <;> rw [e] <;> nofun)]
      exact report_still k _ state
    · rw [acts (by rw [state]; nofun)]
      exact ⟨fun lock door => report_locked k w cls hn state lock door _, fun door lock => report_open k w state lock door _,
        fun seen => report_waits k state seen _⟩
    · rw [acts (by rcases state with e | e <;> rw [e] <;> nofun)]
      exact report_dryer k state kind _
    · rw [acts (by rcases state with e | e <;> rw [e] <;> nofun)]
      exact report_washes k w cls state kind
    · rw [acts (by rcases state with e | e <;> rw [e] <;> nofun)]
      exact report_settled k w state _
    · rw [acts (by rw [state]; nofun)]
      exact report_collect k state _
  · by_cases recovering : (s.slot n).state = .recovering
    · have firm : (s.slot n).state.forcible = false := by rw [recovering]; rfl
      refine ⟨fun doors => ?_, fun doors => ?_, fun _ _ other => absurd recovering other, fun _ h hn => ?_⟩
      iterate 2
        obtain ⟨-, -, forcible⟩ := doors
        rw [firm] at forcible
        cases forcible
      exact report_recovers w cls recovering hn k (by rw [report_eq, if_pos recovering])
    · rw [report_faults recovering]
      obtain ⟨cycle, free, error⟩ := report_raises k w (before := before) (s.slot n).heatReq
      exact ⟨cycle, free, fun errs shut _ => error errs shut, fun state => absurd state recovering⟩

end Sys2Proof.Machine

/-! ## The terminal bus: turns, misses, windows, brief displays (R36 to R44, R51) -/

namespace Sys2Proof.Machine

section
variable {s : State} {t : Fin 16}

/-- Settles O9: the deadline is reached, so the half reverts to its lasting display. -/
theorem briefDisplayEnds : Obligations.BriefDisplayEnds := by
  intro s t h d running brief due
  show execBriefDeadline t h s = _
  unfold execBriefDeadline
  rw [ifRunning_of running, if_pos (reached_of brief due)]
  rfl

/-! ### The contention window (R43, R44) -/

theorem filter_accepts (s : State) (t : Fin 16) : (some t).filter s.accepts =
    if (s.terminal t).presence = .present ∧ (s.terminal t).deferral = false then some t else none := by
  simp [Option.filter, State.accepts]

/-- Settles O8: the window spells an address when its start slot reads low, and R44 accepts it or not. -/
theorem contentionWindowIsRead : Obligations.ContentionWindowIsRead := by
  intro s start a3 a2 a1 a0 t running turn address
  have spelt : windowAddress start a3 a2 a1 a0 = if majority start = false then some t else none := by
    unfold windowAddress
    rw [← address, terminalOf_val]
    cases majority start <;> rfl
  have winner : (windowAddress start a3 a2 a1 a0).filter s.accepts =
      if majority start = false ∧ (s.terminal t).presence = .present ∧ (s.terminal t).deferral = false then some t else none := by
    rw [spelt, ite_and, ← filter_accepts]
    split <;> rfl
  simp only [exec, execContentionWindow, ifRunning_of running, turn, winner]

/-! ### Turns ahead of the rotation (R36, R44, R53) -/

theorem nextTurn_winner (h : s.bus.winner = some t) : s.nextTurn = some (.outOfTurn t, { s.bus with winner := none }) := by
  unfold State.nextTurn; rw [h]

theorem nextTurn_broadcast (none : s.bus.winner = none) (pending : s.bus.broadcast = true) :
    s.nextTurn = some (.broadcast, { s.bus with broadcast := false }) := by
  unfold State.nextTurn; rw [none]; exact if_pos pending

theorem nextTurn_rotation (none : s.bus.winner = none) (quiet : s.bus.broadcast = false) :
    s.nextTurn = chooseTurn (fun t => (s.terminal t).presence) 14 s.bus := by
  unfold State.nextTurn; rw [none]; exact if_neg (by rw [quiet]; decide)

/-- What the four commands of a turn make of the turn chosen (R36): each acts on its own kind alone. -/
def State.takesTurn (s : State) (c : Instr) : Turn × Bus → State
  | (.rotation t, b) => if c = .rotationPoll then s.poll b t .rotation else s
  | (.probe t, b) => if c = .probePoll then s.poll b t .probe else s
  | (.outOfTurn t, b) => if c = .outOfTurnPoll then s.poll b t .outOfTurn else s
  | (.broadcast, b) =>
    if c = .broadcastDisplay then { s with bus := { b with sent := broadcastFrame (s.room.state.display.getD .blank) } } else s

theorem exec_turn (running : s.life = .running) (between : s.bus.turn = .between) {x : Turn × Bus} (chosen : s.nextTurn = some x)
    {c : Instr} (turn : c = .rotationPoll ∨ c = .probePoll ∨ c = .outOfTurnPoll ∨ c = .broadcastDisplay) :
    exec c s = .next (s.takesTurn c x) := by
  obtain ⟨x, b⟩ := x
  rcases turn with rfl | rfl | rfl | rfl
  · show execRotationPoll s = _
    unfold execRotationPoll
    rw [ifRunning_of running, between, chosen]
    cases x <;> rfl
  · show execProbePoll s = _
    unfold execProbePoll
    rw [ifRunning_of running, between, chosen]
    cases x <;> rfl
  · show execOutOfTurnPoll s = _
    unfold execOutOfTurnPoll
    rw [ifRunning_of running, between, chosen]
    cases x <;> rfl
  · show execBroadcastDisplay s = _
    unfold execBroadcastDisplay
    rw [ifRunning_of running, between, chosen]
    cases x <;> rfl

/-- Settles O5: the turn chosen is the winner's poll, or the broadcast, and the commands of other turns do nothing. -/
theorem turnsAheadOfTheRotation : Obligations.TurnsAheadOfTheRotation := by
  intro s running between
  refine ⟨fun t winner => ?_, fun none pending => ?_⟩
  · have turn {c : Instr} := exec_turn (c := c) running between (nextTurn_winner winner)
    exact ⟨turn (by simp), turn (by simp), turn (by simp), turn (by simp)⟩
  · have turn {c : Instr} := exec_turn (c := c) running between (nextTurn_broadcast none pending)
    exact ⟨turn (by simp), turn (by simp), turn (by simp), turn (by simp)⟩

/-! ### Misses (R39, R40) -/

theorem miss_absent (h : (s.terminal t).presence ≠ .present) : s.miss t = s := if_pos h

/-- A miss below the third (R40). -/
theorem miss_counted (present : (s.terminal t).presence = .present) (few : (s.terminal t).misses < 2) :
    s.miss t = s.modTerminal t fun x => { x with misses := x.misses + 1 } := by
  unfold State.miss
  rw [if_neg (not_not.2 present)]
  dsimp only
  rw [if_pos (by rw [State.terminal_modTerminal, if_pos rfl]; dsimp only; omega)]

/-- The four ways in which an exchange ends without a good reply (R39). -/
theorem exec_missed {k : PollKind} {c : Instr} (running : s.life = .running) (turn : s.bus.turn = .exchange t k)
    (missed : c = .malformedReply ∨ c = .replyTimeout ∨ (∃ a, c = .frameGapTimeout .bus a) ∨
      ∃ chars, c = .terminalReply chars ∧ goodReply t chars = none) : exec c s = .next (s.miss t).endExchange := by
  have ends : s.missExchange = (s.miss t).endExchange := by unfold State.missExchange; rw [turn]
  rcases missed with rfl | rfl | ⟨a, rfl⟩ | ⟨chars, rfl, bad⟩
  · simp only [exec, execMalformedReply, ifRunning_of running, ends]
  · simp only [exec, execReplyTimeout, ifRunning_of running, ends]
  · simp only [exec, execFrameGapTimeout, ifRunning_of running, ends]
  · simp only [exec, execTerminalReply, ifRunning_of running, turn, bad, ends]

/-- Settles O6: the exchange ends in a miss, which a PRESENT terminal counts. -/
theorem missesAreCounted : Obligations.MissesAreCounted := by
  intro s t k c running turn missed
  rw [exec_missed running turn missed]
  exact ⟨fun absent => by rw [miss_absent absent]; rfl, fun present few => by rw [miss_counted present few]; rfl⟩

end
end Sys2Proof.Machine

/-! ## The rotation and its probes (R36 to R38) -/

namespace Sys2Proof.Machine

section
variable {presence : Fin 16 → Presence} {b : Bus} {t : Fin 16} {k : Nat}

/-! ### Searches in ascending order -/

/-- The first terminal in ascending order that meets a test. -/
theorem find_allTerminals {p : Fin 16 → Bool} : allTerminals.find? p = some t ↔ p t = true ∧ ∀ u < t, p u = false := by
  unfold allTerminals
  rw [List.find?_eq_some_iff_getElem]
  simp only [List.getElem_finRange, List.length_finRange, Fin.cast_mk, Bool.not_eq_true']
  constructor
  · rintro ⟨holds, i, hi, rfl, before⟩
    exact ⟨holds, fun u hu => before u hu⟩
  · exact fun ⟨holds, before⟩ => ⟨holds, t, t.isLt, rfl, fun j hj => before ⟨j, _⟩ hj⟩

theorem find_allTerminals_none {p : Fin 16 → Bool} : allTerminals.find? p = none ↔ ∀ u, p u = false := by
  simp [allTerminals]

/-! ### The next turn (R36, R37) -/

/-- A pass from its beginning polls the first PRESENT terminal. -/
theorem find_newPass : (passLeft 15).find? (fun t => presence t = .present) = some t ↔
    presence t = .present ∧ ∀ u < t, presence u ≠ .present := by
  rw [passLeft, if_pos rfl, find_allTerminals]
  simp

/-- A pass under way polls the first PRESENT terminal behind its position. -/
theorem find_pass {position : Fin 16} (under : position ≠ 15) :
    (passLeft position).find? (fun t => presence t = .present) = some t ↔
      position < t ∧ presence t = .present ∧ ∀ u < t, position < u → presence u ≠ .present := by
  rw [passLeft, if_neg under, List.find?_filter, find_allTerminals]
  simp [and_assoc]

theorem find_pass_none {position : Fin 16} (under : position ≠ 15) :
    (passLeft position).find? (fun t => presence t = .present) = none ↔ ∀ u, position < u → presence u ≠ .present := by
  rw [passLeft, if_neg under, List.find?_filter, find_allTerminals_none]
  simp

/-- The first terminal from the probe pointer on that is not PRESENT. -/
theorem find_fromPointer {pointer j : Fin 16} (absent : presence (pointer + j) ≠ .present)
    (before : ∀ i < j, presence (pointer + i) = .present) :
    (fromPointer pointer).find? (fun t => presence t ≠ .present) = some (pointer + j) := by
  unfold fromPointer
  rw [List.find?_map, find_allTerminals.2 ⟨by simpa using absent, fun i hi => by simpa using before i hi⟩]
  rfl

theorem allPresent_iff : allPresent presence = true ↔ ∀ u, presence u = .present := by
  simp [allPresent, allTerminals]

theorem chooseTurn_probe (due : b.probeDue = true) (found : (fromPointer b.pointer).find? (fun t => presence t ≠ .present) = some t) :
    chooseTurn presence (k + 1) b = some (.probe t, { b with probeDue := false, pointer := t + 1 }) := by
  rw [chooseTurn, if_pos due, found]; rfl

/-- A due probe lapses where every terminal is PRESENT (log 18). -/
theorem chooseTurn_lapses (due : b.probeDue = true) (all : ∀ u, presence u = .present) :
    chooseTurn presence (k + 1) b = chooseTurn presence k { b with probeDue := false } := by
  rw [chooseTurn, if_pos due, List.find?_eq_none.2 (by simp [all])]

theorem chooseTurn_rotation (free : b.probeDue = false)
    (found : (passLeft b.position).find? (fun t => presence t = .present) = some t) :
    chooseTurn presence (k + 1) b = some (.rotation t, if t = 15 then b.endRotation presence else { b with position := t }) := by
  rw [chooseTurn, if_neg (by simp [free]), found]

theorem chooseTurn_again (free : b.probeDue = false)
    (done : (passLeft b.position).find? (fun t => presence t = .present) = none) :
    chooseTurn presence (k + 1) b = chooseTurn presence k (b.endRotation presence) := by
  rw [chooseTurn, if_neg (by simp [free]), done]

theorem endRotation_few (few : b.count + 1 < 10) :
    b.endRotation presence = { b with position := 15, count := b.count + 1 } := if_pos few

theorem endRotation_ten (ten : 10 ≤ b.count + 1) :
    b.endRotation presence = { b with position := 15, count := 0, probeDue := !allPresent presence } := if_neg (by omega)

/-- The bus that a rotation's poll leaves: the poll of terminal 15 ends the rotation, and every tenth makes a probe due with some
terminal not PRESENT. -/
theorem rotated (free : b.probeDue = false) : (if t = 15 then b.endRotation presence else { b with position := t }) =
    { b with position := t, count := if t = 15 then (if b.count + 1 < 10 then b.count + 1 else 0) else b.count,
             probeDue := decide (t = 15 ∧ 10 ≤ b.count + 1 ∧ ∃ u, presence u ≠ .present) } := by
  by_cases last : t = 15
  · subst last
    rw [if_pos rfl, if_pos rfl]
    by_cases few : b.count + 1 < 10
    · rw [endRotation_few few, if_pos few, decide_eq_false (by omega), ← free]
    · rw [endRotation_ten (by omega), if_neg few]
      have due : (!allPresent presence) = decide ((15 : Fin 16) = 15 ∧ 10 ≤ b.count + 1 ∧ ∃ u, presence u ≠ .present) := by
        rw [Bool.eq_iff_iff]
        simp [← Bool.not_eq_true, allPresent_iff, Nat.le_of_not_lt few]
      rw [due]
  · rw [if_neg last, if_neg last, decide_eq_false (fun h => last h.1), ← free]

/-- With a probe that falls due at the end of this rotation, it is the next turn. -/
theorem chooseTurn_tenth (free : b.probeDue = false) (ten : 10 ≤ b.count + 1)
    (done : (passLeft b.position).find? (fun t => presence t = .present) = none)
    (found : (fromPointer b.pointer).find? (fun t => presence t ≠ .present) = some t) (absent : presence t ≠ .present) :
    chooseTurn presence (k + 2) b = some (.probe t, { b with position := 15, count := 0, pointer := t + 1 }) := by
  have due : (!allPresent presence) = true := by
    simp only [Bool.not_eq_true', ← Bool.not_eq_true, allPresent_iff]
    exact fun all => absent (all t)
  rw [chooseTurn_again free done, endRotation_ten ten, due]
  exact (chooseTurn_probe (b := { b with position := 15, count := 0, probeDue := true }) rfl found).trans (by rw [free])

/-- With no PRESENT terminal the rotations pass without a poll until the tenth makes a probe due. -/
theorem chooseTurn_none (none : ∀ u, presence u ≠ .present) {b : Bus} (free : b.probeDue = false) (enough : 9 ≤ b.count + k)
    (found : (fromPointer b.pointer).find? (fun t => presence t ≠ .present) = some t) :
    chooseTurn presence (k + 2) b = some (.probe t, { b with position := 15, count := 0, pointer := t + 1 }) := by
  have done (position : Fin 16) : (passLeft position).find? (fun t => presence t = .present) = Option.none :=
    List.find?_eq_none.2 fun u _ => by simpa using none u
  induction k generalizing b with
  | zero => exact chooseTurn_tenth free (by omega) (done _) found (none t)
  | succ k ih =>
    by_cases ten : 10 ≤ b.count + 1
    · exact chooseTurn_tenth free ten (done _) found (none t)
    · rw [chooseTurn_again free (done _), endRotation_few (by omega),
        ih (b := { b with position := 15, count := b.count + 1 }) free (by dsimp only; omega) found]

/-- With every terminal PRESENT a pass polls the address after its position. -/
theorem find_nextAddress (all : ∀ u, presence u = .present) (position : Fin 16) :
    (passLeft position).find? (fun t => presence t = .present) = some (position + 1) := by
  by_cases last : position = 15
  · subst last
    exact find_newPass.2 ⟨all _, fun u hu => absurd hu (Fin.not_lt_zero u)⟩
  · refine (find_pass last).2 ⟨?_, all _, fun u before behind => ?_⟩ <;> omega

end

section
variable {s : State}

/-- Settles O4: the turn that `chooseTurn` gives, case by case. -/
theorem pollTurns : Obligations.PollTurns := by
  intro s t running between noWinner quiet polls next first gone
  have chosen := nextTurn_rotation noWinner quiet
  have rotates {b : Bus} (h : chooseTurn (fun t => (s.terminal t).presence) 14 s.bus = some (.rotation t, b)) :
      exec .rotationPoll s = polls .rotation b := exec_turn running between (chosen.trans h) (by simp)
  have probes {b : Bus} (h : chooseTurn (fun t => (s.terminal t).presence) 14 s.bus = some (.probe t, b)) :
      exec .probePoll s = polls .probe b := exec_turn running between (chosen.trans h) (by simp)
  refine ⟨fun free => ⟨fun turn => ?_, fun under gone first few => ?_⟩, fun j target absent before => ⟨fun due => ?_, fun free turn => ?_⟩,
    fun due all target => ?_⟩
  · have found : (passLeft s.bus.position).find? (fun t => (s.terminal t).presence = .present) = some t := by
      rcases turn with ⟨behind, next⟩ | ⟨last, first⟩
      · exact (find_pass (by omega)).2 ⟨behind, next⟩
      · rw [last]; exact find_newPass.2 first
    exact rotates ((chooseTurn_rotation free found).trans (by rw [rotated free]))
  · have notLast : t ≠ 15 := by
      rintro rfl
      exact gone 15 (by omega) first.1
    refine rotates ?_
    rw [chooseTurn_again free ((find_pass_none under).2 gone), endRotation_few few]
    exact (chooseTurn_rotation (b := { s.bus with position := 15, count := s.bus.count + 1 }) free
      (find_newPass.2 first)).trans (by rw [if_neg notLast])
  · subst target
    exact probes (chooseTurn_probe due (find_fromPointer (presence := fun t => (s.terminal t).presence) absent before))
  · subst target
    have found := find_fromPointer (presence := fun t => (s.terminal t).presence) absent before
    refine probes ?_
    rcases turn with none | ⟨under, gone, ten⟩
    · exact chooseTurn_none none free (by omega) found
    · exact chooseTurn_tenth free ten ((find_pass_none under).2 gone) found absent
  · subst target
    have found := find_nextAddress all s.bus.position
    have lapsed := (chooseTurn_lapses (k := 13) due all).trans (chooseTurn_rotation (k := 12) rfl found)
    rw [rotated (b := { s.bus with probeDue := false }) rfl] at lapsed
    refine ⟨exec_turn running between (chosen.trans lapsed) (by simp), (rotates lapsed).trans ?_⟩
    have every : ¬ ∃ u, (s.terminal u).presence ≠ .present := fun ⟨u, h⟩ => h (all u)
    simp only [every, and_false, decide_false]

end

end Sys2Proof.Machine

/-! ## The character receiver (R54 to R56) -/

namespace Sys2Proof.Machine

/-! ### The samples of a character (R54, R55) -/

/-- The bits of a character in the order in which they stand on the line. -/
def Character.bits (c : Character) : List Bool := false :: (List.range 8).map (fun k => c.data.getLsbD k) ++ [c.ninth, true]

theorem bit_lt (b : Bool) : bit b < 2 := by cases b <;> decide

/-- Each bit of a character is sampled three times. -/
theorem testBit_samples (l : List Bool) (i : Nat) :
    (l.foldr (fun b a => 8 * a + 7 * bit b) 0).testBit i = l.getD (i / 3) false := by
  induction l generalizing i with
  | nil => simp
  | cons b l ih =>
    have high : (7 * bit b).testBit i = (decide (i < 3) && b) := by
      cases b
      · simp [bit]
      · simpa [bit] using Nat.testBit_two_pow_sub_one 3 i
    rw [List.foldr_cons, Nat.testBit_two_pow_mul_add (i := 3) _ (by have := bit_lt b; omega), high, ih]
    by_cases first : i < 3
    · simp [first, Nat.div_eq_of_lt first]
    · obtain ⟨j, rfl⟩ := Nat.exists_eq_add_of_le (Nat.le_of_not_lt first)
      simp [Nat.add_div_left]

theorem getLsbD_cleanChar (g : Nat) (c : Character) {i : Nat} (h : i < 33) :
    (cleanChar g c).samples.getLsbD i = c.bits.getD (i / 3) false := by
  rw [← testBit_samples]
  exact (BitVec.getLsbD_ofNat ..).trans (by rw [decide_eq_true h, Bool.true_and]; rfl)

/-- Two good samples of three carry a bit. -/
theorem charBit_of_samples {x : RxChar} {k : Nat} {b : Bool} (bad : Nat)
    (h : ∀ i < 3, 3 * k + i ≠ bad → x.samples.getLsbD (3 * k + i) = b) : charBit x k = b := by
  have sample (i : Nat) (hi : i < 3) : ((x.samples >>> (3 * k)).setWidth 3).getLsbD i = x.samples.getLsbD (3 * k + i) := by
    simp [hi]
  unfold charBit majority
  rw [sample 0 (by decide), sample 1 (by decide), sample 2 (by decide)]
  by_cases h0 : 3 * k + 0 = bad
  · rw [h 1 (by decide) (by omega), h 2 (by decide) (by omega)]; cases b <;> simp
  · by_cases h1 : 3 * k + 1 = bad
    · rw [h 0 (by decide) h0, h 2 (by decide) (by omega)]; cases b <;> simp
    · rw [h 0 (by decide) h0, h 1 (by decide) h1]; cases b <;> simp

/-- The bits that are read are the character's, with at most one sample the other way. -/
theorem charBit_cleanChar (g : Nat) (c : Character) {x : RxChar} (bad : Nat)
    (h : ∀ i < 33, i ≠ bad → x.samples.getLsbD i = (cleanChar g c).samples.getLsbD i) {k : Nat} (hk : k < 11) :
    charBit x k = c.bits.getD k false := by
  refine charBit_of_samples bad fun i hi other => ?_
  rw [h _ (by omega) other, getLsbD_cleanChar g c (by omega)]
  congr 1
  omega

/-- A byte from its bits. -/
theorem byte_of_bits (d : Byte) : BitVec.ofNat 8 (bit (d.getLsbD 0) + 2 * bit (d.getLsbD 1) + 4 * bit (d.getLsbD 2) +
    8 * bit (d.getLsbD 3) + 16 * bit (d.getLsbD 4) + 32 * bit (d.getLsbD 5) + 64 * bit (d.getLsbD 6) +
    128 * bit (d.getLsbD 7)) = d := by
  have digit (i : Nat) : bit (d.getLsbD i) = d.toNat / 2 ^ i % 2 := by
    rw [BitVec.getLsbD, Nat.testBit_eq_decide_div_mod_eq]
    rcases Nat.mod_two_eq_zero_or_one (d.toNat / 2 ^ i) with e | e <;> rw [e] <;> rfl
  apply BitVec.eq_of_toNat_eq
  simp only [digit, BitVec.toNat_ofNat]
  have := d.isLt
  omega

/-- Three high samples before a character, and its samples but at most one as they were sent: it is received (R55, R56). -/
theorem receive_of_samples (g : Nat) (c : Character) {x : RxChar} (quiet : 3 ≤ x.quiet) (bad : Nat)
    (h : ∀ i < 33, i ≠ bad → x.samples.getLsbD i = (cleanChar g c).samples.getLsbD i) :
    receive x = .char c.data c.ninth := by
  have read {k : Nat} (hk : k < 11) := charBit_cleanChar g c bad h hk
  have data : charData x = c.data := by
    unfold charData
    rw [read (k := 1) (by decide), read (k := 2) (by decide), read (k := 3) (by decide), read (k := 4) (by decide),
      read (k := 5) (by decide), read (k := 6) (by decide), read (k := 7) (by decide), read (k := 8) (by decide)]
    exact byte_of_bits c.data
  unfold receive
  rw [read (k := 0) (by decide), read (k := 9) (by decide), read (k := 10) (by decide), data]
  simp [Character.bits, Nat.not_lt.2 quiet]

theorem receive_cleanChar (g : Nat) (c : Character) : receive (cleanChar g c) = .char c.data c.ninth :=
  receive_of_samples g c (Nat.le_trans (by decide) (Nat.le_add_right 16 g)) 33 fun _ _ _ => rfl

/-- Settles O12, by majority over the three samples of each bit. -/
theorem receiverTakesOneBadSample : Obligations.ReceiverTakesOneBadSample := by
  intro g q c
  refine ⟨fun quiet => ⟨receive_of_samples g c quiet 33 fun _ _ _ => rfl, fun k hk => ?_⟩, fun few => ?_⟩
  · refine receive_of_samples g c quiet k fun i hi other => ?_
    have same : (1 <<< k : BitVec 33).getLsbD i = false :=
      (BitVec.getLsbD_twoPow k i).trans (by simp [Ne.symm other])
    exact (BitVec.getLsbD_xor ..).trans (by rw [same, Bool.xor_false])
  · simp [receive, few]

end Sys2Proof.Machine

/-! ## Frames and replies on the line (R39, R57, R59) -/

namespace Sys2Proof.Machine

/-! ### Frame assembly (R57) -/

section
variable {a d : Byte} {bs : List Byte}

theorem assembleChar_address : assembleChar none (cleanChar 0 ⟨a, true⟩) = (some (a, []), []) := by
  simp [assembleChar, receive_cleanChar]

theorem assembleChar_byte : assembleChar (some (a, bs)) (cleanChar 0 ⟨d, false⟩) =
    if frameWhole (bs ++ [d]) then (none, [.complete a (bs ++ [d])]) else (some (a, bs ++ [d]), []) := by
  have prompt : ¬ gapSamples < (cleanChar 0 ⟨d, false⟩).gap := Nat.not_lt_zero _
  simp [assembleChar, receive_cleanChar, prompt]

/-- A frame is whole with its last byte and not before it. -/
theorem frameWhole_cons {l : Byte} {rest : List Byte} : frameWhole (l :: rest) = true ↔ rest.length = l.toNat + 2 := by
  simp [frameWhole]

/-- The bytes that are still to come complete the open frame, the last of them alone. -/
theorem assemble_bytes {l : Byte} {rest more : List Byte} (whole : rest.length + more.length = l.toNat + 2) (ne : more ≠ []) :
    assemble (some (a, l :: rest)) ((more.map fun d => (⟨d, false⟩ : Character)).map (cleanChar 0)) =
      ([.complete a (l :: rest ++ more)], none) := by
  induction more generalizing rest with
  | nil => exact absurd rfl ne
  | cons d more ih =>
    rw [List.map_cons, List.map_cons, assemble, assembleChar_byte, List.cons_append]
    cases more with
    | nil =>
      rw [if_pos (frameWhole_cons.2 (by simpa using whole))]
      rfl
    | cons e more =>
      simp only [List.length_cons] at whole
      have early : ¬ frameWhole (l :: (rest ++ [d])) = true := mt frameWhole_cons.1 (by simp; omega)
      rw [if_neg early]
      dsimp only
      rw [ih (by simp; omega) (by simp)]
      simp

/-- A frame on the line whose bytes are as many as its length field says is received as it was sent. -/
theorem assemble_lineOf {l : Byte} {rest : List Byte} (whole : rest.length = l.toNat + 2) :
    assemble none (lineOf a (l :: rest)) = ([.complete a (l :: rest)], none) := by
  have length : assembleChar (some (a, [])) (cleanChar 0 ⟨l, false⟩) = (some (a, [l]), []) :=
    assembleChar_byte.trans (if_neg (mt frameWhole_cons.1 (by simp)))
  have bytes := assemble_bytes (a := a) (rest := []) (by simpa using whole) (List.ne_nil_of_length_pos (by omega))
  unfold lineOf framed
  rw [List.map_cons, List.map_cons, List.map_cons, assemble, assembleChar_address, assemble, length]
  dsimp only
  rw [bytes]
  rfl

theorem length_checkBytes (bs : List Byte) : (checkBytes bs).length = 2 := by simp [checkBytes]

/-- The check behind a frame's bytes agrees (R57). -/
theorem checkAgrees_sealed (bs : List Byte) : checkAgrees (sealed bs) = true := by
  simp [checkAgrees, sealed, length_checkBytes]

/-- A frame with a length field that counts the bytes before its check. -/
theorem assemble_sealed {l : Byte} {rest : List Byte} (counts : rest.length = l.toNat) :
    assemble none (lineOf a (sealed (l :: rest))) = ([.complete a (sealed (l :: rest))], none) :=
  assemble_lineOf (rest := rest ++ checkBytes (l :: rest)) (by rw [List.length_append, length_checkBytes, counts])

end

/-! ### A terminal's reply (R39, R59) -/

theorem getLsbD_byte {n i : Nat} (h : n < 256) {b : Bool} (digit : n / 2 ^ i % 2 = bit b) : (BitVec.ofNat 8 n).getLsbD i = b := by
  rw [BitVec.getLsbD, toNat_byte h, Nat.testBit_eq_decide_div_mod_eq, digit]
  cases b <;> rfl

theorem lockOf_value (l : LockView) : lockOf (lockValue l) = some l := by cases l <;> rfl
theorem statusOf_value (m : MachineStatus) : statusOf (statusValue m) = m := by cases m <;> rfl
theorem lockValue_lt (l : LockView) : lockValue l < 3 := by cases l <;> decide
theorem statusValue_lt (m : MachineStatus) : statusValue m < 4 := by cases m <;> decide
theorem phaseValue_lt (p : Phase) : phaseValue p < 5 := by cases p <;> decide

/-- The phases of a washer have codes of their own; those of a dryer are sent as none (R59). -/
theorem phaseOf_value {p : Phase} (dry : p ≠ .dry) (cool : p ≠ .cool) : phaseOf (phaseValue p) = some p := by
  cases p with
  | dry => exact absurd rfl dry
  | cool => exact absurd rfl cool
  | _ => rfl

/-- The conditions of `HalfReply.ok`, by name. -/
theorem HalfReply.ok_iff {x : HalfReply} : x.ok = true ↔ x.view.phase ≠ .dry ∧ x.view.phase ≠ .cool ∧
    x.view.errorCode < 256 ∧ x.card < 2 ^ 32 ∧ (x.tap = true → x.card ≠ 0) := by
  cases tap : x.tap <;> simp [HalfReply.ok, tap, and_assoc]

/-- What the bytes of one half spell is that half (R59). -/
theorem halfReplyBytes_spell {x : HalfReply} (ok : x.ok = true) : ∃ v ph err ev c3 c2 c1 c0,
    halfReplyBytes x = [v, ph, err, ev, c3, c2, c1, c0] ∧ halfReplyOf v ph err ev c3 c2 c1 c0 = some x := by
  obtain ⟨dry, cool, code, card, tapped⟩ := HalfReply.ok_iff.1 ok
  refine ⟨_, _, _, _, _, _, _, _, by simp only [halfReplyBytes, beBytes_one, beBytes_four]; rfl, ?_⟩
  have door := bit_lt x.view.doorOpen
  have heat := bit_lt x.view.heat
  have lock := lockValue_lt x.view.lock
  have status := statusValue_lt x.view.status
  have start := bit_lt x.start
  have stop := bit_lt x.stop
  have tap := bit_lt x.tap
  have phase := phaseValue_lt x.view.phase
  unfold halfReplyOf
  rw [toNat_byte (by omega), toNat_byte (by omega), toNat_byte code, beNat_four (by simpa using card),
    getLsbD_byte (i := 0) (b := x.view.doorOpen) (by omega) (by omega),
    getLsbD_byte (i := 5) (b := x.view.heat) (by omega) (by omega),
    getLsbD_byte (i := 0) (b := x.start) (by omega) (by omega),
    getLsbD_byte (i := 1) (b := x.stop) (by omega) (by omega),
    getLsbD_byte (i := 2) (b := x.tap) (by omega) (by omega),
    show (bit x.view.doorOpen + 2 * lockValue x.view.lock + 8 * statusValue x.view.status + 32 * bit x.view.heat) / 2 % 4 =
      lockValue x.view.lock by omega,
    show (bit x.view.doorOpen + 2 * lockValue x.view.lock + 8 * statusValue x.view.status + 32 * bit x.view.heat) / 8 % 4 =
      statusValue x.view.status by omega,
    lockOf_value, statusOf_value, phaseOf_value dry cool]
  dsimp only
  rw [if_neg (by simpa using tapped)]

/-- The fields of a reply's bytes are the reply (R39, R59). -/
theorem replyFields_replyBytes {r : TerminalReply} (ok : r.ok = true) : replyFields (replyBytes r) = some r := by
  obtain ⟨⟨tag, a⟩, b⟩ : (r.tag < 256 ∧ r.a.ok = true) ∧ r.b.ok = true := by simpa [TerminalReply.ok] using ok
  obtain ⟨va, pa, ea, la, a3, a2, a1, a0, bytesA, spellA⟩ := halfReplyBytes_spell a
  obtain ⟨vb, pb, eb, lb, b3, b2, b1, b0, bytesB, spellB⟩ := halfReplyBytes_spell b
  obtain ⟨k1, k0, check⟩ :=
    List.length_eq_two.1 (length_checkBytes (17 :: beBytes 1 r.tag ++ halfReplyBytes r.a ++ halfReplyBytes r.b))
  have agrees := checkAgrees_sealed (17 :: beBytes 1 r.tag ++ halfReplyBytes r.a ++ halfReplyBytes r.b)
  unfold sealed at agrees
  unfold replyBytes sealed
  rw [check, beBytes_one, bytesA, bytesB] at agrees ⊢
  simp only [List.cons_append, List.nil_append] at agrees ⊢
  unfold replyFields
  dsimp only
  rw [agrees, spellA, spellB, toNat_byte tag]
  rfl

/-- Settles O11: the line is one complete frame, its check agrees, and each half's bytes spell that half. -/
theorem replyRoundTrip : Obligations.ReplyRoundTrip := by
  intro t r ok
  have line : assemble none (replyLine t r) = ([.complete (replyAddress t) (replyBytes r)], none) :=
    assemble_sealed (by simp [halfReplyBytes])
  unfold goodReply
  rw [line]
  dsimp only
  rw [if_pos rfl, replyFields_replyBytes ok]

end Sys2Proof.Machine

/-! ## The requests that read (R58, R98, R121, R152, R153, R170, R184, R195) -/

namespace Sys2Proof.Machine

section
variable {s : State} {p : Port}

/-! ### A request that reads -/

/-- A request that only reads is answered with what it reads, and nothing but its port changes (R188, R189). -/
theorem request_reads {α : Type} (ready : s.readyFor p) {kind : Nat} (free : kindRefused p kind = false)
    (still : kindWrites kind = false) {e : Except Status α} {a : α} (body : e = .ok a) {act : α → State → Answer} {b : ReplyBody}
    (reads : act a (s.countTaken p) = (s.countTaken p).ok b) : s.request p kind e act = s.replied p ⟨kind, .ok, b⟩ := by
  rw [request_ok ready free body (by simp [still]), reads]
  exact finish_replied s p kind .ok b

theorem kindRefused_false {kind : Nat} (events : kind ≠ 0x08) (release : kind ≠ 0x29) : kindRefused p kind = false := by
  simp [kindRefused, events, release]

theorem body1_byte {n : Nat} (h : n < 256) : body1 (beBytes 1 n) = .ok n := by rw [beBytes_one, body1, toNat_byte h]

theorem body11_bytes {m n : Nat} (hm : m < 256) (hn : n < 256) : body11 (beBytes 1 m ++ beBytes 1 n) = .ok (m, n) := by
  rw [beBytes_one, beBytes_one, List.singleton_append, body11, toNat_byte hm, toNat_byte hn]

theorem body21_bytes {m n : Nat} (hm : m < 65536) (hn : n < 256) : body21 (beBytes 2 m ++ beBytes 1 n) = .ok (m, n) := by
  rw [beBytes_two, beBytes_one, List.cons_append, List.singleton_append, body21, beNat_two hm, toNat_byte hn]

theorem roomStatus_reads (ready : s.readyFor p) :
    exec (.roomStatus p []) s = .next (s.replied p ⟨0x01, .ok, .room s.roomReport⟩) :=
  congrArg _ (request_reads ready (kindRefused_false (by decide) (by decide)) rfl (a := ()) rfl (by cases p <;> rfl))

theorem slotStatus_reads (ready : s.readyFor p) (n : Fin 24) :
    exec (.slotStatus p (beBytes 1 n)) s = .next (s.replied p ⟨0x02, .ok, .slot (s.slotReport n)⟩) := by
  refine congrArg _ (request_reads ready (kindRefused_false (by decide) (by decide)) rfl (body1_byte (by omega)) ?_)
  rw [slotOf_val]
  cases p <;> rfl

theorem terminalStatus_reads (ready : s.readyFor p) (t : Fin 16) : exec (.terminalStatus p (beBytes 1 t)) s =
    .next (s.replied p ⟨0x03, .ok, .terminal (s.terminal t) (s.slotAt t .a) (s.slotAt t .b)⟩) := by
  refine congrArg _ (request_reads ready (kindRefused_false (by decide) (by decide)) rfl (body1_byte (by omega)) ?_)
  rw [terminalOf_val]
  cases p <;> rfl

theorem settlementRead_reads (ready : s.readyFor p) {k : Nat} (low : 1 ≤ k) (high : k ≤ 4) :
    exec (.settlementRead p (beBytes 1 k)) s = .next (s.replied p ⟨0x28, .ok, .settlements s.settlement.records.length s.holdCount
      s.settlement.next ((s.settlement.records.take k).map Settlement.bytes)⟩) := by
  refine congrArg _ (request_reads ready (kindRefused_false (by decide) (by decide)) rfl (body1_byte (by omega)) ?_)
  rw [if_pos ⟨low, high⟩]
  cases p <;> rfl

theorem faultsRead_reads (ready : s.readyFor p) {i k : Nat} (first : i ≤ 31) (low : 1 ≤ k) (high : k ≤ 8) :
    exec (.faultsRead p (beBytes 1 i ++ beBytes 1 k)) s =
      .next (s.replied p ⟨0x38, .ok, .faults s.faults.table.length ((s.faults.table.drop i).take k)⟩) := by
  refine congrArg _ (request_reads ready (kindRefused_false (by decide) (by decide)) rfl (body11_bytes (by omega) (by omega)) ?_)
  rw [if_pos ⟨first, low, high⟩]
  cases p <;> rfl

theorem historyRead_reads (ready : s.readyFor p) {i k : Nat} (first : i < 65536) (low : 1 ≤ k) (high : k ≤ 6) :
    exec (.historyRead p (beBytes 2 i ++ beBytes 1 k)) s = .next (s.replied p ⟨0x39, .ok, .history s.faults.history.length
      (s.faults.history.head?.map fun e => e.number) s.faults.next (s.faults.fromNumber i k).2 (s.faults.fromNumber i k).1⟩) := by
  refine congrArg _ (request_reads ready (kindRefused_false (by decide) (by decide)) rfl (body21_bytes first (by omega)) ?_)
  rw [if_pos ⟨low, high⟩]
  cases p <;> rfl

theorem grantsRead_reads (ready : s.readyFor p) :
    exec (.grantsRead p []) s = .next (s.replied p ⟨0x41, .ok, .grants s.govReport⟩) :=
  congrArg _ (request_reads ready (kindRefused_false (by decide) (by decide)) rfl (a := ()) rfl (by cases p <;> rfl))

theorem waitlistRead_reads (ready : s.readyFor p) (c : Fin 4) (n : Fin 24) :
    exec (.waitlistRead p (beBytes 1 c ++ beBytes 1 n)) s = .next (s.replied p ⟨0x48, .ok, .waits (s.waitReport c n)⟩) := by
  refine congrArg _ (request_reads ready (kindRefused_false (by decide) (by decide)) rfl (body11_bytes (by omega) (by omega)) ?_)
  rw [classOf_val]
  dsimp only
  rw [if_pos n.isLt]
  cases p <;> rfl

/-! ### What the reports hold -/

theorem inSpan_iff {a b m : Nat} : inSpan a b m = true ↔ a < b ∧ a ≤ m ∧ m < b ∨ b ≤ a ∧ (a ≤ m ∨ m < b) := by
  unfold inSpan
  split <;> simp <;> omega

/-- Whether the room is called open, by its mode and its span of minutes (R175). -/
theorem calledOpen_iff : s.calledOpen = true ↔ s.settings.room.mode = .forceOpen ∨ s.settings.room.mode = .schedule ∧
    (s.clock.isSet = false ∨ s.settings.room.openMinute = s.settings.room.closeMinute ∨
      inSpan s.settings.room.openMinute s.settings.room.closeMinute s.clock.minute = true) := by
  unfold State.calledOpen
  dsimp only
  cases s.settings.room.mode <;> simp [or_assoc]

/-- The band in force: band 1 within the band's span of minutes, the clock being set (R84). -/
theorem band_eq : s.band = if s.clock.isSet = true ∧ s.settings.prices.bandStart ≠ s.settings.prices.bandEnd ∧
    inSpan s.settings.prices.bandStart s.settings.prices.bandEnd s.clock.minute = true then 1 else 0 := by
  unfold State.band
  simp only [Bool.and_eq_true, bne_iff_ne, and_assoc]

/-- The states are counted in the row order of R3. -/
theorem roomReport_states (st : SlotState) :
    s.roomReport.states[st.code]? = some (allSlots.filter fun n => (s.slot n).state = st).length := by
  cases st <;> rfl

end

/-- Settles O40: each request is answered with its report, and each report by its fields. -/
theorem readsAreAnswered : Obligations.ReadsAreAnswered := by
  intro s p ready
  refine ⟨roomStatus_reads ready, slotStatus_reads ready, terminalStatus_reads ready, fun _ => settlementRead_reads ready,
    fun _ _ => faultsRead_reads ready, fun _ _ => historyRead_reads ready, grantsRead_reads ready, waitlistRead_reads ready,
    ?_, ?_, ?_, ?_⟩
  · rintro r rfl g rfl m rfl
    refine ⟨rfl, rfl, rfl, rfl, rfl, rfl, rfl, rfl, rfl, ?_, ?_, rfl, rfl, roomReport_states⟩
    · show s.calledOpen = true ↔ _
      rw [calledOpen_iff, inSpan_iff, Clock.minute]
      refine or_congr Iff.rfl (and_congr_right fun _ => or_congr Iff.rfl ?_)
      omega
    · rintro a b rfl rfl
      show s.band = _
      rw [band_eq]
      refine if_congr (and_congr_right fun _ => ?_) rfl rfl
      rw [inSpan_iff, Clock.minute]
      omega
  · rintro n r rfl
    refine ⟨rfl, rfl, rfl, fun h full => ?_⟩
    have held {α : Type} (x : α) (f : Hold → α) : (s.hold n).elim x f = f h := by rw [full]; rfl
    refine ⟨held 0 fun h => h.amount, (held 0 Hold.paidSeconds).trans ?_⟩
    unfold Hold.paidSeconds
    cases h.snap.kind <;> rfl
  · rintro r rfl
    exact ⟨rfl, rfl, rfl, rfl, rfl, rfl, rfl, rfl, rfl, rfl, rfl, rfl⟩
  · rintro c n r rfl
    exact ⟨rfl, rfl, rfl, fun l hl => by subst hl; exact ⟨rfl, rfl⟩⟩

end Sys2Proof.Machine

/-! ## RESTARTs that other requests do not look at (R196) -/

namespace Sys2Proof.Machine

section
variable {s t : State} {r : Restarts}

/-- The state with other RESTARTs taken on its ports (R196). -/
def State.withRestart (s : State) (r : Restarts) : State := { s with restart := r }

/-- An answer in a state with other RESTARTs taken. -/
def Answer.withRestart (a : Answer) (r : Restarts) : Answer := { a with state := a.state.withRestart r }

/-! ### What is read from the state

Nothing read here depends on the RESTARTs taken. `by rfl` keeps these out of `dsimp`, so that `simp` rewrites a condition together
with its decision. -/

@[simp] theorem withRestart_withRestart (q : Restarts) : (s.withRestart q).withRestart r = s.withRestart r := by rfl
@[simp] theorem restart_withRestart : (s.withRestart r).restart = r := by rfl

@[simp] theorem clock_withRestart : (s.withRestart r).clock = s.clock := by rfl
@[simp] theorem elapsed_withRestart : (s.withRestart r).elapsed = s.elapsed := by rfl
@[simp] theorem settings_withRestart : (s.withRestart r).settings = s.settings := by rfl
@[simp] theorem room_withRestart : (s.withRestart r).room = s.room := by rfl
@[simp] theorem settlement_withRestart : (s.withRestart r).settlement = s.settlement := by rfl
@[simp] theorem gov_withRestart : (s.withRestart r).gov = s.gov := by rfl
@[simp] theorem scanner_withRestart : (s.withRestart r).scanner = s.scanner := by rfl
@[simp] theorem faults_withRestart : (s.withRestart r).faults = s.faults := by rfl
@[simp] theorem turn_withRestart : (s.withRestart r).turn = s.turn := by rfl
@[simp] theorem events_withRestart : (s.withRestart r).events = s.events := by rfl
@[simp] theorem writes_withRestart : (s.withRestart r).writes = s.writes := by rfl
@[simp] theorem hold_withRestart (n : Fin 24) : (s.withRestart r).hold n = s.hold n := by rfl
@[simp] theorem holdCount_withRestart : (s.withRestart r).holdCount = s.holdCount := by rfl
@[simp] theorem slot_withRestart (n : Fin 24) : (s.withRestart r).slot n = s.slot n := by rfl
@[simp] theorem roomReport_withRestart : (s.withRestart r).roomReport = s.roomReport := by rfl
@[simp] theorem slotReport_withRestart (n : Fin 24) : (s.withRestart r).slotReport n = s.slotReport n := by rfl
@[simp] theorem terminal_withRestart (t : Fin 16) : (s.withRestart r).terminal t = s.terminal t := by rfl
@[simp] theorem slotAt_withRestart (t : Fin 16) (h : Half) : (s.withRestart r).slotAt t h = s.slotAt t h := by rfl
@[simp] theorem portReport_withRestart (p : Port) : (s.withRestart r).portReport p = s.portReport p := by rfl
@[simp] theorem slotCls_withRestart (n : Fin 24) : (s.withRestart r).slotCls n = s.slotCls n := by rfl
@[simp] theorem classBusy_withRestart (c : Fin 4) : (s.withRestart r).classBusy c = s.classBusy c := by rfl
@[simp] theorem cls_withRestart (c : Fin 4) : (s.withRestart r).cls c = s.cls c := by rfl
@[simp] theorem govClass_withRestart (c : Fin 4) : (s.withRestart r).govClass c = s.govClass c := by rfl
@[simp] theorem motorSum_withRestart : (s.withRestart r).motorSum = s.motorSum := by rfl
@[simp] theorem heatBudget_withRestart : (s.withRestart r).heatBudget = s.heatBudget := by rfl
@[simp] theorem grantedHeat_withRestart : (s.withRestart r).grantedHeat = s.grantedHeat := by rfl
@[simp] theorem revocation_withRestart (fell : Bool) : (s.withRestart r).revocation fell = s.revocation fell := by rfl
@[simp] theorem stateSeconds_withRestart (x : SlotState) : (s.withRestart r).stateSeconds x = s.stateSeconds x := by rfl
@[simp] theorem account_withRestart (i : Nat) : (s.withRestart r).account i = s.account i := by rfl
@[simp] theorem kind_withRestart (n : Fin 24) : (s.withRestart r).kind n = s.kind n := by rfl
@[simp] theorem planned_withRestart (n : Fin 24) : (s.withRestart r).planned n = s.planned n := by rfl
@[simp] theorem estimate_withRestart (n : Fin 24) : (s.withRestart r).estimate n = s.estimate n := by rfl
@[simp] theorem minutesLeft_withRestart (n : Fin 24) : (s.withRestart r).minutesLeft n = s.minutesLeft n := by rfl
@[simp] theorem stateDisplay_withRestart (n : Fin 24) : (s.withRestart r).stateDisplay n = s.stateDisplay n := by rfl
@[simp] theorem halfRefused_withRestart (n : Fin 24) (t : Fin 16) (h : Half) :
    (s.withRestart r).halfRefused n t h = s.halfRefused n t h := by rfl
@[simp] theorem queue_withRestart (c : Fin 4) : (s.withRestart r).queue c = s.queue c := by rfl
@[simp] theorem idleSlot_withRestart (c : Fin 4) : (s.withRestart r).idleSlot c = s.idleSlot c := by rfl
@[simp] theorem slotsOn_withRestart (t : Fin 16) : (s.withRestart r).slotsOn t = s.slotsOn t := by rfl
@[simp] theorem classActive_withRestart (c : Fin 4) : (s.withRestart r).classActive c = s.classActive c := by rfl
@[simp] theorem modeState_withRestart : (s.withRestart r).modeState = s.modeState := by rfl
@[simp] theorem cardElsewhere_withRestart (card : Nat) (i : Nat) :
    (s.withRestart r).cardElsewhere card i = s.cardElsewhere card i := by rfl
@[simp] theorem usable_withRestart (i : Nat) : (s.withRestart r).usable i = s.usable i := by rfl
@[simp] theorem lockoutLoose_withRestart : (s.withRestart r).lockoutLoose = s.lockoutLoose := by rfl
@[simp] theorem causesAfter_withRestart : (s.withRestart r).causesAfter = s.causesAfter := by rfl
@[simp] theorem govReport_withRestart : (s.withRestart r).govReport = s.govReport := by rfl
@[simp] theorem waitReport_withRestart (c : Fin 4) (first : Nat) :
    (s.withRestart r).waitReport c first = s.waitReport c first := by rfl
@[simp] theorem reservedFor_withRestart (c : Fin 4) (card : Nat) :
    (s.withRestart r).reservedFor c card = s.reservedFor c card := by rfl
@[simp] theorem suspendedSlots_withRestart : (s.withRestart r).suspendedSlots = s.suspendedSlots := by rfl
@[simp] theorem coolTime_withRestart (n : Fin 24) : (s.withRestart r).coolTime n = s.coolTime n := by rfl
@[simp] theorem hasRequest_withRestart (n : Fin 24) : (s.withRestart r).hasRequest n = s.hasRequest n := by rfl
@[simp] theorem senseReport_withRestart (input : Nat) (count : Nat) :
    (s.withRestart r).senseReport input count = s.senseReport input count := by rfl

/-! ### Branches and walks -/

@[simp] theorem ite_withRestart {c : Prop} {_ : Decidable c} :
    (if c then s.withRestart r else t.withRestart r) = (if c then s else t).withRestart r :=
  (apply_ite (fun s : State => s.withRestart r) c s t).symm

@[simp] theorem ite_answer_withRestart {c : Prop} {_ : Decidable c} {a b : Answer} :
    (if c then a.withRestart r else b.withRestart r) = (if c then a else b).withRestart r :=
  (apply_ite (fun a : Answer => a.withRestart r) c a b).symm

theorem foldl_withRestart {α : Type} {f : State → α → State} (h : ∀ s a, f (s.withRestart r) a = (f s a).withRestart r)
    (l : List α) : l.foldl f (s.withRestart r) = (l.foldl f s).withRestart r := by
  induction l generalizing s with
  | nil => rfl
  | cons a l ih => rw [List.foldl_cons, List.foldl_cons, h, ih]

theorem overSlots_withRestart {f : Fin 24 → State → State} (h : ∀ n s, f n (s.withRestart r) = (f n s).withRestart r) :
    overSlots f (s.withRestart r) = (overSlots f s).withRestart r := foldl_withRestart (fun s n => h n s) _

/-! ### The state's own updates -/

theorem with_clock_withRestart (x : Clock) :
    ({ s.withRestart r with clock := x } : State) = State.withRestart { s with clock := x } r := by rfl
theorem with_settings_withRestart (x : Settings) :
    ({ s.withRestart r with settings := x } : State) = State.withRestart { s with settings := x } r := by rfl
theorem with_room_withRestart (x : Room) :
    ({ s.withRestart r with room := x } : State) = State.withRestart { s with room := x } r := by rfl
theorem with_faults_withRestart (x : Faults) :
    ({ s.withRestart r with faults := x } : State) = State.withRestart { s with faults := x } r := by rfl

@[simp] theorem modCounts_withRestart (p : Port) (f : PortCounts → PortCounts) :
    (s.withRestart r).modCounts p f = (s.modCounts p f).withRestart r := by cases p <;> rfl
@[simp] theorem countTaken_withRestart (p : Port) : (s.withRestart r).countTaken p = (s.countTaken p).withRestart r :=
  modCounts_withRestart ..
@[simp] theorem countBroadcast_withRestart (p : Port) :
    (s.withRestart r).countBroadcast p = (s.countBroadcast p).withRestart r := modCounts_withRestart ..
@[simp] theorem setActivity_withRestart (p : Port) (a : Activity) :
    (s.withRestart r).setActivity p a = (s.setActivity p a).withRestart r := by cases p <;> rfl
@[simp] theorem answer_withRestart (p : Port) (kind : Nat) (status : Status) (body : ReplyBody) :
    (s.withRestart r).answer p kind status body = (s.answer p kind status body).withRestart r := setActivity_withRestart ..
@[simp] theorem ok_withRestart (body : ReplyBody) : (s.withRestart r).ok body = (s.ok body).withRestart r := by rfl
@[simp] theorem refuse_withRestart (status : Status) :
    (s.withRestart r).refuse status = (s.refuse status).withRestart r := by rfl
@[simp] theorem readEvents_withRestart (count : Nat) :
    (s.withRestart r).readEvents count = (s.readEvents count).withRestart r := by
  rfl
@[simp] theorem write_withRestart (ws : List StoreWrite) : (s.withRestart r).write ws = (s.write ws).withRestart r := by rfl
@[simp] theorem modSettings_withRestart (f : Settings → Settings) :
    (s.withRestart r).modSettings f = (s.modSettings f).withRestart r := by rfl
@[simp] theorem modSlot_withRestart (n : Fin 24) (f : Slot → Slot) :
    (s.withRestart r).modSlot n f = (s.modSlot n f).withRestart r := by rfl
@[simp] theorem modGov_withRestart (f : Governor → Governor) :
    (s.withRestart r).modGov f = (s.modGov f).withRestart r := by rfl
@[simp] theorem modScanner_withRestart (f : Scanner → Scanner) :
    (s.withRestart r).modScanner f = (s.modScanner f).withRestart r := by rfl
@[simp] theorem modTerminal_withRestart (i : Fin 16) (f : Terminal → Terminal) :
    (s.withRestart r).modTerminal i f = (s.modTerminal i f).withRestart r := by rfl
@[simp] theorem blankHalf_withRestart (i : Fin 16) (h : Half) :
    (s.withRestart r).blankHalf i h = (s.blankHalf i h).withRestart r := by rfl
@[simp] theorem setAccount_withRestart (i : Nat) (a : Account) :
    (s.withRestart r).setAccount i a = (s.setAccount i a).withRestart r := by rfl
@[simp] theorem setQueue_withRestart (c : Fin 4) (q : List WaitEntry) :
    (s.withRestart r).setQueue c q = (s.setQueue c q).withRestart r := by rfl
@[simp] theorem latch_withRestart (source : Option (Fin 24)) (code : FaultCode) :
    (s.withRestart r).latch source code = (s.latch source code).withRestart r := by rfl
@[simp] theorem latchAll_withRestart (n : Fin 24) : (s.withRestart r).latchAll n = (s.latchAll n).withRestart r := by rfl
@[simp] theorem setGrant_withRestart (n : Fin 24) (g : Bool) :
    (s.withRestart r).setGrant n g = (s.setGrant n g).withRestart r := by rfl
@[simp] theorem removeRequest_withRestart (n : Fin 24) :
    (s.withRestart r).removeRequest n = (s.removeRequest n).withRestart r := by rfl
@[simp] theorem dropGrant_withRestart (n : Fin 24) : (s.withRestart r).dropGrant n = (s.dropGrant n).withRestart r := by rfl
@[simp] theorem dropReservation_withRestart (n : Fin 24) :
    (s.withRestart r).dropReservation n = (s.dropReservation n).withRestart r := by rfl
@[simp] theorem setCause_withRestart (n : Fin 24) (m : Cause) (v : Bool) :
    (s.withRestart r).setCause n m v = (s.setCause n m v).withRestart r := by rfl
@[simp] theorem restrike_withRestart (n : Fin 24) : (s.withRestart r).restrike n = (s.restrike n).withRestart r := by rfl
@[simp] theorem putAccount_withRestart (i : Nat) (a : Account) :
    (s.withRestart r).putAccount i a = (s.putAccount i a).withRestart r := by rfl
@[simp] theorem accountReply_withRestart (i : Nat) :
    (s.withRestart r).accountReply i = (s.accountReply i).withRestart r := by rfl
@[simp] theorem causesReply_withRestart (n : Fin 24) :
    (s.withRestart r).causesReply n = (s.causesReply n).withRestart r := by rfl

/-! ### Events, displays and changes of a slot's state -/

@[simp] theorem post_withRestart (b : EventBody) : (s.withRestart r).post b = (s.post b).withRestart r := by
  simp only [State.post, events_withRestart]; split <;> rfl
@[simp] theorem postSlot_withRestart (n : Fin 24) : (s.withRestart r).postSlot n = (s.postSlot n).withRestart r :=
  post_withRestart _
@[simp] theorem showLasting_withRestart (n : Fin 24) (d : Display) :
    (s.withRestart r).showLasting n d = (s.showLasting n d).withRestart r := by
  simp only [State.showLasting, slot_withRestart]; split <;> rfl
@[simp] theorem enter_withRestart (n : Fin 24) (st : SlotState) :
    (s.withRestart r).enter n st = (s.enter n st).withRestart r := by
  simp only [State.enter, modSlot_withRestart, postSlot_withRestart, stateDisplay_withRestart, stateSeconds_withRestart,
    elapsed_withRestart]
  split
  · rfl
  · split <;> simp
@[simp] theorem writeCauses_withRestart (n : Fin 24) (m : Cause) :
    (s.withRestart r).writeCauses n m = (s.writeCauses n m).withRestart r := by simp [State.writeCauses]

/-! ### The governor -/

@[simp] theorem revokeSlot_withRestart (n : Fin 24) : (s.withRestart r).revokeSlot n = (s.revokeSlot n).withRestart r := by
  simp [State.revokeSlot]
@[simp] theorem grantSlot_withRestart (n : Fin 24) : (s.withRestart r).grantSlot n = (s.grantSlot n).withRestart r := by
  simp [State.grantSlot]
@[simp] theorem tidyStamp_withRestart : (s.withRestart r).tidyStamp = s.tidyStamp.withRestart r := by simp [State.tidyStamp]
@[simp] theorem revoke_withRestart (fell : Bool) :
    (s.withRestart r).revoke fell = ((s.revoke fell).1.withRestart r, (s.revoke fell).2) := by
  simp only [State.revoke, revocation_withRestart, modGov_withRestart, govClass_withRestart]
  exact Prod.ext (foldl_withRestart (f := fun s (x : HeatRequest) => s.revokeSlot x.slot)
    (fun s x => revokeSlot_withRestart _) _) rfl
@[simp] theorem grantPass_withRestart (revoked : List (Fin 24)) :
    (s.withRestart r).grantPass revoked = (s.grantPass revoked).withRestart r := by
  simp only [State.grantPass, modGov_withRestart, govClass_withRestart, gov_withRestart, grantedHeat_withRestart]
  exact foldl_withRestart (f := fun s (x : HeatRequest) => s.grantSlot x.slot) (fun s x => grantSlot_withRestart _) _
@[simp] theorem reckon_withRestart (freed asked lowered : Bool) :
    (s.withRestart r).reckon freed asked lowered = (s.reckon freed asked lowered).withRestart r := by simp [State.reckon]
@[simp] theorem enterTold_withRestart (n : Fin 24) (st : SlotState) :
    (s.withRestart r).enterTold n st = (s.enterTold n st).withRestart r := by simp [State.enterTold]
@[simp] theorem giveUpGrant_withRestart (n : Fin 24) :
    (s.withRestart r).giveUpGrant n = (s.giveUpGrant n).withRestart r := by
  simp [State.giveUpGrant]
@[simp] theorem withdraw_withRestart (n : Fin 24) : (s.withRestart r).withdraw n = (s.withdraw n).withRestart r := by
  simp [State.withdraw]
@[simp] theorem dropHeat_withRestart (n : Fin 24) (alone : Bool) :
    (s.withRestart r).dropHeat n alone = (s.dropHeat n alone).withRestart r := by simp [State.dropHeat]
@[simp] theorem placeNew_withRestart (n : Fin 24) : (s.withRestart r).placeNew n = (s.placeNew n).withRestart r := by
  simp only [State.placeNew, slotCls_withRestart, hasRequest_withRestart]
  split <;> simp
@[simp] theorem askHeat_withRestart (ns : List (Fin 24)) : (s.withRestart r).askHeat ns = (s.askHeat ns).withRestart r := by
  simp only [State.askHeat, foldl_withRestart fun s n => placeNew_withRestart n, reckon_withRestart]
  rw [foldl_withRestart fun s n => by simp]
  exact ite_withRestart
@[simp] theorem setBudget_withRestart (w : Nat) : (s.withRestart r).setBudget w = (s.setBudget w).withRestart r := by
  simp only [State.setBudget, with_settings_withRestart]
  simp

/-! ### The waitlist -/

@[simp] theorem reserve_withRestart (n : Fin 24) (c : Fin 4) (e : WaitEntry) (rest : List WaitEntry) :
    (s.withRestart r).reserve n c e rest = (s.reserve n c e rest).withRestart r := by simp [State.reserve]
@[simp] theorem offer_withRestart (n : Fin 24) : (s.withRestart r).offer n = (s.offer n).withRestart r := by
  simp only [State.offer, slotCls_withRestart]
  split
  · rfl
  · simp only [queue_withRestart]; split <;> simp
@[simp] theorem enterIdle_withRestart (n : Fin 24) : (s.withRestart r).enterIdle n = (s.enterIdle n).withRestart r := by
  simp [State.enterIdle]
@[simp] theorem handOn_withRestart (n : Fin 24) : (s.withRestart r).handOn n = (s.handOn n).withRestart r := by
  simp only [State.handOn, dropReservation_withRestart, slotCls_withRestart]
  split
  · simp
  · simp only [queue_withRestart]; split <;> simp
@[simp] theorem giveBack_withRestart (c : Fin 4) (v : Reservation) :
    (s.withRestart r).giveBack c v = (s.giveBack c v).withRestart r := by
  simp only [State.giveBack, queue_withRestart]
  cases (s.queue c).getLast? <;> simp <;> split <;> rfl
@[simp] theorem earlyNotice_withRestart (c : Fin 4) (n : Fin 24) (minutes : Nat) :
    (s.withRestart r).earlyNotice c n minutes = (s.earlyNotice c n minutes).withRestart r := by
  simp only [State.earlyNotice, queue_withRestart]
  split <;> simp
@[simp] theorem losePlaces_withRestart (card : Nat) :
    (s.withRestart r).losePlaces card = (s.losePlaces card).withRestart r := by
  unfold State.losePlaces
  rw [foldl_withRestart fun s c => by simp]
  exact overSlots_withRestart fun n s => by simp
@[simp] theorem clearWaitlist_withRestart : (s.withRestart r).clearWaitlist = s.clearWaitlist.withRestart r :=
  overSlots_withRestart (s := { s with queues := Vector.replicate 4 [] }) fun n s => by simp

/-! ### The room -/

@[simp] theorem displayAll_withRestart (d : Display) : (s.withRestart r).displayAll d = (s.displayAll d).withRestart r :=
  foldl_withRestart (fun _ _ => rfl) _
@[simp] theorem roomDisplay_withRestart (before : RoomState) :
    (s.withRestart r).roomDisplay before = (s.roomDisplay before).withRestart r := by
  simp only [State.roomDisplay, room_withRestart]
  split
  · rfl
  · split
    · rfl
    · rw [displayAll_withRestart]; rfl
@[simp] theorem changeRoom_withRestart (new : RoomState) (cause : RoomCause) :
    (s.withRestart r).changeRoom new cause = (s.changeRoom new cause).withRestart r := by
  simp only [State.changeRoom, room_withRestart, with_room_withRestart]
  simp
@[simp] theorem openDisplays_withRestart : (s.withRestart r).openDisplays = s.openDisplays.withRestart r :=
  foldl_withRestart (fun _ _ => rfl) _
@[simp] theorem enterRoom_withRestart (new : RoomState) (cause : RoomCause) :
    (s.withRestart r).enterRoom new cause = (s.enterRoom new cause).withRestart r := by simp [State.enterRoom]
@[simp] theorem followMode_withRestart (cause : RoomCause) :
    (s.withRestart r).followMode cause = (s.followMode cause).withRestart r := by
  simp only [State.followMode, room_withRestart]
  split <;> simp
@[simp] theorem holdsEnded_withRestart : (s.withRestart r).holdsEnded = s.holdsEnded.withRestart r := by
  simp [State.holdsEnded]
@[simp] theorem setClock_withRestart (day second : Nat) :
    (s.withRestart r).setClock day second = (s.setClock day second).withRestart r := by
  simp only [State.setClock, clock_withRestart, with_clock_withRestart, followMode_withRestart, ite_withRestart]

/-! ### The cycle end and the entry to RUNNING -/

@[simp] theorem settle_withRestart (n : Fin 24) (reason : Reason) (fault : Option (FaultCode × Option Nat)) :
    (s.withRestart r).settle n reason fault = (s.settle n reason fault).withRestart r := by
  simp only [State.settle, hold_withRestart]; split <;> rfl
@[simp] theorem enterEnded_withRestart (n : Fin 24) (st : SlotState) (alone : Bool) :
    (s.withRestart r).enterEnded n st alone = (s.enterEnded n st alone).withRestart r := by simp [State.enterEnded]
@[simp] theorem cycleEnd_withRestart (n : Fin 24) (reason : Reason) (fault : Option (FaultCode × Option Nat))
    (target : SlotState) (alone : Bool) :
    (s.withRestart r).cycleEnd n reason fault target alone = (s.cycleEnd n reason fault target alone).withRestart r := by
  simp only [State.cycleEnd, hold_withRestart]
  split <;> simp
@[simp] theorem pointA_withRestart (n : Fin 24) : (s.withRestart r).pointA n = (s.pointA n).withRestart r := by
  simp only [State.pointA, slotCls_withRestart]
  split <;> simp
@[simp] theorem startRunning_withRestart (n : Fin 24) :
    (s.withRestart r).startRunning n = (s.startRunning n).withRestart r := by
  simp only [State.startRunning, kind_withRestart]
  split <;> simp
@[simp] theorem resumeRunning_withRestart (n : Fin 24) :
    (s.withRestart r).resumeRunning n = (s.resumeRunning n).withRestart r := by simp [State.resumeRunning]
@[simp] theorem resumeSlot_withRestart (n : Fin 24) : (s.withRestart r).resumeSlot n = (s.resumeSlot n).withRestart r := by
  simp only [State.resumeSlot, slot_withRestart]
  split
  · rfl
  · split <;> simp
@[simp] theorem resumeSlots_withRestart : (s.withRestart r).resumeSlots = s.resumeSlots.withRestart r := by
  simp [State.resumeSlots, foldl_withRestart fun s n => resumeSlot_withRestart n]
@[simp] theorem resumeRoom_withRestart : (s.withRestart r).resumeRoom = s.resumeRoom.withRestart r := by
  simp only [State.resumeRoom, room_withRestart, with_room_withRestart]
  simp

/-! ### Cause sets and faults -/

@[simp] theorem takeOut_withRestart (n : Fin 24) : (s.withRestart r).takeOut n = (s.takeOut n).withRestart r := by
  simp only [State.takeOut, slot_withRestart, slotCls_withRestart]
  split <;> simp
@[simp] theorem followJoin_withRestart (n : Fin 24) : (s.withRestart r).followJoin n = (s.followJoin n).withRestart r := by
  simp only [State.followJoin, slot_withRestart]
  split <;> simp
@[simp] theorem joinCause_withRestart (n : Fin 24) (m : Cause) :
    (s.withRestart r).joinCause n m = (s.joinCause n m).withRestart r := by simp [State.joinCause]
@[simp] theorem joinLost_withRestart (n : Fin 24) : (s.withRestart r).joinLost n = (s.joinLost n).withRestart r := by
  simp only [State.joinLost, slot_withRestart, setCause_withRestart]
  split
  · rfl
  · split <;> simp
@[simp] theorem removeCause_withRestart (n : Fin 24) (m : Cause) :
    (s.withRestart r).removeCause n m = (s.removeCause n m).withRestart r := by simp [State.removeCause]
@[simp] theorem faultEnd_withRestart (n : Fin 24) (code : FaultCode) (err : Option Nat) :
    (s.withRestart r).faultEnd n code err = (s.faultEnd n code err).withRestart r := by simp [State.faultEnd]
@[simp] theorem unlockFailed_withRestart (n : Fin 24) :
    (s.withRestart r).unlockFailed n = (s.unlockFailed n).withRestart r := by
  simp [State.unlockFailed]
@[simp] theorem faultAct_withRestart (n : Fin 24) (code : FaultCode) (err : Option Nat) (severity : Severity) :
    (s.withRestart r).faultAct n code err severity = (s.faultAct n code err severity).withRestart r := by
  cases severity <;> simp [State.faultAct]
@[simp] theorem raise_withRestart (source : Option (Fin 24)) (code : FaultCode) (err : Option Nat) :
    (s.withRestart r).raise source code err = (s.raise source code err).withRestart r := by
  simp only [State.raise, with_faults_withRestart]
  cases source <;> simp
@[simp] theorem regainSlot_withRestart (n : Fin 24) : (s.withRestart r).regainSlot n = (s.regainSlot n).withRestart r := by
  simp [State.regainSlot]
@[simp] theorem releaseLockout_withRestart (n : Fin 24) :
    (s.withRestart r).releaseLockout n = (s.releaseLockout n).withRestart r := by simp [State.releaseLockout]

/-! ### The configuration requests -/

@[simp] theorem rephase_withRestart (c : Fin 4) (k : Kind) :
    (s.withRestart r).rephase c k = (s.rephase c k).withRestart r := by
  exact overSlots_withRestart fun n s => by simp
@[simp] theorem classSet_withRestart (f : Nat × Nat × Nat × Nat) :
    (s.withRestart r).classSet f = (s.classSet f).withRestart r := by
  simp only [State.classSet]
  split <;> simp
@[simp] theorem priceEntrySet_withRestart (c b : Nat) (e : PriceEntry) :
    (s.withRestart r).priceEntrySet c b e = (s.priceEntrySet c b e).withRestart r := by
  simp only [State.priceEntrySet]
  split <;> simp
@[simp] theorem priceGeneralSet_withRestart (f : Nat × Nat × Nat × Nat) :
    (s.withRestart r).priceGeneralSet f = (s.priceGeneralSet f).withRestart r := by simp [State.priceGeneralSet]
@[simp] theorem leaveHalf_withRestart (old : Option SlotCfg) (new : Option (Fin 16 × Half)) :
    (s.withRestart r).leaveHalf old new = (s.leaveHalf old new).withRestart r := by cases old <;> simp [State.leaveHalf]
@[simp] theorem removeClass_withRestart (n : Fin 24) :
    (s.withRestart r).removeClass n = (s.removeClass n).withRestart r := by
  simp [State.removeClass]
@[simp] theorem followTerminal_withRestart (n : Fin 24) (i : Fin 16) :
    (s.withRestart r).followTerminal n i = (s.followTerminal n i).withRestart r := by simp [State.followTerminal]
@[simp] theorem showMoved_withRestart (n : Fin 24) : (s.withRestart r).showMoved n = (s.showMoved n).withRestart r := by
  simp [State.showMoved]
@[simp] theorem assignClass_withRestart (n : Fin 24) (c : SlotCfg) :
    (s.withRestart r).assignClass n c = (s.assignClass n c).withRestart r := by
  simp only [State.assignClass, slot_withRestart]
  cases (s.slot n).cfg <;> simp
@[simp] theorem slotSet_withRestart (f : Nat × Nat × Nat × Nat) :
    (s.withRestart r).slotSet f = (s.slotSet f).withRestart r := by
  simp only [State.slotSet, slot_withRestart, halfRefused_withRestart]
  split
  · simp
  · split
    · simp
    · split
      · simp
      · split
        · simp
        · split
          · split <;> simp
          · simp
@[simp] theorem terminalSet_withRestart (i : Fin 16) (m : TermMode) :
    (s.withRestart r).terminalSet i m = (s.terminalSet i m).withRestart r := by simp [State.terminalSet]
@[simp] theorem governorGeneralSet_withRestart (f : Nat × Nat) :
    (s.withRestart r).governorGeneralSet f = (s.governorGeneralSet f).withRestart r := by simp [State.governorGeneralSet]
@[simp] theorem governorClassSet_withRestart (f : Nat × GovClass) :
    (s.withRestart r).governorClassSet f = (s.governorClassSet f).withRestart r := by
  cases h : classOf f.1 with
  | none => simp [State.governorClassSet, h]
  | some c =>
    have struck (t : State) := overSlots_withRestart (s := t) (r := r)
      (f := fun n s => if s.slotCls n = some c then s.restrike n else s) fun n s => by simp
    simp [State.governorClassSet, h, struck]
@[simp] theorem senseInputSet_withRestart (f : Nat × Calibration) :
    (s.withRestart r).senseInputSet f = (s.senseInputSet f).withRestart r := by
  simp only [State.senseInputSet]
  split
  · cases slotOf f.1 <;> simp
  · simp
@[simp] theorem senseGeneralSet_withRestart (v : Nat) :
    (s.withRestart r).senseGeneralSet v = (s.senseGeneralSet v).withRestart r := by
  simp [State.senseGeneralSet, overSlots_withRestart (f := fun n s => s.restrike n) fun n s => restrike_withRestart n]
@[simp] theorem roomSet_withRestart (f : Nat × Nat × Nat × Nat × Nat × Nat) :
    (s.withRestart r).roomSet f = (s.roomSet f).withRestart r := by simp [State.roomSet]
@[simp] theorem roomMode_withRestart (m : Mode) : (s.withRestart r).roomMode m = (s.roomMode m).withRestart r := by
  simp [State.roomMode]

/-! ### The service requests -/

@[simp] theorem cardLost_withRestart (card : Nat) : (s.withRestart r).cardLost card = (s.cardLost card).withRestart r := by
  simp [State.cardLost]
@[simp] theorem rollAccount_withRestart (i : Nat) : (s.withRestart r).rollAccount i = (s.rollAccount i).withRestart r := by
  simp [State.rollAccount]
@[simp] theorem accountPut_withRestart (f : Nat × Nat × Nat × Nat × Nat) :
    (s.withRestart r).accountPut f = (s.accountPut f).withRestart r := by
  simp only [State.accountPut]
  split <;> simp
@[simp] theorem accountCredit_withRestart (i amount : Nat) :
    (s.withRestart r).accountCredit i amount = (s.accountCredit i amount).withRestart r := by
  simp only [State.accountCredit, usable_withRestart]
  cases s.usable i <;> simp
@[simp] theorem accountState_withRestart (i code : Nat) :
    (s.withRestart r).accountState i code = (s.accountState i code).withRestart r := by
  simp only [State.accountState, usable_withRestart]
  split
  · cases s.usable i <;> simp
  · simp
@[simp] theorem accountRemove_withRestart (i : Nat) :
    (s.withRestart r).accountRemove i = (s.accountRemove i).withRestart r := by simp [State.accountRemove]
@[simp] theorem accountRead_withRestart (i : Nat) : (s.withRestart r).accountRead i = (s.accountRead i).withRestart r := by
  simp [State.accountRead]
@[simp] theorem settlementRelease_withRestart (number : Nat) :
    (s.withRestart r).settlementRelease number = (s.settlementRelease number).withRestart r := by
  simp only [State.settlementRelease, settlement_withRestart]
  split <;> rfl
@[simp] theorem serviceTake_withRestart (p : Port) (n : Fin 24) (force : Bool) :
    (s.withRestart r).serviceTake p n force = (s.serviceTake p n force).withRestart r := by simp [State.serviceTake]
@[simp] theorem serviceReturn_withRestart (p : Port) (n : Fin 24) :
    (s.withRestart r).serviceReturn p n = (s.serviceReturn p n).withRestart r := by simp [State.serviceReturn]
@[simp] theorem slotStop_withRestart (n : Fin 24) : (s.withRestart r).slotStop n = (s.slotStop n).withRestart r := by
  simp [State.slotStop]
@[simp] theorem clearTaken_withRestart (p : Port) (source : Option (Fin 24)) (code : FaultCode) (e : Option FaultEntry) :
    (s.withRestart r).clearTaken p source code e = (s.clearTaken p source code e).withRestart r := by
  cases source <;> simp [State.clearTaken]
@[simp] theorem faultClear_withRestart (p : Port) (source : Option (Fin 24)) (code : FaultCode) :
    (s.withRestart r).faultClear p source code = (s.faultClear p source code).withRestart r := by
  simp only [State.faultClear, with_faults_withRestart, faults_withRestart]
  split <;> simp
@[simp] theorem waitlistRemove_withRestart (c : Fin 4) (card : Nat) :
    (s.withRestart r).waitlistRemove c card = (s.waitlistRemove c card).withRestart r := by
  simp only [State.waitlistRemove, queue_withRestart]
  split
  · simp
  · simp only [reservedFor_withRestart]; split <;> simp

/-! ### The converter -/

@[simp] theorem startNext_withRestart : (s.withRestart r).startNext = s.startNext.withRestart r := by
  simp only [State.startNext, scanner_withRestart]
  split
  · rfl
  · rfl
  · simp only [modScanner_withRestart]; split <;> rfl
  · rfl
@[simp] theorem askConversion_withRestart (p : Port) (input : Nat) :
    (s.withRestart r).askConversion p input = (s.askConversion p input).withRestart r := by simp [State.askConversion]

end

end Sys2Proof.Machine

/-! ## The commands that give a frame look at no RESTART (R196) -/

namespace Sys2Proof.Machine

section
variable {s : State} {p : Port} {k : FrameClass} {c : Instr}

/-! ### What a command does on its frame looks at no RESTART -/

/-- What is done looks at no RESTART taken, and leaves those taken as they are. -/
def Blind (act : State → State) : Prop := ∀ s r, act (s.withRestart r) = (act s).withRestart r

/-- The command gives a frame of class `k` at port `p`, on which it does `act`. -/
def Gives (c : Instr) (p : Port) (k : FrameClass) (act : State → State) : Prop :=
  ∀ s, exec c s = .next (s.frameArrives p k act)

/-- The command gives a frame, and unless it is a good RESTART it acts without a look at the RESTARTs taken. -/
def Carries (c : Instr) (p : Port) (k : FrameClass) : Prop := ∃ act, Gives c p k act ∧ (c ≠ .restart p [] → Blind act)

@[simp] theorem finish_withRestart (a : Answer) (r : Restarts) (kind writes : Nat) :
    (a.withRestart r).finish p kind writes = (a.finish p kind writes).withRestart r := by
  unfold Answer.finish
  rw [show (a.withRestart r).state.writes = a.state.writes from rfl]
  split <;> cases p <;> rfl

/-- What a request does once its frame is taken (R187, R188). -/
def requestTaken {α : Type} (p : Port) (kind : Nat) (parsed : Except Status α) (go : α → State → State) (s : State) : State :=
  let s := s.countTaken p
  if kindRefused p kind then s.answer p kind .notPermitted
  else match parsed with
    | .error status => s.answer p kind status
    | .ok a => if kindWrites kind && s.turn == some (otherPort p) then s.answer p kind .full else go a s

theorem blind_requestTaken {α : Type} {kind : Nat} {parsed : Except Status α} {go : α → State → State}
    (h : ∀ a, Blind (go a)) : Blind (requestTaken p kind parsed go) := fun s r => by
  cases parsed with
  | error status => simp [requestTaken]
  | ok a => simp [requestTaken, h a _ r]

theorem carries_take {α : Type} {kind : Nat} {parsed : Except Status α} {go : α → State → State}
    (he : ∀ s, exec c s = .next (s.take p kind parsed go)) (h : ∀ a, Blind (go a)) : Carries c p .request :=
  ⟨requestTaken p kind parsed go, he, fun _ => blind_requestTaken h⟩

theorem carries_request {α : Type} {kind : Nat} {parsed : Except Status α} {act : α → State → Answer}
    (he : ∀ s, exec c s = .next (s.request p kind parsed act))
    (h : ∀ a s r, act a (s.withRestart r) = (act a s).withRestart r) : Carries c p .request :=
  carries_take he fun a s r => by rw [h, finish_withRestart, writes_withRestart]

/-- What RESTART does once its frame is taken (R196). -/
def restartTaken (p : Port) (body : List Byte) : State → State :=
  requestTaken p 0x60 (bodyNone body) fun _ s => { s with restart := s.restart.take p }.ok.finish p 0x60 s.writes.length

theorem gives_restart (body : List Byte) : Gives (.restart p body) p .request (restartTaken p body) := fun _ => rfl

/-- A good RESTART is answered OK and taken on its port. -/
theorem restartTaken_nil : restartTaken p [] s = ((s.countTaken p).answer p 0x60 .ok).withRestart (s.restart.take p) := by
  have allowed : kindRefused p 0x60 = false := by cases p <;> rfl
  simp only [restartTaken, requestTaken, allowed, Bool.false_eq_true, if_false, bodyNone]
  exact (if_pos rfl).trans (by cases p <;> rfl)

/-- A RESTART with a body is refused for its length (R196). -/
theorem carries_restart (body : List Byte) : Carries (.restart p body) p .request := by
  refine ⟨restartTaken p body, fun s => rfl, fun good => ?_⟩
  cases body with
  | nil => exact absurd rfl good
  | cons b rest => intro s r; simp [restartTaken, requestTaken, bodyNone]

theorem carries_priceSet (body : List Byte) (he : ∀ s, exec c s = .next (s.priceSet p body)) : Carries c p .request :=
  carries_request he fun a s r => by cases a <;> simp

theorem carries_governorSet (body : List Byte) (he : ∀ s, exec c s = .next (s.governorSet p body)) : Carries c p .request :=
  carries_request he fun a s r => by cases a <;> simp

theorem carries_senseSet (body : List Byte) (he : ∀ s, exec c s = .next (s.senseSet p body)) : Carries c p .request :=
  carries_request he fun a s r => by cases a <;> simp

theorem carries_slotService (body : List Byte) (he : ∀ s, exec c s = .next (s.slotService p body)) : Carries c p .request :=
  carries_request he fun a s r => by split <;> simp

/-- Every request of the catalogue. -/
theorem request_carries {f : Port × Nat × List Byte} (hc : requestFields c = some f) : Carries c f.1 .request := by
  cases c with
  | roomStatus | grantsRead => cases hc; exact carries_request (fun _ => rfl) fun a s r => by simp
  | classSet | slotSet | roomSet | accountPut | accountCredit | accountState | accountRemove | accountRead | settlementRelease =>
    cases hc; exact carries_request (fun _ => rfl) fun a s r => by simp
  | eventsRead | settlementRead | faultsRead | historyRead | timeSet | budgetSet | roomResume =>
    cases hc; exact carries_request (fun _ => rfl) fun a s r => by simp
  | slotStatus | terminalStatus | portStatus | terminalSet | slotStop | faultClear | roomMode =>
    cases hc; exact carries_request (fun _ => rfl) fun a s r => by split <;> simp
  | waitlistRead | waitlistRemove => cases hc; exact carries_request (fun _ => rfl) fun a s r => by split <;> simp
  | priceSetEntry p b | priceSetGeneral p b => cases hc; exact carries_priceSet b fun _ => rfl
  | governorSetGeneral p b | governorSetClass p b => cases hc; exact carries_governorSet b fun _ => rfl
  | senseSetInput p b | senseSetGeneral p b => cases hc; exact carries_senseSet b fun _ => rfl
  | slotServiceTake p b | slotServiceReturn p b => cases hc; exact carries_slotService b fun _ => rfl
  | senseRead => cases hc; exact carries_take (fun _ => rfl) fun a s r => by simp
  | restart p b => cases hc; exact carries_restart b
  | _ => cases hc

theorem carries_of_requestOf (h : (requestOf c).map (fun r => (r.1, FrameClass.request)) = some (p, k)) : Carries c p k := by
  cases e : requestFields c with
  | none => simp [requestOf, e] at h
  | some f =>
    obtain ⟨rfl, rfl⟩ : f.1 = p ∧ FrameClass.request = k := by simpa [requestOf, e] using h
    exact request_carries e

/-- Every command that gives a whole frame. -/
theorem frame_carries (h : frameOf c = some (p, k)) : Carries c p k := by
  cases c with
  | unknownKindRequest q kind body =>
    have h : (if catalogueKinds.contains kind.toNat then none else some (q, FrameClass.request)) = some (p, k) := h
    split at h
    · cases h
    · cases h
      refine ⟨fun s => (s.countTaken p).answer p kind.toNat .unknownKind, fun s => ?_, fun _ s r => by simp⟩
      simp only [exec, execUnknownKindRequest]
      rw [if_neg ‹_›]
  | broadcastDropped q kind body => cases h; exact ⟨_, fun s => rfl, fun _ s r => rfl⟩
  | broadcastTimeSet q body =>
    cases h
    exact ⟨_, fun s => rfl, fun _ s r => by cases body23 body <;> simp⟩
  | broadcastBudgetSet q body =>
    cases h
    exact ⟨_, fun s => rfl, fun _ s r => by cases body3 body <;> simp⟩
  | _ => exact carries_of_requestOf h

end

end Sys2Proof.Machine

/-! ## Frames of the host ports (R57, R185 to R187, R196) -/

namespace Sys2Proof.Machine

section
variable {s : State} {p : Port} {a : Byte} {bytes : List Byte} {k : FrameClass}

/-! ### The line of a port whose counts alone have changed -/

theorem portBusy_iff : s.portBusy p = true ↔ (s.port p).activity ≠ .idle := by simp [State.portBusy]

theorem deaf_iff : s.deaf p = true ↔ s.restart.of (otherPort p) ≠ .none := by simp [State.deaf]

@[simp] theorem listens_setPort (u : PortUnit) : (s.setPort p u).listens p = (s.life == .running && !u.activity.isSending) := by
  simp [State.listens]

@[simp] theorem deaf_setPort (q : Port) (u : PortUnit) : (s.setPort q u).deaf p = s.deaf p := by simp [State.deaf]

@[simp] theorem listens_setFrame (f : Option (Byte × List Byte)) : (s.setFrame p f).listens p = s.listens p := by
  rw [State.setFrame, listens_setPort]; rfl

@[simp] theorem deaf_setFrame (f : Option (Byte × List Byte)) : (s.setFrame p f).deaf p = s.deaf p := deaf_setPort ..

@[simp] theorem port_setFrame (f : Option (Byte × List Byte)) : (s.setFrame p f).port p = { s.port p with frame := f } :=
  State.port_setPort_same ..

theorem ite_deaf (x y : State) :
    (if s.deaf p then x else y) = if s.restart.of (otherPort p) ≠ .none then x else y := if_congr deaf_iff rfl rfl

theorem discardFrame_eq (a : Byte) : s.discardFrame p a = s.frameDiscarded p a := by
  unfold State.discardFrame State.frameDiscarded
  cases frameClass s.unit p a.toNat <;> simp [State.portBusy]

/-- A frame that is discarded changes its port's counts at most. -/
theorem frameDiscarded_counts (a : Byte) : ∃ n, s.frameDiscarded p a = s.setPort p { s.port p with counts := n } := by
  unfold State.frameDiscarded
  split
  · exact ⟨_, (s.setPort_self p).symm⟩
  · exact ⟨_, rfl⟩
  all_goals split <;> exact ⟨_, rfl⟩

@[simp] theorem listens_frameDiscarded : (s.frameDiscarded p a).listens p = s.listens p := by
  obtain ⟨n, e⟩ := frameDiscarded_counts (s := s) (p := p) a
  rw [e, listens_setPort]; rfl

@[simp] theorem deaf_frameDiscarded : (s.frameDiscarded p a).deaf p = s.deaf p := by
  obtain ⟨n, e⟩ := frameDiscarded_counts (s := s) (p := p) a
  rw [e, deaf_setPort]

@[simp] theorem frame_frameDiscarded : ((s.frameDiscarded p a).port p).frame = (s.port p).frame := by
  obtain ⟨n, e⟩ := frameDiscarded_counts (s := s) (p := p) a
  rw [e, State.port_setPort_same]

/-! ### Frames with one open -/

theorem breakOff_open (open_ : (s.port p).frame = some (a, bytes)) :
    s.breakOff p = (s.setFrame p none).frameDiscarded p a := by
  simp only [State.breakOff, open_, discardFrame_eq]

/-- A frame that ends is judged where the port listens and has it open, or hears. -/
theorem frameEnded_judged (hl : s.listens p = true) (hj : (s.port p).frame.isSome = true ∨ s.deaf p = false) (e : FrameEnd) :
    s.frameEnded p e = match e with
      | .complete a bytes =>
        if s.frameGood p a bytes then s.takeFrame p a bytes else (s.setFrame p none).frameDiscarded p a
      | .badCharacter a | .gap a | .broken a => (s.setFrame p none).frameDiscarded p a := by
  have judged : (!s.listens p || s.deaf p && (s.port p).frame.isNone) = false := by
    rcases hj with h | h
    · simp [hl, ← Option.not_isSome, h]
    · simp [hl, h]
  unfold State.frameEnded
  rw [if_neg (by simp [judged])]
  cases e <;> simp only [discardFrame_eq]

/-- A frame that ends without being good is discarded. -/
theorem frameEnded_bad (hl : s.listens p = true) (hj : (s.port p).frame.isSome = true ∨ s.deaf p = false) {e : FrameEnd}
    (bad : badEnd s.unit p a e) : s.frameEnded p e = (s.setFrame p none).frameDiscarded p a := by
  rw [frameEnded_judged hl hj]
  rcases bad with rfl | rfl | ⟨bytes, rfl, bad⟩
  · rfl
  · rfl
  · have wrong : s.frameGood p a bytes = false := by
      rcases bad with h | h | ⟨l, rest, rfl, h⟩
      · simp [State.frameGood, h]
      · simp [State.frameGood, h]
      · rcases h with rfl | h
        · simp [State.frameGood]
        · simp only [State.frameGood, List.head?_cons, Option.any_some, Bool.and_eq_false_iff]
          exact .inl (.inr (by simp; omega))
    dsimp only
    rw [wrong]
    rfl

theorem frameGood_sealed {kind : Byte} {body : List Byte} (short : body.length < 200)
    (known : frameClass s.unit p a.toNat ≠ .inError) :
    s.frameGood p a (sealed (BitVec.ofNat 8 (body.length + 1) :: kind :: body)) = true := by
  have length : (BitVec.ofNat 8 (body.length + 1)).toNat = body.length + 1 := toNat_byte (by omega)
  have head : (sealed (BitVec.ofNat 8 (body.length + 1) :: kind :: body)).head? = some (BitVec.ofNat 8 (body.length + 1)) := rfl
  simp only [State.frameGood, checkAgrees_sealed, head, Option.any_some, length]
  simp [known]
  omega

theorem requestParts_sealed {l kind : Byte} {body : List Byte} : requestParts (sealed (l :: kind :: body)) = some (kind, body) := by
  simp [requestParts, sealed, length_checkBytes]

/-- A frame that opens and goes on beyond a run of characters, with none open before it, where it is heard. -/
theorem leaveOpen_new (f : Byte × List Byte) :
    s.leaveOpen p false (some f) = if s.deaf p then s else s.frameOpened p f := by
  unfold State.leaveOpen State.frameOpened
  dsimp only
  rw [if_neg Bool.false_ne_true]
  cases frameClass s.unit p f.1.toNat <;> simp [State.portBusy, State.setFrame]

/-- A frame that ends complete and good is taken. -/
theorem frameEnded_good (hl : s.listens p = true) (hj : (s.port p).frame.isSome = true ∨ s.deaf p = false) {kind : Byte}
    {body : List Byte} (short : body.length < 200) (known : frameClass s.unit p a.toNat ≠ .inError) :
    s.frameEnded p (.complete a (sealed (BitVec.ofNat 8 (body.length + 1) :: kind :: body))) =
      match frameClass s.unit p a.toNat with
      | .request => s.after (exec (requestCommand p kind body) s)
      | .broadcast => s.after (exec (broadcastCommand p kind body) s)
      | .notForUnit | .inError => s := by
  rw [frameEnded_judged hl hj]
  dsimp only
  rw [if_pos (frameGood_sealed short known), State.takeFrame, requestParts_sealed]
  cases frameClass s.unit p a.toNat <;> simp only [takeRequest_eq, takeBroadcast_eq]

/-- No command is refused or faults. -/
theorem next_after (c : Instr) (s : State) : .next (s.after (exec c s)) = exec c s := by
  cases c <;> rfl

/-! ### Characters -/

theorem hears_iff : s.hears p = true ↔ s.listens p = true ∧ s.deaf p = false := by simp [State.hears]

theorem exec_discard (hl : s.listens p = true) (chars : List RxChar) :
    exec (.hostFrameDiscard p chars) s = .next (s.hearChars p chars) := congrArg _ (if_pos hl)

/-- Characters in which one frame ends. -/
theorem hearChars_end {chars : List RxChar} {e : FrameEnd} {o : Option (Byte × List Byte)}
    (h : assemble (s.port p).frame chars = ([e], o)) : s.hearChars p chars = (s.frameEnded p e).leaveOpen p false o := by
  simp only [State.hearChars, h, List.isEmpty_cons, Bool.and_false, List.foldl_cons, List.foldl_nil]

/-- Characters in which no frame ends. -/
theorem hearChars_open {chars : List RxChar} {o : Option (Byte × List Byte)} (h : assemble (s.port p).frame chars = ([], o)) :
    s.hearChars p chars = s.leaveOpen p (s.port p).frame.isSome o := by
  simp only [State.hearChars, h, List.isEmpty_nil, Bool.and_true, List.foldl_nil]

theorem requestFrame_line (a kind : Byte) (body : List Byte) :
    (requestFrame a kind body).map (cleanChar 0) = lineOf a (sealed (BitVec.ofNat 8 (body.length + 1) :: kind :: body)) := by
  rw [requestFrame, beBytes_one, Nat.add_comm 1]; rfl

/-- A whole frame's characters are the command that its class and its kind name (R185, R201). -/
theorem exec_discard_whole {chars : List RxChar} {kind : Byte} {body : List Byte} (hl : s.listens p = true)
    (hj : (s.port p).frame.isSome = true ∨ s.deaf p = false) (short : body.length < 200)
    (h : assemble (s.port p).frame chars = ([.complete a (sealed (BitVec.ofNat 8 (body.length + 1) :: kind :: body))], none)) :
    (frameClass s.unit p a.toNat = .request → exec (.hostFrameDiscard p chars) s = exec (requestCommand p kind body) s) ∧
    (frameClass s.unit p a.toNat = .broadcast → exec (.hostFrameDiscard p chars) s = exec (broadcastCommand p kind body) s) ∧
    (frameClass s.unit p a.toNat = .notForUnit → exec (.hostFrameDiscard p chars) s = .next s) := by
  have whole (known : frameClass s.unit p a.toNat ≠ .inError) := frameEnded_good (kind := kind) hl hj short known
  rw [exec_discard hl, hearChars_end h]
  refine ⟨fun c => ?_, fun c => ?_, fun c => ?_⟩ <;> rw [whole (by rw [c]; decide), c]
  · exact next_after _ s
  · exact next_after _ s
  · rfl

/-! ### Commands that give a whole frame -/

/-- The port is IDLE, and an address `a` is that of a frame of class `k`. -/
def State.owns (s : State) (p : Port) (a : Byte) (k : FrameClass) : Prop :=
  (s.port p).activity = .idle ∧ frameClass s.unit p a.toNat = k

/-- A frame of its class ends the open one of an IDLE port, and is taken (log 36). -/
theorem frameArrives_own (hl : s.listens p = true) (open_ : (s.port p).frame = some (a, bytes)) (own : s.owns p a k)
    (act : State → State) : s.frameArrives p k act = act (s.setFrame p none) := by
  obtain ⟨idle, class_⟩ := own
  simp [State.frameArrives, hl, State.portBusy, idle, State.frameIs, open_, class_]

theorem frameIs_closed (closed : (s.port p).frame = none) : s.frameIs p k = false := by simp [State.frameIs, closed]

/-- Any other frame breaks the open one off (R57). -/
theorem frameArrives_other (hl : s.listens p = true) (open_ : (s.port p).frame = some (a, bytes)) (other : ¬ s.owns p a k)
    (act : State → State) : s.frameArrives p k act = ((s.setFrame p none).frameDiscarded p a).frameArrives p k act := by
  have not_own : (!s.portBusy p && s.frameIs p k) = false := by
    simpa [State.owns, State.portBusy, State.frameIs, open_] using other
  have closed : (((s.setFrame p none).frameDiscarded p a).port p).frame = none := by
    rw [frame_frameDiscarded, port_setFrame]
  have hl' : ((s.setFrame p none).frameDiscarded p a).listens p = true := by
    rw [listens_frameDiscarded, listens_setFrame, hl]
  simp only [State.frameArrives, hl, hl', not_own, breakOff_open open_, frameIs_closed closed, breakOff_none closed,
    Bool.and_false, Bool.not_true, Bool.false_eq_true, if_false]

/-- With none open, a RESTART on the other port has every frame disregarded (R196). -/
theorem frameArrives_deaf (hd : s.deaf p = true) (closed : (s.port p).frame = none) (act : State → State) :
    s.frameArrives p k act = s := by
  simp [State.frameArrives, State.frameIs, closed, breakOff_none closed, hd]

theorem hearChars_deaf (hd : s.deaf p = true) (closed : (s.port p).frame = none) (chars : List RxChar) :
    s.hearChars p chars = s := by
  have ended (e : FrameEnd) : s.frameEnded p e = s := by simp [State.frameEnded, hd, closed]
  have all (es : List FrameEnd) : es.foldl (fun s e => s.frameEnded p e) s = s := by
    induction es with
    | nil => rfl
    | cons e es ih => rw [List.foldl_cons, ended, ih]
  simp only [State.hearChars, all, closed, Option.isSome_none, Bool.false_and]
  cases (assemble none chars).2 with
  | none => rfl
  | some f => exact (leaveOpen_new f).trans (if_pos hd)

end

/-! ### BadFramesAreCounted -/

section
variable {s : State} {p : Port} {a : Byte} {bytes : List Byte}

/-- A frame that a hearing port with none open is given (R57, R185 to R187). -/
theorem frames_heard (hh : s.hears p = true) (closed : (s.port p).frame = none) :
    (∀ (a kind : Byte) (body : List Byte) (chars : List RxChar), body.length < 200 →
      chars = (requestFrame a kind body).map (cleanChar 0) →
      (frameClass s.unit p a.toNat = .request → exec (.hostFrameDiscard p chars) s = exec (requestCommand p kind body) s) ∧
      (frameClass s.unit p a.toNat = .broadcast → exec (.hostFrameDiscard p chars) s = exec (broadcastCommand p kind body) s) ∧
      (frameClass s.unit p a.toNat = .notForUnit → exec (.hostFrameDiscard p chars) s = .next s)) ∧
    ∀ (a : Byte) (chars : List RxChar),
      exec (.frameGapTimeout (.host p) a) s = .next (s.frameDiscarded p a) ∧
      (∀ e, assemble none chars = ([e], none) → badEnd s.unit p a e →
        exec (.hostFrameDiscard p chars) s = .next (s.frameDiscarded p a)) ∧
      (∀ bytes, assemble none chars = ([], some (a, bytes)) →
        exec (.hostFrameDiscard p chars) s = .next (s.frameOpened p (a, bytes))) ∧
      ∀ f, assemble none chars = ([.broken a], some f) →
        exec (.hostFrameDiscard p chars) s = .next ((s.frameDiscarded p a).frameOpened p f) := by
  obtain ⟨hl, hd⟩ := hears_iff.1 hh
  have ended {e : FrameEnd} {chars : List RxChar} {o : Option (Byte × List Byte)} (h : assemble none chars = ([e], o)) :
      s.hearChars p chars = (s.frameEnded p e).leaveOpen p false o := hearChars_end (by rw [closed]; exact h)
  refine ⟨fun a kind body chars short line => ?_, fun a chars => ⟨?_, fun e h bad => ?_, fun bytes h => ?_, fun f h => ?_⟩⟩
  · refine exec_discard_whole hl (.inr hd) short ?_
    rw [closed, line, requestFrame_line]
    exact assemble_sealed (by rw [toNat_byte (by omega), List.length_cons])
  · simp [exec, execFrameGapTimeout, hl, hd, closed, discardFrame_eq]
  · rw [exec_discard hl, ended h, frameEnded_bad hl (.inr hd) bad, setFrame_none closed]
    rfl
  · rw [exec_discard hl, hearChars_open (by rw [closed]; exact h), closed]
    exact congrArg _ ((leaveOpen_new _).trans (if_neg (by simp [hd])))
  · rw [exec_discard hl, ended h, frameEnded_judged hl (.inr hd), setFrame_none closed]
    exact congrArg _ ((leaveOpen_new _).trans (if_neg (by simp [hd])))

/-- What becomes of the frame that a listening port has open (R57, R185 to R187; log 25, log 36). -/
theorem open_frame_goes_on (hl : s.listens p = true) (open_ : (s.port p).frame = some (a, bytes)) :
    let u := s.setFrame p none
    (∀ b, exec (.frameGapTimeout (.host p) b) s = .next (u.frameDiscarded p a) ∧
      (p = .building → exec (.frameNotForUnit b) s = .next (u.frameDiscarded p a)) ∧
      ((s.port p).activity ≠ .idle → frameClass s.unit p b.toNat = .request ∨ frameClass s.unit p b.toNat = .broadcast →
        exec (.hostFrameOverrun p b) s = .next (if s.restart.of (otherPort p) ≠ .none then u.frameDiscarded p a
          else (u.frameDiscarded p a).countOverrun p))) ∧
    ∀ chars, (∀ more, assemble (some (a, bytes)) chars = ([], some (a, more)) →
        exec (.hostFrameDiscard p chars) s = .next (s.setFrame p (some (a, more)))) ∧
      (∀ e, assemble (some (a, bytes)) chars = ([e], none) → badEnd s.unit p a e →
        exec (.hostFrameDiscard p chars) s = .next (u.frameDiscarded p a)) ∧
      (∀ f, assemble (some (a, bytes)) chars = ([.broken a], some f) →
        exec (.hostFrameDiscard p chars) s = .next (if s.restart.of (otherPort p) ≠ .none then u.frameDiscarded p a
          else (u.frameDiscarded p a).frameOpened p f)) ∧
      ∀ kind body, body.length < 200 →
        assemble (some (a, bytes)) chars = ([.complete a (sealed (BitVec.ofNat 8 (body.length + 1) :: kind :: body))], none) →
        (s.owns p a .request → exec (.hostFrameDiscard p chars) s = exec (requestCommand p kind body) s) ∧
        (s.owns p a .broadcast → exec (.hostFrameDiscard p chars) s = exec (broadcastCommand p kind body) s) := by
  have judged : (s.port p).frame.isSome = true ∨ s.deaf p = false := .inl (by rw [open_]; rfl)
  refine ⟨fun b => ⟨?_, ?_, fun busy class_ => ?_⟩, fun chars => ⟨fun more h => ?_, fun e h bad => ?_, fun f h => ?_,
    fun kind body short h => ?_⟩⟩
  · simp [exec, execFrameGapTimeout, hl, open_, breakOff_open open_]
  · rintro rfl
    simp [exec, execFrameNotForUnit, hl, breakOff_open open_]
  · have busy := portBusy_iff.2 busy
    rw [← ite_deaf, ← breakOff_open open_]
    rcases class_ with class_ | class_ <;> simp only [exec, execHostFrameOverrun, hl, busy, class_, Bool.and_self]
  · rw [exec_discard hl, hearChars_open (by rw [open_]; exact h), open_]
    rfl
  · rw [exec_discard hl, hearChars_end (by rw [open_]; exact h), frameEnded_bad hl judged bad]
    rfl
  · rw [exec_discard hl, hearChars_end (by rw [open_]; exact h), frameEnded_judged hl judged, leaveOpen_new, ← ite_deaf]
    simp
  · obtain ⟨request, broadcast, -⟩ := exec_discard_whole hl judged short (by rw [open_]; exact h)
    exact ⟨fun own => request own.2, fun own => broadcast own.2⟩

/-- A whole frame that a command gives, at a listening port with a frame open (R57, R196; log 25, log 36). -/
theorem whole_frame_given {c : Instr} {k : FrameClass} (hl : s.listens p = true) (open_ : (s.port p).frame = some (a, bytes))
    (hc : frameOf c = some (p, k)) :
    let u := s.setFrame p none
    (s.owns p a k → s.restart.of (otherPort p) = .none → exec c s = exec c u) ∧
    (s.owns p a k → ∀ t, s.restart.of (otherPort p) ≠ .none → exec c (u.withRestart .start) = .next t →
      let first := c = .restart p [] ∧ s.restart.of p = .none
      exec c s = .next (t.withRestart (if first then s.restart.set p .taken else s.restart))) ∧
    (¬ s.owns p a k → exec c s = exec c (u.frameDiscarded p a)) := by
  have idle (own : s.owns p a k) {w : State} (line : w.port p = (s.setFrame p none).port p) (hears : w.hears p = true)
      (act : State → State) : w.frameArrives p k act = act w := by
    rw [port_setFrame] at line
    rw [frameArrives_none hears (by rw [line]), if_neg (by rw [portBusy_iff, line]; exact not_not_intro own.1)]
  have listens : (s.setFrame p none).listens p = true := by rw [listens_setFrame, hl]
  refine ⟨fun own none_ => ?_, fun own t _ ht => ?_, fun other => ?_⟩
  · obtain ⟨act, gives, -⟩ := frame_carries hc
    have hears : (s.setFrame p none).hears p = true := hears_iff.2 ⟨listens, by simp [State.deaf, none_]⟩
    rw [gives, gives, frameArrives_own hl open_ own, idle own rfl hears]
  · have hears : ((s.setFrame p none).withRestart .start).hears p = true := hears_iff.2 ⟨listens, by cases p <;> rfl⟩
    have acts {act : State → State} (gives : Gives c p k act) :
        exec c s = .next (act (s.setFrame p none)) ∧ act ((s.setFrame p none).withRestart .start) = t := by
      refine ⟨by rw [gives, frameArrives_own hl open_ own], ?_⟩
      have fresh := gives ((s.setFrame p none).withRestart .start)
      rw [idle own (w := (s.setFrame p none).withRestart .start) rfl hears] at fresh
      exact Host.Outcome.next.inj (fresh.symm.trans ht)
    by_cases good : c = .restart p []
    · subst good
      cases hc
      obtain ⟨taken, rfl⟩ := acts (gives_restart [])
      rw [taken, restartTaken_nil, restartTaken_nil]
      simp [Restarts.take, State.setFrame]
    · obtain ⟨act, gives, blind⟩ := frame_carries hc
      obtain ⟨taken, rfl⟩ := acts gives
      intro first
      have restored : (s.setFrame p none).withRestart s.restart = s.setFrame p none := by cases p <;> rfl
      rw [taken, if_neg fun h : first => good h.1, ← blind good, withRestart_withRestart, restored]
  · obtain ⟨act, gives, -⟩ := frame_carries hc
    rw [gives, gives, frameArrives_other hl open_ other]

/-- After a RESTART on the other port nothing that stands on a port with no frame open does anything (R196). -/
theorem deaf_port_disregards {c : Instr} (restarted : s.restart.of (otherPort p) ≠ .none) (closed : (s.port p).frame = none)
    (h : (∃ k, frameOf c = some (p, k)) ∨ (∃ a, c = .hostFrameOverrun p a ∨ c = .frameGapTimeout (.host p) a) ∨
      ∃ chars, c = .hostFrameDiscard p chars) : exec c s = .next s := by
  have hd := deaf_iff.2 restarted
  rcases h with ⟨k, hc⟩ | ⟨a, rfl | rfl⟩ | ⟨chars, rfl⟩
  · obtain ⟨act, gives, -⟩ := frame_carries hc
    rw [gives, frameArrives_deaf hd closed]
  · simp only [exec, execHostFrameOverrun]
    split <;> simp [hd, breakOff_none closed]
  · simp [exec, execFrameGapTimeout, hd, closed]
  · simp [exec, execHostFrameDiscard, hearChars_deaf hd closed]

/-- Settles O34: where the port hears with no frame open, where it listens with one open, and after a RESTART on the other. -/
theorem badFramesAreCounted : Obligations.BadFramesAreCounted := by
  refine ⟨fun s p hh closed => frames_heard hh closed, fun s p a bytes hl open_ => ?_,
    fun s p c restarted closed h => deaf_port_disregards restarted closed h⟩
  obtain ⟨breaks, chars⟩ := open_frame_goes_on hl open_
  exact ⟨breaks, chars, fun c k hc => whole_frame_given hl open_ hc⟩

end

end Sys2Proof.Machine

namespace Sys2Proof.Machine

/-! ## The payment unit's records balanced (R60 to R62, R64, R74) -/

/-- Every plain command keeps the books balanced: the end of a stored change and power loss, which `Does` does not tell of, leave
them as they are. -/
theorem exec_purse (c : Instr) (hc : plainCommand c = true) {s : State} (w : Whole s) (h : s.purse) :
    (s.after (exec c s)).purse := by
  by_cases hw : c = .storeWriteDone
  · subst hw
    obtain ⟨-, -, holds, -, accounts, settlement, -⟩ := writeDone_rest s
    have done : s.writeDone.purse := h.same accounts holds settlement
    show (match s.life with | .running | .restartDue => s.writeDone | .waiting | .strap _ => s).purse
    split
    iterate 2 exact done
    all_goals exact h
  by_cases hl : c = .powerLoss
  · subst hl
    exact h.same rfl rfl rfl
  exact (exec_does c hc hw hl s).purse w h

/-- Settles O58: every plain command keeps the books balanced, and so do those that the characters of a frame carry. -/
theorem commandsKeepThePurse : Obligations.CommandsKeepThePurse := by
  intro c s t hu hr hh hb h e
  have w : Whole s := whole_iff.2 ⟨hh, hb⟩
  cases c with
  | startUp i => exact absurd rfl (hu i)
  | strapReread i => exact absurd rfl (hr i)
  | hostFrameDiscard p chars =>
    have port (p : Port) (a : State) (u : PortUnit) (k : Whole a ∧ a.purse) : Whole (a.setPort p u) ∧ (a.setPort p u).purse :=
      have d : Does a (a.setPort p u) := (Does.refl a).setPort p u
      ⟨d.whole k.1, d.purse k.1 k.2⟩
    exact (frameCharacters_keep (P := fun a => Whole a ∧ a.purse) port
      (fun c a hc k => ⟨exec_whole c hc k.1, exec_purse c hc k.1 k.2⟩) ⟨w, h⟩ e).2
  | _ => exact exec_after e ▸ exec_purse _ rfl w h

end Sys2Proof.Machine

namespace Sys2Proof.Machine

/-! ## The account requests (R63, R65 to R70) -/

section
variable {s t u : State} {p : Port} {i : Nat}

/-! ### The bodies and the record at a counted request -/

theorem body2_bytes {n : Nat} (h : n < 65536) : body2 (beBytes 2 n) = .ok n := by rw [beBytes_two, body2, beNat_two h]

theorem body23_bytes {m n : Nat} (hm : m < 65536) (hn : n < 16777216) : body23 (beBytes 2 m ++ beBytes 3 n) = .ok (m, n) := by
  rw [beBytes_two, beBytes_three]
  show Except.ok (beNat [_, _], beNat [_, _, _]) = _
  rw [beNat_two hm, beNat_three hn]

theorem bodyAccountPut_bytes {card code balance cap : Nat} (hi : i < 65536) (hc : card < 4294967296) (hs : code < 256)
    (hb : balance < 16777216) (hd : cap < 16777216) :
    bodyAccountPut (beBytes 2 i ++ beBytes 4 card ++ beBytes 1 code ++ beBytes 3 balance ++ beBytes 3 cap) =
      .ok (i, card, code, balance, cap) := by
  rw [beBytes_two, beBytes_four, beBytes_one, beBytes_three, beBytes_three]
  show Except.ok (beNat [_, _], beNat [_, _, _, _], _, beNat [_, _, _], beNat [_, _, _]) = _
  rw [beNat_two hi, beNat_four hc, beNat_three hb, beNat_three hd, toNat_byte hs]

theorem accountStateOf_code {st : AccountState} (h : st = .active ∨ st = .blocked) :
    accountStateOf (if st = .active then 1 else 2) = some st := by
  rcases h with rfl | rfl <;> rfl

theorem stateCode_small (st : AccountState) : (if st = .active then 1 else 2) < 256 := by split <;> decide

theorem indexOk_of_lt (h : i < 512) : indexOk i = true := decide_eq_true h

theorem countTaken_account (s : State) (p : Port) (i : Nat) : (s.countTaken p).account i = s.account i :=
  countTaken_proj (fun u => u.account i) (fun _ => rfl) s p

theorem countTaken_day (s : State) (p : Port) : (s.countTaken p).clock.day = s.clock.day :=
  countTaken_proj (fun u => u.clock.day) (fun _ => rfl) s p

/-- A record that is put at a counted request: the reply waits for its write alone (R71, R189). -/
theorem finish_putAccount (b : Account) (k : Nat) (r : ReplyBody) :
    (((s.countTaken p).putAccount i b).ok r).finish p k (s.countTaken p).writes.length =
      (s.setAccount i b).stores p ⟨k, .ok, r⟩ [.account i b] := by
  refine Eq.trans ?_ (finish_stores (s := s) (u := s.setAccount i b) rfl k r [.account i b])
  cases p <;> rfl

/-! ### ACCOUNT_READ (R63, R69) -/

/-- A read of a FREE record, or on its spend day, changes nothing (R63). -/
theorem accountRead_kept (hi : i < 512) (same : (u.account i).state = .free ∨ (u.account i).spendDay = u.clock.day) :
    u.accountRead i = u.ok (.account (u.account i) ((u.account i).balance - (u.account i).held)) := by
  have kept : (if (u.account i).state = .free then u else u.rollAccount i) = u := by
    rcases same with free | day
    · exact if_pos free
    · rw [rollAccount_eq, Account.rolled, if_neg (not_not.2 day), if_pos rfl, ite_self]
  unfold State.accountRead
  rw [if_neg (by simp [indexOk_of_lt hi]), kept]
  rfl

/-- A read on another day than the spend day rolls the spending over (R63). -/
theorem accountRead_rolled (hi : i < 512) (listed : (u.account i).state ≠ .free) (day : (u.account i).spendDay ≠ u.clock.day)
    {b : Account} (hb : b = { u.account i with spent := 0, spendDay := u.clock.day }) :
    u.accountRead i = (u.putAccount i b).ok (.account b (b.balance - b.held)) := by
  have rolled : (u.account i).rolled u.clock.day = b := by rw [Account.rolled, if_pos day, hb]
  have changed : b ≠ u.account i := fun e => day (by rw [← e, hb])
  unfold State.accountRead
  rw [if_neg (by simp [indexOk_of_lt hi]), if_neg listed, rollAccount_eq, rolled, if_neg changed]
  have own : (u.putAccount i b).account i = b := State.account_setAccount_same u i b
  show (u.putAccount i b).ok (.account ((u.putAccount i b).account i) ((u.putAccount i b).account i).available) = _
  rw [own]
  rfl

/-- Settles O42: a read answers the record, rolled over first where its spend day has passed. -/
theorem accountIsRead : Obligations.AccountIsRead := by
  intro s p i ready hi turn a
  have taken := request_ok ready (kind := 0x24) (by cases p <;> rfl) (body2_bytes (n := i) (by omega)) (fun _ => turn)
    fun i s => s.accountRead i
  have account := countTaken_account s p i
  have today := countTaken_day s p
  refine ⟨fun same => congrArg _ (taken.trans ?_), fun listed day => congrArg _ (taken.trans ?_)⟩
  · rw [accountRead_kept hi (by rw [account, today]; exact same), account]
    exact finish_replied s p 0x24 .ok _
  · rw [accountRead_rolled hi (by rw [account]; exact listed) (by rw [account, today]; exact day) rfl, account, today]
    exact finish_putAccount _ _ _

/-! ### The places that a card loses (R70) -/

theorem reserve_subset {n : Fin 24} {c : Fin 4} {e : WaitEntry} {rest : List WaitEntry} (head : s.queue c = e :: rest) (d : Fin 4) :
    (s.reserve n c e rest).queue d ⊆ s.queue d := by
  have queue : (s.reserve n c e rest).queue d = (s.setQueue c rest).queue d := by
    simp only [State.queue, queues_of_aside (aside_reserve n c e rest)]
  rw [queue, State.queue_setQueue]
  split
  · next same => rw [← same, head]; exact List.subset_cons_self ..
  · exact List.Subset.refl _

theorem enterIdle_subset (s : State) (n : Fin 24) (d : Fin 4) : (s.enterIdle n).queue d ⊆ s.queue d := by
  rw [← enter_queue s n .idle d]
  unfold State.enterIdle State.offer
  split
  · exact List.Subset.refl _
  · split
    · exact List.Subset.refl _
    · next head => exact reserve_subset head d

/-- A slot handed on takes the head of a queue at most (R163). -/
theorem handOn_subset (s : State) (n : Fin 24) (d : Fin 4) : (s.handOn n).queue d ⊆ s.queue d := by
  have dropped : (s.dropReservation n).queue d = s.queue d := rfl
  unfold State.handOn
  dsimp only
  rw [← dropped]
  split
  · exact enterIdle_subset _ n d
  · split
    · exact enterIdle_subset _ n d
    · next head => exact reserve_subset head d

/-- A card's entries taken out of the listed queues, which gain none. -/
theorem loseEntries_mem (card : Nat) (l : List (Fin 4)) (s : State) {c : Fin 4} {e : WaitEntry}
    (h : e ∈ (l.foldl (fun s c => s.setQueue c (withoutCard card (s.queue c))) s).queue c) :
    e ∈ s.queue c ∧ (c ∈ l → e.card ≠ card) := by
  induction l generalizing s with
  | nil => exact ⟨h, fun k => absurd k List.not_mem_nil⟩
  | cons d l ih =>
    obtain ⟨stood, lost⟩ := ih _ h
    rw [State.queue_setQueue] at stood
    by_cases own : d = c
    · subst own
      rw [if_pos rfl, withoutCard, List.mem_filter] at stood
      exact ⟨stood.1, fun _ => by simpa using stood.2⟩
    · rw [if_neg own] at stood
      exact ⟨stood, fun k => lost ((List.mem_cons.1 k).resolve_left (Ne.symm own))⟩

theorem handOns_subset {q : State → Fin 24 → Prop} [∀ s n, Decidable (q s n)] (l : List (Fin 24)) (s : State) (d : Fin 4) :
    (l.foldl (fun s n => if q s n then s.handOn n else s) s).queue d ⊆ s.queue d := by
  induction l generalizing s with
  | nil => exact List.Subset.refl _
  | cons n l ih =>
    refine List.Subset.trans (ih _) ?_
    show (if q s n then s.handOn n else s).queue d ⊆ s.queue d
    split
    · exact handOn_subset s n d
    · exact List.Subset.refl _

/-- A card that lost its places waits in no queue (R70). -/
theorem losePlaces_gone (s : State) (card : Nat) (c : Fin 4) : ∀ e ∈ (s.losePlaces card).queue c, e.card ≠ card := by
  intro e h
  unfold State.losePlaces overSlots at h
  exact (loseEntries_mem card allClasses s (handOns_subset allSlots _ c h)).2 (List.mem_finRange c)

/-! ### A record put, and the places that its card loses (R65 to R68, R70, R71) -/

/-- From `s` to `t` the record at index `i` was written as `b` and no other, and the card id `card`, if any, lost its places. -/
structure State.recordPut (s : State) (i : Nat) (b : Account) (card : Nat) (t : State) : Prop where
  accounts : ∀ j, t.account j = if j = i then b else s.account j
  writes : t.writes = s.writes ++ [[.account i b]]
  holds : t.holds = s.holds
  settlement : t.settlement = s.settlement
  places : card ≠ 0 → ∀ c, ∀ e ∈ t.queue c, e.card ≠ card

theorem recordPut_inside (b : Account) (card : Nat) : s.inside.recordPut i b card t.inside ↔ s.recordPut i b card t :=
  ⟨fun ⟨h1, h2, h3, h4, h5⟩ => ⟨h1, h2, h3, h4, h5⟩, fun ⟨h1, h2, h3, h4, h5⟩ => ⟨h1, h2, h3, h4, h5⟩⟩

/-- The loss of a card's places leaves the books as the put record made them (R70). -/
theorem cardLost_put (s : State) (i : Nat) (b : Account) (card : Nat) :
    s.recordPut i b card ((s.putAccount i b).cardLost card) := by
  have calm : Calm (s.putAccount i b) ((s.putAccount i b).cardLost card) := by
    unfold State.cardLost
    exact Calm.ite (Calm.refl _) ((Calm.refl _).losePlaces card)
  obtain ⟨accounts, holds, settlement, writes⟩ := calm.booksKept
  refine ⟨fun j => ?_, writes, holds, settlement, fun known c => ?_⟩
  · simp only [State.account, accounts]
    exact (State.account_setAccount s i j b).trans (if_congr eq_comm rfl rfl)
  · rw [State.cardLost, if_neg known]
    exact losePlaces_gone _ card c

/-- A request that put a record: its reply waits for the write (R189, R190). -/
theorem finish_put (b : Account) (card kind : Nat) (r : ReplyBody) :
    let x := (((s.countTaken p).putAccount i b).cardLost card).ok r
    s.awaits p ⟨kind, .ok, r⟩ (x.finish p kind (s.countTaken p).writes.length) ∧
      s.recordPut i b card (x.finish p kind (s.countTaken p).writes.length) := by
  intro x
  have put := cardLost_put (s.countTaken p) i b card
  constructor
  · refine finish_acts (x := x) ?_ ?_
    · show Acts _ (((s.countTaken p).putAccount i b).cardLost card)
      have written : Acts (s.countTaken p) ((s.countTaken p).putAccount i b) := ((Acts.refl _).setAccount i b).write _
      unfold State.cardLost
      exact Acts.ite written (written.losePlaces card)
    · show (((s.countTaken p).putAccount i b).cardLost card).writes.length ≠ _
      rw [put.writes]
      simp
  · rw [← recordPut_inside, finish_inside, ← countTaken_inside s p]
    exact (recordPut_inside b card).2 put

/-! ### ACCOUNT_PUT (R65) -/

theorem replaced_eq (a : Account) (day card : Nat) (st : AccountState) (balance cap : Nat) :
    a.replaced day card st balance cap = if a.state = .free ∨ a.state = .suspect then ⟨card, st, balance, 0, cap, 0, day⟩
      else { a with card := card, state := st, balance := balance, cap := cap } := by
  unfold Account.replaced
  split <;> simp [*]

theorem cardTaken_own {a : Account} {card : Nat} {st : AccountState}
    (h : a.state = .active ∧ (a.card ≠ card ∨ st = .blocked) ∨ a.state = .blocked ∧ a.card ≠ card) :
    a.cardTaken card st = a.card := by
  unfold Account.cardTaken
  rcases h with ⟨active, taken⟩ | ⟨blocked, taken⟩
  · rw [active]; exact if_pos taken
  · rw [blocked]; exact if_pos taken

/-- ACCOUNT_PUT past its tests: the record is put, and the card id that it lost or that is blocked loses its places (R65, R70). -/
theorem accountPut_puts {card balance cap : Nat} {st : AccountState} (hi : i < 512) (known : 0 < card)
    (hs : st = .active ∨ st = .blocked) (hb : balance ≤ 999999) (hd : cap ≤ 99999) (covered : (u.account i).held ≤ balance)
    (alone : ∀ j, u.findCard card = some j → j = i) {b : Account}
    (h : b = (u.account i).replaced u.clock.day card st balance cap) :
    u.accountPut (i, card, if st = .active then 1 else 2, balance, cap) =
      ((u.putAccount i b).cardLost ((u.account i).cardTaken card st)).ok (.account b (b.balance - b.held)) := by
  have here : u.cardElsewhere card i = false := by
    unfold State.cardElsewhere
    split
    · next j found => simp [alone j found]
    · rfl
  have reply : ((u.putAccount i b).cardLost ((u.account i).cardTaken card st)).account i = b :=
    ((cardLost_put u i b _).accounts i).trans (if_pos rfl)
  unfold State.accountPut
  dsimp only
  rw [indexOk_of_lt hi, accountStateOf_code hs]
  dsimp only
  rw [if_neg (by simp; omega), here, if_neg Bool.false_ne_true, if_neg (by omega), ← h, State.accountReply, reply]
  rfl

theorem accountPut_does (ready : s.readyFor p) (turn : s.turn ≠ some (otherPort p)) (hi : i < 512) {card balance cap : Nat}
    {st : AccountState} (known : 0 < card) (hc : card < 2 ^ 32) (hs : st = .active ∨ st = .blocked) (hb : balance ≤ 999999)
    (hd : cap ≤ 99999) (covered : (s.account i).held ≤ balance) (alone : ∀ j, s.findCard card = some j → j = i) {b : Account}
    (h : b = (s.account i).replaced s.clock.day card st balance cap) :
    ∃ t, exec (.accountPut p (beBytes 2 i ++ beBytes 4 card ++ beBytes 1 (if st = .active then 1 else 2) ++
        beBytes 3 balance ++ beBytes 3 cap)) s = .next t ∧ s.awaits p ⟨0x20, .ok, .account b (b.balance - b.held)⟩ t ∧
      s.recordPut i b ((s.account i).cardTaken card st) t := by
  have account := countTaken_account s p i
  have found : (s.countTaken p).findCard card = s.findCard card := countTaken_proj (fun u => u.findCard card) (fun _ => rfl) s p
  have taken := request_ok ready (kind := 0x20) (by cases p <;> rfl)
    (bodyAccountPut_bytes (i := i) (by omega) hc (stateCode_small st) (balance := balance) (by omega) (cap := cap) (by omega))
    (fun _ => turn) fun f s => s.accountPut f
  rw [accountPut_puts hi known hs hb hd (by rw [account]; exact covered) (by rw [found]; exact alone)
    (b := b) (by rw [account, countTaken_day]; exact h), account] at taken
  exact ⟨_, congrArg Host.Outcome.next taken, finish_put b _ _ _⟩

/-! ### ACCOUNT_CREDIT (R66) -/

theorem usable_of (h : (u.account i).state = .active ∨ (u.account i).state = .blocked) : u.usable i = .ok (u.account i) := by
  unfold State.usable
  rcases h with h | h <;> rw [h]

theorem unusable_of (h : (u.account i).state = .free ∨ (u.account i).state = .suspect) :
    u.usable i = .error (if (u.account i).state = .free then .notFound else .wrongState) := by
  unfold State.usable
  rcases h with h | h <;> rw [h] <;> rfl

theorem accountCredit_ready (ready : s.readyFor p) (turn : s.turn ≠ some (otherPort p)) (hi : i < 512) {amount : Nat}
    (ha : amount < 2 ^ 24) : exec (.accountCredit p (beBytes 2 i ++ beBytes 3 amount)) s =
      .next (((s.countTaken p).accountCredit i amount).finish p 0x21 (s.countTaken p).writes.length) :=
  congrArg _ (request_ok ready (kind := 0x21) (by cases p <;> rfl) (body23_bytes (m := i) (by omega) ha) (fun _ => turn)
    fun f s => s.accountCredit f.1 f.2)

theorem accountCredit_badValue (u : State) {amount : Nat} (h : amount = 0 ∨ 999999 < amount) :
    u.accountCredit i amount = u.refuse .badValue := by
  unfold State.accountCredit
  exact if_pos (by simp; omega)

/-- ACCOUNT_CREDIT of an amount in range is refused on a FREE and on a SUSPECT record (R66). -/
theorem accountCredit_unusable (u : State) (hi : i < 512) {amount : Nat} (low : 1 ≤ amount) (high : amount ≤ 999999)
    (h : (u.account i).state = .free ∨ (u.account i).state = .suspect) :
    u.accountCredit i amount = u.refuse (if (u.account i).state = .free then .notFound else .wrongState) := by
  unfold State.accountCredit
  rw [if_neg (by simp [indexOk_of_lt hi, low, high]), unusable_of h]

/-- ACCOUNT_CREDIT of an amount in range on an ACTIVE or BLOCKED record: refused above 999,999 units, else put (R66). -/
theorem accountCredit_eq (u : State) (hi : i < 512) {amount : Nat} (low : 1 ≤ amount) (high : amount ≤ 999999)
    (known : (u.account i).state = .active ∨ (u.account i).state = .blocked) {b : Account}
    (h : b = { u.account i with balance := (u.account i).balance + amount }) :
    u.accountCredit i amount = if 999999 < (u.account i).balance + amount then u.refuse .limit
      else (u.putAccount i b).ok (.credit b.balance (b.balance - b.held)) := by
  unfold State.accountCredit
  rw [if_neg (by simp [indexOk_of_lt hi, low, high]), usable_of known, h]
  rfl

/-! ### ACCOUNT_STATE (R67) -/

theorem accountState_ready (ready : s.readyFor p) (turn : s.turn ≠ some (otherPort p)) (hi : i < 512) (st : AccountState) :
    exec (.accountState p (beBytes 2 i ++ beBytes 1 (if st = .active then 1 else 2))) s =
      .next (((s.countTaken p).accountState i (if st = .active then 1 else 2)).finish p 0x22 (s.countTaken p).writes.length) :=
  congrArg _ (request_ok ready (kind := 0x22) (by cases p <;> rfl) (body21_bytes (m := i) (by omega) (stateCode_small st))
    (fun _ => turn) fun f s => s.accountState f.1 f.2)

/-- ACCOUNT_STATE of an ACTIVE or BLOCKED record: in its state already it stays, else it is put, its card losing its places
where it is blocked (R67, R70). -/
theorem accountState_eq (u : State) (hi : i < 512) {st : AccountState} (hs : st = .active ∨ st = .blocked)
    (known : (u.account i).state = .active ∨ (u.account i).state = .blocked) :
    u.accountState i (if st = .active then 1 else 2) = if (u.account i).state = st then u.ok
      else ((u.putAccount i { u.account i with state := st }).cardLost
        (if st = .blocked then (u.account i).card else 0)).ok := by
  have nobody (t : State) : t.cardLost 0 = t := if_pos rfl
  unfold State.accountState
  rw [indexOk_of_lt hi, accountStateOf_code hs, usable_of known]
  dsimp only
  split
  · rfl
  · split
    · rfl
    · rw [nobody]

theorem accountState_does (ready : s.readyFor p) (turn : s.turn ≠ some (otherPort p)) (hi : i < 512) {st : AccountState}
    (hs : st = .active ∨ st = .blocked) (known : (s.account i).state = .active ∨ (s.account i).state = .blocked)
    (other : (s.account i).state ≠ st) :
    ∃ t, exec (.accountState p (beBytes 2 i ++ beBytes 1 (if st = .active then 1 else 2))) s = .next t ∧
      s.awaits p ⟨0x22, .ok, .empty⟩ t ∧
      s.recordPut i { s.account i with state := st } (if st = .blocked then (s.account i).card else 0) t := by
  have account := countTaken_account s p i
  have eq := accountState_eq (s.countTaken p) hi hs (by rw [account]; exact known)
  rw [account, if_neg other] at eq
  rw [accountState_ready ready turn hi, eq]
  exact ⟨_, rfl, finish_put _ _ _ _⟩

/-! ### ACCOUNT_REMOVE (R68) -/

theorem accountRemove_ready (ready : s.readyFor p) (turn : s.turn ≠ some (otherPort p)) (hi : i < 512) :
    exec (.accountRemove p (beBytes 2 i)) s =
      .next (((s.countTaken p).accountRemove i).finish p 0x23 (s.countTaken p).writes.length) :=
  congrArg _ (request_ok ready (kind := 0x23) (by cases p <;> rfl) (body2_bytes (n := i) (by omega)) (fun _ => turn)
    fun i s => s.accountRemove i)

/-- ACCOUNT_REMOVE of a record that is not FREE: refused while it holds an amount (R68). -/
theorem accountRemove_eq (u : State) (hi : i < 512) (listed : (u.account i).state ≠ .free) :
    u.accountRemove i = if 0 < (u.account i).held then u.refuse .wrongState
      else ((u.putAccount i .free).cardLost (u.account i).card).ok := by
  unfold State.accountRemove
  dsimp only
  rw [if_neg (by simp [indexOk_of_lt hi]), if_neg listed]

/-- Settles O50: each request by its rule past its tests, and the record put by it with the places of its card. -/
theorem accountsAreWritten : Obligations.AccountsAreWritten := by
  intro s p i ready turn hi a
  have account := countTaken_account s p i
  refine ⟨fun card st balance cap known hc hs hb hd covered alone b h => ?put, fun amount ha range => ?badValue,
    fun amount low high state => ?unusable, fun amount low high state => ⟨fun above => ?limit, fun fits b h => ?credited⟩,
    fun st hs state => ⟨fun same => ?same, fun other => ?state⟩, fun listed => ⟨fun held => ?held, fun empty => ?remove⟩⟩
  case put =>
    obtain ⟨t, does, waits, put⟩ := accountPut_does ready turn hi known hc hs hb hd covered alone (h.trans (replaced_eq ..).symm)
    exact ⟨t, does, put.accounts, put.writes, waits, put.holds, put.settlement, fun carried lost =>
      cardTaken_own lost ▸ put.places (by rw [cardTaken_own lost]; exact carried)⟩
  case badValue =>
    rw [accountCredit_ready ready turn hi ha, accountCredit_badValue _ range]
    exact congrArg _ (finish_replied s p 0x21 .badValue .empty)
  case unusable =>
    rw [accountCredit_ready ready turn hi (by omega), accountCredit_unusable _ hi low high (by rw [account]; exact state), account]
    exact congrArg _ (finish_replied s p 0x21 _ .empty)
  case limit =>
    rw [accountCredit_ready ready turn hi (by omega), accountCredit_eq _ hi low high (by rw [account]; exact state) rfl, account,
      if_pos above]
    exact congrArg _ (finish_replied s p 0x21 .limit .empty)
  case credited =>
    rw [accountCredit_ready ready turn hi (by omega),
      accountCredit_eq _ hi low high (by rw [account]; exact state) (b := b) (by rw [account]; exact h), account,
      if_neg (Nat.not_lt.2 fits)]
    exact congrArg _ (finish_putAccount _ _ _)
  case same =>
    rw [accountState_ready ready turn hi, accountState_eq _ hi hs (by rw [account]; exact state), account, if_pos same]
    exact congrArg _ (finish_replied s p 0x22 .ok .empty)
  case state =>
    obtain ⟨t, does, waits, put⟩ := accountState_does ready turn hi hs state other
    exact ⟨t, does, put.accounts, put.writes, waits, put.holds, fun carried blocked =>
      by simpa only [if_pos blocked] using put.places (by rw [if_pos blocked]; exact carried)⟩
  case held =>
    rw [accountRemove_ready ready turn hi, accountRemove_eq _ hi (by rw [account]; exact listed), account, if_pos held]
    exact congrArg _ (finish_replied s p 0x23 .wrongState .empty)
  case remove =>
    rw [accountRemove_ready ready turn hi, accountRemove_eq _ hi (by rw [account]; exact listed), account,
      if_neg (Nat.not_lt.2 (Nat.le_of_eq empty))]
    obtain ⟨waits, put⟩ := finish_put (s := s) (p := p) (i := i) .free (s.account i).card 0x23 .empty
    exact ⟨_, rfl, put.accounts, put.writes, waits, put.holds, put.places⟩

end

end Sys2Proof.Machine

namespace Sys2Proof.Machine

/-! ## The settlement arithmetic (R86 to R89) -/

/-- The unrounded share of a held amount that the run seconds make of the paid seconds is no more than it (R88). -/
theorem share_le (held paid run : Nat) : held * min run paid / paid ≤ held := by
  refine Nat.div_le_of_le_mul ?_
  rw [Nat.mul_comm paid]
  exact Nat.mul_le_mul_left held (Nat.min_le_right run paid)

theorem proportional_in_grace {held paid granularity grace run : Nat} (h : run < grace) :
    proportional held paid granularity grace run = 0 := if_pos h

theorem proportional_past_grace {held paid granularity grace run : Nat} (h : grace ≤ run) :
    proportional held paid granularity grace run = granularity * (held * min run paid / paid / granularity) :=
  if_neg (Nat.not_lt.2 h)

/-- The reasons whose charge is the proportional one (R87). -/
theorem chargeOf_proportional {r : Reason} (h : r = .fault ∨ r = .abandoned ∨ r = .outage) (held paid granularity grace run : Nat) :
    chargeOf r held paid granularity grace run = proportional held paid granularity grace run := by
  rcases h with rfl | rfl | rfl <;> rfl

/-- A dryer's top-ups add to the planned seconds, a washer has none (R86). -/
theorem paidSeconds_eq (h : Hold) : h.paidSeconds =
    h.snap.planned + (match h.snap.kind with | .washer => 0 | .dryer => 60 * h.steps * h.snap.step) := by
  unfold Hold.paidSeconds
  cases h.snap.kind <;> rfl

/-- Settles O54: the charge by the reason, and past the grace by the rounded share of the held amount. -/
theorem chargesFollowTheReason : Obligations.ChargesFollowTheReason := by
  intro s n h r f x
  have charge : x.charge = chargeOf r h.amount x.paid h.snap.granularity h.snap.grace x.run := rfl
  refine ⟨fun whole => ?whole, fun nothing => ?nothing, fun part => ?part, chargeOf_le .., rfl, rfl, paidSeconds_eq h⟩
  case whole => rw [charge]; rcases whole with rfl | rfl | rfl <;> rfl
  case nothing => rw [charge, nothing]; rfl
  case part =>
    rw [charge, chargeOf_proportional part]
    refine ⟨proportional_in_grace, fun past => ?_⟩
    rw [proportional_past_grace past]
    exact ⟨rfl, Nat.dvd_mul_right .., Nat.mul_div_le .., share_le ..⟩

end Sys2Proof.Machine

namespace Sys2Proof.Machine

/-! ## SETTLEMENT_RELEASE (R99) -/

section
variable {s u : State} {p : Port} {number : Nat}

theorem body4_bytes {n : Nat} (h : n < 4294967296) : body4 (beBytes 4 n) = .ok n := by rw [beBytes_four, body4, beNat_four h]

theorem settlementRelease_ready (ready : s.readyFor .building) (turn : s.turn ≠ some .service) (h : number < 2 ^ 32) :
    exec (.settlementRelease .building (beBytes 4 number)) s =
      .next (((s.countTaken .building).settlementRelease number).finish .building 0x29 (s.countTaken .building).writes.length) :=
  congrArg _ (request_ok ready (kind := 0x29) rfl (body4_bytes h) (fun _ => turn) fun number s => s.settlementRelease number)

/-- The oldest record of a number is found at its place in the queue. -/
theorem findNumber_some {l : List Settlement} {k : Nat} {r : Settlement} (h : l[k]? = some r) (own : r.number = number)
    (first : ∀ j x, j < k → l[j]? = some x → x.number ≠ number) : (l.findIdx? fun r => r.number == number) = some k := by
  obtain ⟨hk, hr⟩ := List.getElem?_eq_some_iff.1 h
  refine List.findIdx?_eq_some_iff_getElem.2 ⟨hk, by simp [hr, own], fun j hj => ?_⟩
  simpa using first j _ hj (List.getElem?_eq_getElem (hj.trans hk))

theorem findNumber_none {l : List Settlement} (h : ∀ r ∈ l, r.number ≠ number) :
    (l.findIdx? fun r => r.number == number) = none := by simpa using h

/-- SETTLEMENT_RELEASE of a number in the queue: the records up to it leave, and one change erases their places and writes the
header (R99). -/
theorem settlementRelease_found {k : Nat} (found : (u.settlement.records.findIdx? fun r => r.number == number) = some k)
    {q : SettlementQueue} (hq : q = u.settlement.released (k + 1)) :
    u.settlementRelease number = (({ u with settlement := q } : State).write
      ((List.range (k + 1)).map (fun j => .place (u.settlement.place j) none) ++ [.header q.header])).ok
        (.released (k + 1) q.records.length (q.records.head?.map fun r => r.number)) := by
  unfold State.settlementRelease
  dsimp only
  rw [found, hq]

/-- A settlement queue set at a counted request, with one change of the store (R189). -/
theorem finish_setSettlement (q : SettlementQueue) (k : Nat) (b : ReplyBody) (ws : List StoreWrite) :
    ((({ s.countTaken p with settlement := q } : State).write ws).ok b).finish p k (s.countTaken p).writes.length =
      State.stores { s with settlement := q } p ⟨k, .ok, b⟩ ws := by
  refine Eq.trans ?_ (finish_stores (s := s) (u := { s with settlement := q }) rfl k b ws)
  cases p <;> rfl

/-- SETTLEMENT_RELEASE of a number that no record carries is refused with what stands in the queue (R99). -/
theorem settlementRelease_missing (missing : (u.settlement.records.findIdx? fun r => r.number == number) = none) :
    u.settlementRelease number = ⟨u, .notFound,
      .notReleased u.settlement.records.length (u.settlement.records.head?.map fun r => r.number)⟩ := by
  unfold State.settlementRelease
  dsimp only
  rw [missing]

end

end Sys2Proof.Machine

namespace Sys2Proof.Machine

/-! ## WAITLIST_REMOVE (R163, R171) -/

section
variable {s t u : State} {p : Port} {c : Fin 4} {card : Nat}

/-! ### A reservation handed on (R163) -/

/-- A slot whose reservation ended is offered to its class queue: it stays RESERVED for the head entry, or enters IDLE. -/
theorem handOn_offered (s : State) (n : Fin 24) : s.offered n (s.handOn n) := by
  have freed : s.offered n ((s.dropReservation n).enterIdle n) :=
    offered_of (enterIdle_offered _ n) (by rw [State.dropReservation, State.slot_modSlot_same]) rfl rfl
  have cls : (s.dropReservation n).slotCls n = s.slotCls n := by
    rw [State.slotCls, State.dropReservation, State.slot_modSlot_same]; rfl
  have queue (c : Fin 4) : (s.dropReservation n).queue c = s.queue c := rfl
  unfold State.handOn
  dsimp only
  rw [cls]
  split
  · exact freed
  · next c own =>
    rw [queue]
    split
    · exact freed
    · next e rest head =>
      refine ⟨fun d f tail cls' head' => ?_, fun empty => absurd (empty c own) (by simp [head])⟩
      obtain rfl : c = d := Option.some.inj (own.symm.trans cls')
      obtain ⟨rfl, rfl⟩ := List.cons.inj (head.symm.trans head')
      obtain ⟨state, reservation⟩ := reserve_slot (s := s.dropReservation n) n c e rest
      refine ⟨state, reservation, fun d => ?_⟩
      simp only [State.queue, queues_of_aside (aside_reserve n c e rest)]
      exact (State.queue_setQueue _ c d rest).trans (if_congr eq_comm rfl rfl)

theorem offered_inside (n : Fin 24) : s.inside.offered n t.inside ↔ s.offered n t :=
  ⟨fun ⟨taken, idle⟩ => ⟨taken, idle⟩, fun ⟨taken, idle⟩ => ⟨taken, idle⟩⟩

theorem booksKept_inside : s.inside.booksKept t.inside ↔ s.booksKept t :=
  ⟨fun ⟨accounts, holds, settlement, writes⟩ => ⟨accounts, holds, settlement, writes⟩,
    fun ⟨accounts, holds, settlement, writes⟩ => ⟨accounts, holds, settlement, writes⟩⟩

/-- A request that handed a slot on is answered at once, and the rest is as the hand-on left it (R163, R189). -/
theorem finish_handOn (n : Fin 24) (k : Nat) (b : ReplyBody) :
    let t := (((s.countTaken p).handOn n).ok b).finish p k (s.countTaken p).writes.length
    t.port p = (s.port p).answered ⟨k, .ok, b⟩ ∧ s.offered n t ∧ s.booksKept t := by
  intro t
  have inside : t.inside = ((s.countTaken p).handOn n).inside := finish_inside _ p k _
  have kept : (s.countTaken p).booksKept ((s.countTaken p).handOn n) := ((Calm.refl _).handOn n).booksKept
  have acts : Acts (s.countTaken p) ((s.countTaken p).handOn n) := (Acts.refl _).handOn n
  refine ⟨finish_answered (fun q => port_of_outside acts.outside q) (congrArg List.length kept.writes), ?_, ?_⟩
  · rw [← offered_inside, inside, ← countTaken_inside s p]
    exact (offered_inside n).2 (handOn_offered _ n)
  · rw [← booksKept_inside, inside, ← countTaken_inside s p]
    exact booksKept_inside.2 kept

/-! ### WAITLIST_REMOVE past its tests -/

theorem body14_bytes {m n : Nat} (hm : m < 256) (hn : n < 4294967296) : body14 (beBytes 1 m ++ beBytes 4 n) = .ok (m, n) := by
  rw [beBytes_one, beBytes_four, List.singleton_append, body14, beNat_four hn, toNat_byte hm]

theorem waitlistRemove_ready (ready : s.readyFor p) (known : 0 < card) (h : card < 2 ^ 32) :
    exec (.waitlistRemove p (beBytes 1 c ++ beBytes 4 card)) s =
      .next (((s.countTaken p).waitlistRemove c card).finish p 0x49 (s.countTaken p).writes.length) := by
  refine congrArg _ ((request_ok ready (kind := 0x49) (kindRefused_false (by decide) (by decide))
    (body14_bytes (m := c) (by omega) h) nofun _).trans ?_)
  rw [classOf_val]
  dsimp only
  rw [if_neg (by omega)]

theorem queue_countTaken (s : State) (p : Port) (c : Fin 4) : (s.countTaken p).queue c = s.queue c :=
  countTaken_proj (fun u => u.queue c) (fun _ => rfl) s p

theorem reservedFor_countTaken (s : State) (p : Port) (c : Fin 4) (card : Nat) :
    (s.countTaken p).reservedFor c card = s.reservedFor c card :=
  countTaken_proj (fun u => u.reservedFor c card) (fun _ => rfl) s p

theorem withoutCard_eq (card : Nat) (q : List WaitEntry) : withoutCard card q = q.filter fun e => e.card ≠ card :=
  List.filter_congr fun e _ => by rw [Bool.eq_iff_iff]; simp

theorem waitlistRemove_entry {k : Nat} (h : positionOf card (u.queue c) = some k) {q : List WaitEntry}
    (hq : q = withoutCard card (u.queue c)) :
    u.waitlistRemove c card = (u.setQueue c q).ok (.removedEntry k q.length) := by
  unfold State.waitlistRemove
  rw [h, ← hq]
  dsimp only
  rw [State.queue_setQueue, if_pos rfl]

theorem waitlistRemove_reservation (absent : positionOf card (u.queue c) = none) {n : Fin 24}
    (held : u.reservedFor c card = some n) :
    u.waitlistRemove c card = (u.handOn n).ok (.removedReservation n ((u.handOn n).queue c).length) := by
  unfold State.waitlistRemove
  rw [absent, held]

theorem waitlistRemove_missing (absent : positionOf card (u.queue c) = none) (free : u.reservedFor c card = none) :
    u.waitlistRemove c card = u.refuse .notFound := by
  unfold State.waitlistRemove
  rw [absent, free]

/-- A queue set at a counted request, which is answered at once (R189). -/
theorem finish_setQueue (c : Fin 4) (q : List WaitEntry) (k : Nat) (b : ReplyBody) :
    (((s.countTaken p).setQueue c q).ok b).finish p k (s.countTaken p).writes.length =
      (s.setQueue c q).replied p ⟨k, .ok, b⟩ := by
  refine Eq.trans ?_ (finish_replied (s.setQueue c q) p k .ok b)
  cases p <;> rfl

end

/-- Settles O51: each request by what its search finds, the reserved slot by its hand-on. -/
theorem recordsAndPlacesAreReleased : Obligations.RecordsAndPlacesAreReleased := by
  refine ⟨fun s number ready turn small => ?_, fun s p c card ready known small => ?_⟩
  · have settlement := settlement_countTaken s .building
    rw [settlementRelease_ready ready turn small]
    refine ⟨fun k r at' own first q hq => ?released, fun absent => ?notFound⟩
    case released =>
      rw [settlementRelease_found (by rw [settlement]; exact findNumber_some at' own first) (q := q)
        (by rw [settlement]; exact hq), settlement]
      exact congrArg _ (finish_setSettlement q 0x29 _ _)
    case notFound =>
      rw [settlementRelease_missing (by rw [settlement]; exact findNumber_none absent), settlement]
      exact congrArg _ (finish_replied s .building 0x29 .notFound _)
  · have queue := queue_countTaken s p c
    have reserved := reservedFor_countTaken s p c card
    rw [waitlistRemove_ready ready known small]
    refine ⟨fun k e at' own first q hq => ?entry, fun absent => ⟨fun free => ?missing, fun n held _ _ => ?reservation⟩⟩
    case entry =>
      rw [waitlistRemove_entry (by rw [queue]; exact positionOf_some at' own first) (q := q)
        (by rw [queue, withoutCard_eq]; exact hq)]
      exact congrArg _ (finish_setQueue c q 0x49 _)
    case missing =>
      rw [waitlistRemove_missing (by rw [queue]; exact positionOf_none absent) (reserved.trans free)]
      exact congrArg _ (finish_replied s p 0x49 .notFound .empty)
    case reservation =>
      rw [waitlistRemove_reservation (by rw [queue]; exact positionOf_none absent) (reserved.trans held)]
      obtain ⟨port, offered, kept⟩ := finish_handOn (s := s) (p := p) n 0x49
        (.removedReservation n (((s.countTaken p).handOn n).queue c).length)
      refine ⟨_, rfl, offered, kept, port.trans ?_⟩
      rw [finish_proj (fun u => u.queue c) (fun _ => rfl)]
      rfl

end Sys2Proof.Machine

namespace Sys2Proof.Machine

/-! ## The governor's lists (R111 to R114) -/

section
variable {s : State}

/-! ### The order of the wait queue (R111) -/

/-- `x` may stand before `y` in the wait queue: by priority, and by stamp within one (R111). -/
def HeatRequest.before (priority : Fin 4 → Nat) (x y : HeatRequest) : Prop :=
  priority x.cls < priority y.cls ∨ priority x.cls = priority y.cls ∧ x.stamp ≤ y.stamp

theorem HeatRequest.before.trans {p : Fin 4 → Nat} {x y z : HeatRequest} (h : x.before p y) (k : y.before p z) : x.before p z := by
  unfold HeatRequest.before at *
  omega

theorem before_of_ahead {p : Fin 4 → Nat} {x y : HeatRequest} (h : ahead p x y = true) : x.before p y := by
  simp only [ahead, Bool.or_eq_true, Bool.and_eq_true, decide_eq_true_eq, beq_iff_eq] at h
  unfold HeatRequest.before
  omega

theorem before_of_not_ahead {p : Fin 4 → Nat} {x y : HeatRequest} (h : ¬ ahead p x y = true) : y.before p x := by
  simp only [ahead, Bool.or_eq_true, Bool.and_eq_true, decide_eq_true_eq, beq_iff_eq] at h
  unfold HeatRequest.before
  omega

/-- A request is placed in order (R111). -/
theorem placeRequest_sorted (p : Fin 4 → Nat) (r : HeatRequest) {q : List HeatRequest} (sorted : q.Pairwise (HeatRequest.before p)) :
    (placeRequest p r q).Pairwise (HeatRequest.before p) := by
  induction q with
  | nil => exact List.pairwise_singleton _ r
  | cons x l ih =>
    obtain ⟨first, rest⟩ := List.pairwise_cons.1 sorted
    unfold placeRequest
    split
    · next front =>
      refine List.pairwise_cons.2 ⟨fun y hy => ?_, sorted⟩
      rcases List.mem_cons.1 hy with rfl | hy
      · exact before_of_ahead front
      · exact (before_of_ahead front).trans (first y hy)
    · next behind =>
      refine List.pairwise_cons.2 ⟨fun y hy => ?_, ih rest⟩
      rcases List.mem_cons.1 ((placeRequest_perm p r l).mem_iff.1 hy) with rfl | hy
      · exact before_of_not_ahead behind
      · exact first y hy

/-! ### The grant pass (R112, R113) -/

theorem newGrants_unreached (l : List HeatRequest) : newGrants (l.map fun q => (q, Reach.unreached)) = [] := by
  simp [newGrants]

/-- What a pass grants, request by request: nothing behind an aged request that does not fit (R112, R113). -/
theorem newGrants_walk_cons (heat : Fin 4 → Nat) (v : List (Fin 24)) (room : Int) (r : HeatRequest) (l : List HeatRequest) :
    newGrants (walk heat v room (r :: l)) =
      if v.contains r.slot then newGrants (walk heat v room l)
      else if (heat r.cls : Int) ≤ room then r.cleared :: newGrants (walk heat v (room - heat r.cls) l)
      else if r.aged then [] else newGrants (walk heat v room l) := by
  rw [walk]
  split
  · rfl
  · split
    · rfl
    · split
      · exact newGrants_unreached l
      · rfl

/-- The pass spends no more than the room it has (R112). -/
theorem newGrants_fit (heat : Fin 4 → Nat) (v : List (Fin 24)) {room : Int} (q : List HeatRequest) (h : 0 ≤ room) :
    (heatOf heat (newGrants (walk heat v room q)) : Int) ≤ room := by
  induction q generalizing room with
  | nil => exact h
  | cons r l ih =>
    rw [newGrants_walk_cons]
    split
    · exact ih h
    · split
      · have rest := ih (room := room - heat r.cls) (by omega)
        have own : heat r.cleared.cls = heat r.cls := rfl
        simp only [heatOf, List.map_cons, List.sum_cons, own] at rest ⊢
        omega
      · split
        · exact h
        · exact ih h

/-- Without room nothing is granted (R112). -/
theorem newGrants_none (heat : Fin 4 → Nat) (v : List (Fin 24)) {room : Int} (q : List HeatRequest) (h : room < 0) :
    newGrants (walk heat v room q) = [] := by
  induction q with
  | nil => rfl
  | cons r l ih =>
    have tight : ¬ (heat r.cls : Int) ≤ room := by omega
    rw [newGrants_walk_cons, if_neg tight, ih, ite_self, ite_self]

/-- An aged request that does not fit ends the pass: nothing that stands behind it is granted (R113). -/
theorem newGrants_aged (heat : Fin 4 → Nat) (v : List (Fin 24)) (room : Int) (front : List HeatRequest) {r : HeatRequest}
    (rest : List HeatRequest) (free : r.slot ∉ v) (aged : r.aged = true)
    (h : room - ((newGrants (walk heat v room front)).map fun x => (heat x.cls : Int)).sum < heat r.cls) :
    newGrants (walk heat v room (front ++ r :: rest)) = newGrants (walk heat v room front) := by
  induction front generalizing room with
  | nil =>
    have tight : ¬ (heat r.cls : Int) ≤ room := by simpa [walk, newGrants] using h
    rw [List.nil_append, newGrants_walk_cons, if_neg (by simpa using free), if_neg tight, if_pos aged]
    rfl
  | cons x l ih =>
    simp only [List.cons_append, newGrants_walk_cons] at h ⊢
    split_ifs at h ⊢
    · exact ih room h
    · have own : heat x.cleared.cls = heat x.cls := rfl
      simp only [List.map_cons, List.sum_cons, own] at h
      rw [ih (room - heat x.cls) (by omega)]
    · rfl
    · exact ih room h

/-! ### The cap (R114) -/

/-- Requests given heat draw at most the budget `e`, or there are none. -/
theorem revokeNewest_within (heat : Fin 4 → Nat) (e : Int) (l : List HeatRequest) :
    (heatOf heat (revokeNewest heat e l).1 : Int) ≤ e ∨ (revokeNewest heat e l).1 = [] := by
  induction l with
  | nil => exact .inr rfl
  | cons r l ih =>
    unfold revokeNewest
    split
    · next within => exact .inl within
    · exact ih

theorem heatOf_reverse (heat : Fin 4 → Nat) (l : List HeatRequest) : heatOf heat l.reverse = heatOf heat l := by
  simp [heatOf]

theorem heatOf_append (heat : Fin 4 → Nat) (l k : List HeatRequest) : heatOf heat (l ++ k) = heatOf heat l + heatOf heat k := by
  simp [heatOf]

theorem grantedHeat_eq (s : State) : s.grantedHeat = heatOf (fun c => (s.govClass c).heat) s.gov.grants := rfl

/-- The cap, from the list and the figures that it reads. -/
theorem State.capped.of_grants {t : State} (h : (heatOf (fun c => (s.govClass c).heat) t.gov.grants : Int) ≤
      s.gov.heat + s.settings.governor.margin ∨ t.gov.grants = [])
    (settings : t.settings = s.settings) (heat : s.gov.heat ≤ t.gov.heat) : t.capped := by
  have cls : t.govClass = s.govClass := by unfold State.govClass; rw [settings]
  unfold State.capped
  rw [grantedHeat_eq, cls, settings]
  exact h.imp_left fun within => by omega

/-- The grants that the revocation check keeps (R114). -/
theorem revocation_within (s : State) (fell : Bool) (h : s.capped ∨ fell = true) :
    (heatOf (fun c => (s.govClass c).heat) (s.revocation fell).1 : Int) ≤ s.gov.heat + s.settings.governor.margin ∨
      (s.revocation fell).1 = [] := by
  unfold State.revocation
  split
  · dsimp only
    rw [heatOf_reverse, List.reverse_eq_nil_iff]
    exact (revokeNewest_within _ s.gov.heat _).imp_left fun within => by omega
  · next held =>
    rcases h with capped | rfl
    · exact capped
    · exact .inl (by simpa [grantedHeat_eq] using held)

theorem revoke_gov (s : State) (fell : Bool) : (s.revoke fell).1.gov = { s.gov with
    grants := (s.revocation fell).1,
    waits := (s.revocation fell).2.foldl (fun q x => placeRequest (fun c => (s.govClass c).priority) x.cleared q) s.gov.waits } := by
  unfold State.revoke
  dsimp only
  rw [foldl_gov fun s x => revokeSlot_gov s _]
  rfl

theorem grantPass_gov (s : State) (v : List (Fin 24)) : (s.grantPass v).gov = { s.gov with
    waits := leftWaiting (walk (fun c => (s.govClass c).heat) v (s.gov.heat - s.grantedHeat) s.gov.waits),
    grants := s.gov.grants ++ newGrants (walk (fun c => (s.govClass c).heat) v (s.gov.heat - s.grantedHeat) s.gov.waits) } := by
  unfold State.grantPass
  dsimp only
  rw [foldl_gov fun s x => grantSlot_gov s _]
  rfl

theorem tidyStamp_gov (s : State) : ∃ k, s.tidyStamp.gov = { s.gov with stamp := k } := by
  unfold State.tidyStamp
  split
  · exact ⟨0, rfl⟩
  · exact ⟨_, rfl⟩

/-- After the revocation check the granted heat is capped, where it was or the check was made (R114). -/
theorem revoke_capped (s : State) (fell : Bool) (h : s.capped ∨ fell = true) : (s.revoke fell).1.capped := by
  refine State.capped.of_grants (s := s) ?_ (settings_of_aside (aside_revoke fell)) (by rw [revoke_gov])
  rw [revoke_gov]
  exact revocation_within s fell h

/-- A grant pass keeps the cap: it grants within the room that the granted heat leaves (R112). -/
theorem grantPass_capped (s : State) (v : List (Fin 24)) (h : s.capped) : (s.grantPass v).capped := by
  refine State.capped.of_grants (s := s) ?_ (settings_of_aside (aside_grantPass v)) (by rw [grantPass_gov])
  rw [grantPass_gov]
  dsimp only
  by_cases room : 0 ≤ s.gov.heat - s.grantedHeat
  · have fit := newGrants_fit (fun c => (s.govClass c).heat) v s.gov.waits room
    rw [heatOf_append, ← grantedHeat_eq]
    exact .inl (by omega)
  · rw [newGrants_none _ v s.gov.waits (by omega), List.append_nil]
    exact h

theorem tidyStamp_capped (s : State) (h : s.capped) : s.tidyStamp.capped := by
  obtain ⟨k, gov⟩ := tidyStamp_gov s
  refine State.capped.of_grants (s := s) ?_ (settings_of_aside aside_tidyStamp) (by rw [gov])
  rw [gov]
  exact h

/-! ### The reckoning in its stages (R106) -/

/-- The state with the figures of R104 and R105 brought up to date, the first stage of a reckoning. -/
def State.refigured (s : State) : State :=
  s.modGov fun g => { g with motor := s.motorSum, heat := (s.settings.governor.budget : Int) - s.motorSum - s.gov.stray }

/-- The stages of a reckoning after the first: the check where the budget fell or the margin was lowered, and a pass where the
budget rose, a grant was given up or a request was placed. -/
theorem reckon_eq (s : State) (freed asked lowered : Bool) : s.reckon freed asked lowered =
    (if decide (s.gov.heat < s.refigured.gov.heat) || freed || asked then
      (s.refigured.revoke (decide (s.refigured.gov.heat < s.gov.heat) || lowered)).1.grantPass
        (s.refigured.revoke (decide (s.refigured.gov.heat < s.gov.heat) || lowered)).2
    else (s.refigured.revoke (decide (s.refigured.gov.heat < s.gov.heat) || lowered)).1).tidyStamp := by
  unfold State.reckon State.refigured
  generalize s.motorSum = k
  rfl

theorem refigured_settings (s : State) : s.refigured.settings = s.settings := by
  unfold State.refigured
  generalize s.motorSum = k
  rfl

theorem refigured_grants (s : State) : s.refigured.gov.grants = s.gov.grants := by
  unfold State.refigured
  generalize s.motorSum = k
  rfl

theorem reckon_heat (s : State) (x y z : Bool) : (s.reckon x y z).gov.heat = s.refigured.gov.heat := by
  have figures := reckon_figures s x y z
  simp only [Governor.figures, Prod.mk.injEq] at figures
  exact figures.2.1

/-- A reckoning leaves the granted heat capped, where it was, the effective heat budget fell, or the margin was lowered (R114). -/
theorem reckon_capped (s : State) (x y z : Bool) (h : s.capped ∨ z = true ∨ (s.reckon x y z).gov.heat < s.gov.heat) :
    (s.reckon x y z).capped := by
  have settings := refigured_settings s
  have grants := refigured_grants s
  rw [reckon_heat] at h
  rw [reckon_eq]
  generalize s.refigured = u at *
  have checked : (u.revoke (decide (u.gov.heat < s.gov.heat) || z)).1.capped := by
    refine revoke_capped _ _ ?_
    by_cases fell : u.gov.heat < s.gov.heat
    · exact .inr (by simp [fell])
    · rcases h with capped | rfl | fell'
      · exact .inl (.of_grants (grants ▸ capped) settings (Int.not_lt.1 fell))
      · exact .inr (Bool.or_true _)
      · exact (fell fell').elim
  refine tidyStamp_capped _ ?_
  split
  · exact grantPass_capped _ _ checked
  · exact checked

/-- Settles O55. -/
theorem theGovernorKeepsItsLists : Obligations.TheGovernorKeepsItsLists := by
  refine ⟨fun s freed asked lowered h => reckon_capped s freed asked lowered (h.imp_right .inl), fun p r q sorted =>
    ⟨placeRequest_perm p r q, placeRequest_sorted p r sorted⟩, fun heat v room q => ⟨newGrants_none heat v q, ?_⟩⟩
  rintro front r rest rfl free aged tight
  exact newGrants_aged heat v room front rest free aged tight

end

end Sys2Proof.Machine

namespace Sys2Proof.Machine

/-! ## BUDGET_SET and GOVERNOR_SET (R102, R103, R131) -/

section
variable {s t u : State} {p : Port}

/-! ### A governor configuration set, written and reckoned with -/

/-- The governor configuration set and its write begun. -/
def State.governed (s : State) (g : GovCfg) : State := (s.modSettings fun x => { x with governor := g }).write [.governor g]

theorem governed_port (s : State) (g : GovCfg) (q : Port) : (s.governed g).port q = s.port q := by cases q <;> rfl

/-- The governor configuration `g` taken in state `s` and reckoned with, as `State.budgeted` says it of the feed budget (R102,
R103, R106, R114). -/
structure State.regoverned (s : State) (g : GovCfg) (t : State) : Prop where
  settings : t.settings = { s.settings with governor := g }
  writes : t.writes = s.writes ++ [[.governor g]]
  motor : s.heatLaw → t.gov.motor = t.motorSum
  heat : t.gov.heat = (g.budget : Int) - t.gov.motor - s.gov.stray
  capped : t.gov.heat < s.gov.heat ∨ g.margin < s.settings.governor.margin ∨ s.capped → t.capped
  asked : ∀ n, t.asked n ↔ s.asked n
  accounts : t.accounts = s.accounts
  holds : t.holds = s.holds
  settlement : t.settlement = s.settlement
  queues : t.queues = s.queues
  faults : t.faults = s.faults
  slots : s.heatLaw → ∀ n, (s.slot n).bystander (t.slot n)
  room : t.room = s.room

theorem State.heatLaw.heated (h : s.heatLaw) : ∀ m ∈ s.granted, (s.slot m).state.heated := fun m hm => .inl ((h.2 m).2.1 hm)

/-- The motor allowance after a reckoning is the motor-active slots' (R104): the moves between RUNNING and AWAIT_POWER leave it. -/
theorem reckon_motor (h : ∀ m ∈ s.granted, (s.slot m).state.heated) (x y z : Bool) :
    (s.reckon x y z).gov.motor = (s.reckon x y z).motorSum := by
  have calm := (Calm.refl s).reckon x y z
  have figures := reckon_figures s x y z
  simp only [Governor.figures, Prod.mk.injEq] at figures
  exact figures.1.trans (motorSum_congr (settings_of_aside (aside_reckon x y z))
    fun m => .of_beside (calm.slots m).1 (calm.slots m).2 (reckon_beside s x y z h m)).symm

/-- A configuration with the classes it had keeps the cap, if its margin is no lower. -/
theorem governed_capped {g : GovCfg} (classes : g.classes = s.settings.governor.classes) (margin : s.settings.governor.margin ≤ g.margin)
    (h : s.capped) : (s.governed g).capped := by
  have cls : (s.governed g).govClass = s.govClass := by
    unfold State.govClass
    rw [← classes]
    rfl
  refine h.imp_left fun within => ?_
  rw [grantedHeat_eq, cls]
  show (s.grantedHeat : Int) ≤ s.gov.heat + g.margin
  omega

/-- A configuration with the classes it had, set and reckoned with. -/
theorem governed_regoverned (s : State) {g : GovCfg} (classes : g.classes = s.settings.governor.classes) :
    s.regoverned g ((s.governed g).reckon false false (decide (g.margin < s.settings.governor.margin))) := by
  have aside := aside_reckon (s := s.governed g) false false (decide (g.margin < s.settings.governor.margin))
  have figures := reckon_figures (s.governed g) false false (decide (g.margin < s.settings.governor.margin))
  simp only [Governor.figures, Prod.mk.injEq] at figures
  obtain ⟨motor, heat, -⟩ := figures
  have books := ((Calm.refl (s.governed g)).reckon false false (decide (g.margin < s.settings.governor.margin))).booksKept
  refine ⟨settings_of_aside aside, books.writes, fun law => reckon_motor (s := s.governed g) law.heated _ _ _, ?_, fun h => ?_,
    (reckon_reckoned _ _ _ _).asked, books.accounts, books.holds, books.settlement, (queues_of_aside aside).trans rfl,
    (faults_of_aside aside).trans rfl,
    fun law n => ⟨(Bare.refl (s.governed g)).reckon _ _ _ n, reckon_beside (s.governed g) _ _ _ law.heated n⟩,
    (room_of_aside aside).trans rfl⟩
  · rw [heat, motor]
    rfl
  · refine reckon_capped _ _ _ _ ?_
    rw [decide_eq_true_eq]
    by_cases lowered : g.margin < s.settings.governor.margin
    · exact .inr (.inl lowered)
    · rcases h with fell | fell | capped
      · exact .inr (.inr fell)
      · exact .inr (.inl fell)
      · exact .inl (governed_capped classes (Nat.not_lt.1 lowered) capped)

/-- The ports and the store turn are no part of it. -/
theorem regoverned_inside (g : GovCfg) : s.regoverned g t ↔ s.inside.regoverned g t.inside := by
  constructor <;> rintro ⟨h1, h2, h3, h4, h5, h6, h7, h8, h9, h10, h11, h12, h13⟩ <;>
    exact ⟨h1, h2, h3, h4, h5, h6, h7, h8, h9, h10, h11, h12, h13⟩

/-- A request whose rule set the configuration and reckoned waits for its write (R189, R190). -/
theorem finish_regoverned {g : GovCfg} (classes : g.classes = s.settings.governor.classes) (k : Nat) (b : ReplyBody)
    {v : State} (hv : v = ((s.countTaken p).governed g).reckon false false (decide (g.margin < s.settings.governor.margin))) :
    s.regoverned g ((v.ok b).finish p k (s.countTaken p).writes.length) ∧
      s.awaits p ⟨k, .ok, b⟩ ((v.ok b).finish p k (s.countTaken p).writes.length) ∧
      ((v.ok b).finish p k (s.countTaken p).writes.length).gov = v.gov := by
  have settings : (s.countTaken p).settings = s.settings := countTaken_proj State.settings (fun _ => rfl) s p
  have done := governed_regoverned (s.countTaken p) (g := g) (by rw [settings, classes])
  rw [settings, ← hv] at done
  refine ⟨?_, finish_awaits (x := v.ok b) (fun q => ?_) ?_, finish_proj State.gov (fun _ => rfl) _ _ _ _⟩
  · rw [regoverned_inside, finish_inside, ← countTaken_inside s p, ← regoverned_inside]
    exact done
  · show v.port q = _
    have acts := (Acts.refl ((s.countTaken p).governed g)).reckon false false (decide (g.margin < s.settings.governor.margin))
    rw [← hv] at acts
    exact (port_of_outside acts.outside q).trans (governed_port _ g q)
  · show v.writes.length ≠ _
    rw [done.writes, List.length_append]
    simp

/-! ### BUDGET_SET (R103) -/

theorem State.regoverned.budgeted {w : Nat} (h : s.regoverned { s.settings.governor with budget := w } t) : s.budgeted w t := by
  refine ⟨h.settings, ?_, h.motor, h.heat, fun k => h.capped (k.imp_right .inr), h.asked, h.accounts, h.holds, h.settlement,
    h.queues, h.faults, h.slots, h.room⟩
  rw [h.writes, h.settings]

theorem setBudget_eq (s : State) (w : Nat) :
    s.setBudget w = (s.governed { s.settings.governor with budget := w }).reckon false false false := rfl

theorem budgetSet_does (ready : s.readyFor p) (turn : s.turn ≠ some (otherPort p)) {w : Nat} (w1 : 1000 ≤ w) (w2 : w ≤ 200000) :
    ∃ t, exec (.budgetSet p (beBytes 3 w)) s = .next t ∧ s.budgeted w t ∧ s.awaits p ⟨0x40, .ok, .budget w t.gov.heat⟩ t := by
  have body : body3 (beBytes 3 w) = .ok w := by
    rw [beBytes_three]
    exact congrArg _ (beNat_three (by omega))
  have settings : (s.countTaken p).settings = s.settings := countTaken_proj State.settings (fun _ => rfl) s p
  obtain ⟨done, waits, gov⟩ := finish_regoverned (s := s) (p := p) (g := { s.settings.governor with budget := w }) rfl 0x40
    (.budget w ((s.countTaken p).setBudget w).gov.heat) (v := (s.countTaken p).setBudget w)
    (by rw [setBudget_eq, settings, decide_eq_false (Nat.lt_irrefl _)])
  have taken : exec (.budgetSet p (beBytes 3 w)) s = .next ((((s.countTaken p).setBudget w).ok
      (.budget w ((s.countTaken p).setBudget w).gov.heat)).finish p 0x40 (s.countTaken p).writes.length) := by
    refine congrArg Host.Outcome.next ((request_ok ready (by cases p <;> rfl) body (fun _ => turn) _).trans ?_)
    have inRange : budgetOk w = true := by simp [budgetOk, w1, w2]
    simp only [inRange, if_true]
  exact ⟨_, taken, done.budgeted, by rw [gov]; exact waits⟩

/-! ### GOVERNOR_SET, general form (R102) -/

theorem governorSetGeneral_does (ready : s.readyFor p) (turn : s.turn ≠ some (otherPort p)) {w m : Nat} (w1 : 1000 ≤ w)
    (w2 : w ≤ 200000) (m1 : m ≤ 2000) : ∃ t, exec (.governorSetGeneral p (0 :: beBytes 3 w ++ beBytes 2 m)) s = .next t ∧
      s.regoverned { s.settings.governor with budget := w, margin := m } t ∧ s.awaits p ⟨0x14, .ok, .empty⟩ t := by
  have body : twoForms bodyGovernorGeneral bodyGovernorClass (0 :: beBytes 3 w ++ beBytes 2 m) = .ok (.inl (w, m)) := by
    rw [beBytes_three, beBytes_two]
    show Except.ok (Sum.inl (beNat [_, _, _], beNat [_, _])) = _
    rw [beNat_three (by omega), beNat_two (by omega)]
  have settings : (s.countTaken p).settings = s.settings := countTaken_proj State.settings (fun _ => rfl) s p
  obtain ⟨done, waits, -⟩ := finish_regoverned (s := s) (p := p) (g := { s.settings.governor with budget := w, margin := m }) rfl
    0x14 .empty rfl
  have set : (s.countTaken p).governorGeneralSet (w, m) = ((((s.countTaken p).governed
      { s.settings.governor with budget := w, margin := m }).reckon false false (decide (m < s.settings.governor.margin))).ok) := by
    unfold State.governorGeneralSet
    rw [if_neg (by simp [budgetOk, w1, w2, m1]), settings]
    rfl
  refine ⟨_, congrArg Host.Outcome.next ((request_ok ready (by cases p <;> rfl) body (fun _ => turn) _).trans (congrArg
    (fun a : Answer => a.finish p 0x14 (s.countTaken p).writes.length) set)), done, waits⟩

/-! ### GOVERNOR_SET, class form (R102, R131) -/

/-- The strike counters of a class's slots returned to 0 (R131). -/
theorem restrikeClass_eq (s : State) (c : Fin 4) : ∃ v, overSlots (fun n s => if s.slotCls n = some c then s.restrike n else s) s =
    { s with slots := v } ∧ ∀ n : Fin 24, v[n.val] =
      if s.slotCls n = some c then { s.slot n with sense := (s.slot n).sense.resetStrikes } else s.slot n := by
  obtain ⟨v, e, at'⟩ := foldClass (g := fun x => { x with sense := x.sense.resetStrikes }) (fun _ => rfl) c
    (List.nodup_finRange 24) s
  refine ⟨v, e, fun n => ?_⟩
  rw [at']
  simp

theorem drawsDiffer_iff (a b : GovClass) : a.drawsDiffer b = true ↔ b.motor ≠ a.motor ∨ b.heat ≠ a.heat := by
  simp only [GovClass.drawsDiffer, Bool.or_eq_true, bne_iff_ne]
  exact or_congr ne_comm ne_comm

/-- What the class form makes of the slots. -/
theorem restrikeIf_eq (s : State) (c : Fin 4) (b : Bool) :
    ∃ v, (if b then overSlots (fun n s => if s.slotCls n = some c then s.restrike n else s) s else s) = { s with slots := v } ∧
      ∀ n : Fin 24, v[n.val] =
        if s.slotCls n = some c ∧ b = true then { s.slot n with sense := (s.slot n).sense.resetStrikes } else s.slot n := by
  cases b
  · exact ⟨s.slots, rfl, fun n => by simp [State.slot]⟩
  · obtain ⟨v, e, at'⟩ := restrikeClass_eq s c
    exact ⟨v, e, fun n => by simp [at']⟩

theorem governorSetClass_does (ready : s.readyFor p) (turn : s.turn ≠ some (otherPort p)) (c : Fin 4) {k : GovClass}
    (ok : k.ok = true) (free : ∀ n, s.slotCls n = some c → (s.slot n).state.busy = false ∧ (s.slot n).motorActive = false)
    {g : GovCfg} (hg : g = { s.settings.governor with classes := s.settings.governor.classes.set c.val k }) :
    ∃ t, exec (.governorSetClass p (1 :: beBytes 1 c ++ beBytes 2 k.motor ++ beBytes 2 k.heat ++ beBytes 1 k.priority)) s =
        .next t ∧ t.settings = { s.settings with governor := g } ∧ t.writes = s.writes ++ [[.governor g]] ∧
      s.awaits p ⟨0x14, .ok, .empty⟩ t ∧ t.gov = s.gov ∧
      ∀ n, t.slot n = if s.slotCls n = some c ∧ (k.motor ≠ (s.govClass c).motor ∨ k.heat ≠ (s.govClass c).heat)
        then { s.slot n with sense := (s.slot n).sense.resetStrikes } else s.slot n := by
  have ranges := ok
  simp only [GovClass.ok, Bool.and_eq_true, decide_eq_true_eq] at ranges
  have body : twoForms bodyGovernorGeneral bodyGovernorClass
      (1 :: beBytes 1 c ++ beBytes 2 k.motor ++ beBytes 2 k.heat ++ beBytes 1 k.priority) = .ok (.inr (c.val, k)) := by
    rw [beBytes_one, beBytes_two, beBytes_two, beBytes_one]
    show Except.ok (Sum.inr (_, (⟨beNat [_, _], beNat [_, _], _⟩ : GovClass))) = _
    rw [beNat_two (by omega), beNat_two (by omega), toNat_byte (by omega), toNat_byte (by omega)]
  have quiet : (s.countTaken p).classActive c = false := by
    rw [countTaken_proj (fun u => u.classActive c) (fun _ => rfl) s p]
    unfold State.classActive
    simp only [List.any_eq_false, Bool.and_eq_true, beq_iff_eq]
    rintro n - ⟨cls, active⟩
    simp [free n cls] at active
  have settings : (s.countTaken p).settings = s.settings := countTaken_proj State.settings (fun _ => rfl) s p
  obtain ⟨v, struck, at'⟩ := restrikeIf_eq ((s.countTaken p).governed g) c ((s.govClass c).drawsDiffer k)
  have set : (s.countTaken p).governorClassSet (c.val, k) = ({ (s.countTaken p).governed g with slots := v } : State).ok := by
    unfold State.governorClassSet
    rw [classOf_val]
    dsimp only
    rw [if_neg (by simp [ok]), quiet, if_neg Bool.false_ne_true, countTaken_proj (fun u => u.govClass c) (fun _ => rfl) s p,
      settings, ← hg, ← struck]
    rfl
  have written : ({ (s.countTaken p).governed g with slots := v } : State).writes = s.writes ++ [[.governor g]] := by
    show (s.countTaken p).writes ++ _ = _
    rw [countTaken_writes]
  refine ⟨_, congrArg Host.Outcome.next ((request_ok ready (by cases p <;> rfl) body (fun _ => turn) _).trans (congrArg
    (fun a : Answer => a.finish p 0x14 (s.countTaken p).writes.length) set)), ?_, ?_, finish_awaits
    (x := ({ (s.countTaken p).governed g with slots := v } : State).ok) (fun q => ?_) ?_, ?_, fun n => ?_⟩
  · rw [finish_proj State.settings (fun _ => rfl)]
    show ({ (s.countTaken p).settings with governor := g } : Settings) = _
    rw [settings]
  · rw [finish_proj State.writes (fun _ => rfl)]
    exact written
  · cases q <;> rfl
  · show ({ (s.countTaken p).governed g with slots := v } : State).writes.length ≠ _
    rw [written, countTaken_writes, List.length_append]
    simp
  · rw [finish_proj State.gov (fun _ => rfl)]
    exact countTaken_proj State.gov (fun _ => rfl) s p
  · rw [finish_proj (fun u => u.slot n) (fun _ => rfl)]
    have slot : ((s.countTaken p).governed g).slot n = s.slot n := countTaken_proj (fun u => u.slot n) (fun _ => rfl) s p
    have cls : ((s.countTaken p).governed g).slotCls n = s.slotCls n := countTaken_proj (fun u => u.slotCls n) (fun _ => rfl) s p
    refine (at' n).trans ?_
    rw [slot, cls]
    exact if_congr (and_congr_right' (drawsDiffer_iff _ _)) rfl rfl

/-- Settles O46. -/
theorem theGovernorIsSet : Obligations.TheGovernorIsSet := by
  intro s p ready turn
  refine ⟨fun w w1 w2 => budgetSet_does ready turn w1 w2, fun w m w1 w2 m1 => ?_, fun c k k1 k2 k3 k4 free => ?_⟩
  · obtain ⟨t, does, done, waits⟩ := governorSetGeneral_does ready turn w1 w2 m1
    exact ⟨t, _, does, rfl, done.settings, done.writes, waits, done.heat, done.capped, done.holds, done.accounts,
      fun law => ⟨done.motor law, done.slots law⟩⟩
  · obtain ⟨t, does, settings, writes, waits, gov, slots⟩ :=
      governorSetClass_does ready turn c (k := k) (by simp [GovClass.ok, k1, k2, k3, k4]) free rfl
    exact ⟨t, _, does, rfl, settings, writes, waits, gov, slots⟩

end

end Sys2Proof.Machine

namespace Sys2Proof.Machine

/-! ## What a raise leaves of a scan's figures (R105, R119, R130)

`Metered a s`: from `a` to `s` no measured draw of a slot has changed, and none of the figures that the governor takes from a scan.
The measured draws and these figures are set at a scan's end alone, whatever the faults that it raises bring about. -/

section
variable {a s t : State}

/-- A slot's measured draws (R130). -/
def SlotSense.draws (x : SlotSense) : Nat × Nat := (x.amps, x.watts)

/-- The governor's figures of a scan: the stray load, the feed-over count and its flag (R105, R119, R120). -/
def Governor.metered (g : Governor) : Nat × Nat × Bool := (g.stray, g.feedOver, g.feedRaised)

/-- From `a` to `s` the figures of a scan are as they were. -/
structure Metered (a s : State) : Prop where
  draws : ∀ n, (s.slot n).sense.draws = (a.slot n).sense.draws
  gov : s.gov.metered = a.gov.metered

namespace Metered

theorem refl (a : State) : Metered a a := ⟨fun _ => rfl, rfl⟩

theorem trans {b c : State} (h : Metered a b) (k : Metered b c) : Metered a c :=
  ⟨fun n => (k.draws n).trans (h.draws n), k.gov.trans h.gov⟩

theorem ite {c : Prop} [Decidable c] {t u : State} (ht : Metered a t) (hu : Metered a u) : Metered a (if c then t else u) := by
  split <;> assumption

theorem foldl {α : Type} {f : State → α → State} (hf : ∀ a s x, Metered a s → Metered a (f s x)) (l : List α) (s : State)
    (h : Metered a s) : Metered a (l.foldl f s) := by
  induction l generalizing s with
  | nil => exact h
  | cons x l ih => exact ih _ (hf _ _ _ h)

/-! ### The primitive updates -/

theorem change (h : Metered a s) (slots : t.slots = s.slots) (gov : t.gov = s.gov) : Metered a t :=
  h.trans ⟨fun n => by rw [slot_of_slots slots], by rw [gov]⟩

theorem modSlot (h : Metered a s) (n : Fin 24) (f : Slot → Slot) (hf : ∀ x, (f x).sense.draws = x.sense.draws) :
    Metered a (s.modSlot n f) := by
  refine h.trans ⟨fun m => ?_, rfl⟩
  rw [State.slot_modSlot]
  split
  · next e => rw [hf, e]
  · rfl

theorem modGov (h : Metered a s) (f : Governor → Governor) (hf : ∀ g, (f g).metered = g.metered) : Metered a (s.modGov f) :=
  h.trans ⟨fun _ => rfl, hf _⟩

theorem post (h : Metered a s) (b : EventBody) : Metered a (s.post b) := h.change (State.post_slots _ _) (State.post_gov _ _)
theorem postSlot (h : Metered a s) (n : Fin 24) : Metered a (s.postSlot n) := h.post _
theorem latch (h : Metered a s) (src : Option (Fin 24)) (c : FaultCode) : Metered a (s.latch src c) := h.change rfl rfl
theorem setQueue (h : Metered a s) (c : Fin 4) (q : List WaitEntry) : Metered a (s.setQueue c q) := h.change rfl rfl

theorem showLasting (h : Metered a s) (n : Fin 24) (d : Display) : Metered a (s.showLasting n d) := by
  obtain ⟨ts, e⟩ := showLasting_eq s n d
  rw [e]
  exact h.change rfl rfl

theorem modSense (h : Metered a s) (n : Fin 24) (f : SlotSense → SlotSense) (hf : ∀ x, (f x).draws = x.draws) :
    Metered a (s.modSense n f) := h.modSlot n _ fun _ => hf _

theorem setCause (h : Metered a s) (n : Fin 24) (m : Cause) (v : Bool) : Metered a (s.setCause n m v) := h.modSlot n _ fun _ => rfl
theorem setGrant (h : Metered a s) (n : Fin 24) (g : Bool) : Metered a (s.setGrant n g) := h.modSlot n _ fun _ => rfl
theorem dropReservation (h : Metered a s) (n : Fin 24) : Metered a (s.dropReservation n) := h.modSlot n _ fun _ => rfl

theorem writeCauses (h : Metered a s) (n : Fin 24) (m : Cause) : Metered a (s.writeCauses n m) := ite h (h.change rfl rfl)

theorem enter (h : Metered a s) (n : Fin 24) (st : SlotState) : Metered a (s.enter n st) := by
  refine h.trans ⟨fun m => ?_, by rw [(State.enter_rest n st).1]⟩
  rw [State.enter_slot]
  split
  · next e => rw [← e]; rfl
  · rfl

/-! ### The governor -/

theorem grantSlot (h : Metered a s) (n : Fin 24) : Metered a (s.grantSlot n) :=
  ite ((h.setGrant n true).enter n .running) (h.setGrant n true)

theorem revokeSlot (h : Metered a s) (n : Fin 24) : Metered a (s.revokeSlot n) := (h.setGrant n false).enter n .awaitPower

theorem tidyStamp (h : Metered a s) : Metered a s.tidyStamp := ite (h.modGov _ fun _ => rfl) h

theorem revoke (h : Metered a s) (fell : Bool) : Metered a (s.revoke fell).1 :=
  foldl (fun _ _ x k => k.revokeSlot x.slot) _ _ (h.modGov _ fun _ => rfl)

theorem grantPass (h : Metered a s) (v : List (Fin 24)) : Metered a (s.grantPass v) :=
  foldl (fun _ _ x k => k.grantSlot x.slot) _ _ (h.modGov _ fun _ => rfl)

theorem reckon (h : Metered a s) (x y z : Bool) : Metered a (s.reckon x y z) := by
  have figures : Metered a s.refigured := by
    unfold State.refigured
    generalize s.motorSum = k
    exact h.modGov _ fun _ => rfl
  rw [reckon_eq]
  generalize s.refigured = u at *
  exact (ite ((figures.revoke _).grantPass _) (figures.revoke _)).tidyStamp

theorem enterTold (h : Metered a s) (n : Fin 24) (st : SlotState) : Metered a (s.enterTold n st) := (h.enter n st).reckon _ _ _

theorem removeRequest (h : Metered a s) (n : Fin 24) : Metered a (s.removeRequest n) := h.modGov _ fun _ => rfl

theorem dropHeat (h : Metered a s) (n : Fin 24) (b : Bool) : Metered a (s.dropHeat n b) := by
  have removed := (h.modSlot n (fun x => { x with heatReq := false }) fun _ => rfl).removeRequest n
  exact ite (ite ((removed.setGrant n false).reckon _ _ _) (removed.setGrant n false)) removed.tidyStamp

/-! ### The waitlist and the room -/

theorem reserve (h : Metered a s) (n : Fin 24) (c : Fin 4) (e : WaitEntry) (q : List WaitEntry) : Metered a (s.reserve n c e q) := by
  have reserved := (h.setQueue c q).modSlot n (fun x => { x with
    reservation := some ⟨e.card, e.account, e.joined, (s.setQueue c q).settings.room.window * 60⟩ }) fun _ => rfl
  obtain ⟨v, b, hv, e⟩ := reserve_cases (s := s) n c e q
  rw [e]
  rcases hv with rfl | rfl
  · exact ((reserved.postSlot n).post b).showLasting n _
  · exact ((reserved.enter n .reserved).post b).showLasting n _

theorem offer (h : Metered a s) (n : Fin 24) : Metered a (s.offer n) := by
  unfold State.offer
  split
  · exact h
  · split
    · exact h
    · exact h.reserve n _ _ _

theorem enterIdle (h : Metered a s) (n : Fin 24) : Metered a (s.enterIdle n) := (h.enter n .idle).offer n

theorem giveBack (h : Metered a s) (c : Fin 4) (r : Reservation) : Metered a (s.giveBack c r) := by
  obtain ⟨u, q, hu, e⟩ := giveBack_cases (s := s) c r
  have queued : Metered a (u.setQueue c q) := by
    rcases hu with rfl | ⟨q', b, rfl⟩
    · exact h.setQueue c q
    · exact ((h.setQueue c q').post b).setQueue c q
  rcases e with e | ⟨m, -, e⟩ <;> rw [e]
  · exact queued
  · exact queued.offer m

theorem clearWaitlist (h : Metered a s) : Metered a s.clearWaitlist := by
  have emptied : Metered a { s with queues := Vector.replicate 4 [] } := h.change rfl rfl
  unfold State.clearWaitlist Machine.overSlots
  exact foldl (fun _ _ n k => ite ((k.dropReservation n).enterIdle n) k) _ _ emptied

theorem holdsEnded (h : Metered a s) : Metered a s.holdsEnded := by
  unfold State.holdsEnded State.enterRoom
  refine ite ?_ h
  rw [if_neg nofun]
  exact clearWaitlist (h.change (changeRoom_slots _ _) (changeRoom_gov _ _ _))

/-! ### The cycle end and what a fault does -/

theorem cycleEnd (h : Metered a s) (n : Fin 24) (r : Reason) (f : Option (FaultCode × Option Nat)) (st : SlotState) (b : Bool) :
    Metered a (s.cycleEnd n r f st b) := by
  obtain ⟨slots, gov⟩ := settle_rest s n r f
  have dropped := (((h.change slots gov).post (.cycleEnd n s.settlement.next)).dropHeat n b).modSlot n
    (fun x => { x with warning := false, resume := none }) fun _ => rfl
  unfold State.cycleEnd
  split
  · exact h
  · refine holdsEnded (ite (dropped.enterIdle n) ?_)
    rcases enterEnded_cases (((s.settle n r f).post (.cycleEnd n s.settlement.next)).dropHeat n b |>.modSlot n
      fun x => { x with warning := false, resume := none }) n st b with e | e <;> rw [e]
    · exact dropped.enter n st
    · exact dropped.enterTold n st

theorem takeOut (h : Metered a s) (n : Fin 24) : Metered a (s.takeOut n) := by
  unfold State.takeOut
  split
  · exact ((h.dropReservation n).enter n _).giveBack _ _
  · exact h.enter n _

theorem followJoin (h : Metered a s) (n : Fin 24) : Metered a (s.followJoin n) := by
  unfold State.followJoin
  split
  iterate 3 exact h.takeOut n
  all_goals exact h.postSlot n

theorem joinCause (h : Metered a s) (n : Fin 24) (m : Cause) : Metered a (s.joinCause n m) :=
  ite h (((h.setCause n m true).writeCauses n m).followJoin n)

theorem joinLost (h : Metered a s) (n : Fin 24) : Metered a (s.joinLost n) := by
  have joined := h.setCause n .lost true
  refine ite h ?_
  dsimp only
  split
  · exact joined
  · exact joined.postSlot n
  iterate 5 exact joined.takeOut n
  all_goals exact joined.cycleEnd n _ _ _ _

theorem faultEnd (h : Metered a s) (n : Fin 24) (c : FaultCode) (e : Option Nat) : Metered a (s.faultEnd n c e) :=
  ite (h.cycleEnd n _ _ _ _) h

theorem unlockFailed (h : Metered a s) (n : Fin 24) : Metered a (s.unlockFailed n) :=
  enterTold (ite h ((h.setCause n .lockout true).writeCauses n .lockout)) n .outOfService

theorem faultAct (h : Metered a s) (n : Fin 24) (c : FaultCode) (e : Option Nat) (v : Severity) : Metered a (s.faultAct n c e v) := by
  unfold State.faultAct
  split
  · exact h
  · exact h.faultEnd n c e
  · exact ite (h.unlockFailed n) ((h.faultEnd n c e).joinCause n _)
  · exact h.joinLost n

/-- Whatever a fault brings about, it leaves the figures of the scan (R137). -/
theorem raise (h : Metered a s) (src : Option (Fin 24)) (c : FaultCode) (e : Option Nat) : Metered a (s.raise src c e) := by
  have entered : Metered a { s with faults := (s.faults.enter src c e s.clock).1 } := h.change rfl rfl
  unfold State.raise
  cases src with
  | none => exact ite ((entered.post _).latch _ _) (entered.post _)
  | some n => exact ite (((entered.post _).faultAct n c e _).latch _ _) ((entered.post _).faultAct n c e _)

/-! ### The strike tests (R131 to R133) -/

theorem setStrike (h : Metered a s) (n : Fin 24) (x : SenseTest) (k : SlotSense → Strike) :
    Metered a (s.modSense n fun y => y.setStrike x (k y)) := h.modSense n _ fun _ => by cases x <;> rfl

theorem endCondition (h : Metered a s) (n : Fin 24) (x : SenseTest) : Metered a (s.endCondition n x) :=
  ite ((h.setStrike n x _).latch _ _) h

theorem strikeTest (h : Metered a s) (n : Fin 24) (w : Nat) (x : SenseTest) : Metered a (s.strikeTest n w x) :=
  ite (ite ((h.setStrike n x _).raise _ _ _) (h.setStrike n x _)) ((h.setStrike n x _).endCondition n x)

theorem strikeTests (h : Metered a s) (r : ScanResult) : Metered a (s.strikeTests r) :=
  ite h ((foldl (fun _ _ x k => k.strikeTest r.slot r.watts x) SenseTest.all s h).modSlot r.slot _ fun _ => rfl)

theorem endedTests (h : Metered a s) (r : ScanResult) : Metered a (s.endedTests r) :=
  ite h (foldl (fun _ _ x k => ite k (k.endCondition r.slot x)) SenseTest.all s h)

end Metered
end

end Sys2Proof.Machine

namespace Sys2Proof.Machine

/-! ## The end of a scan (R105, R119, R120, R123, R126, R127, R130) -/

section
variable {s t u : State}

/-! ### A fault of the device (R137, R142) -/

/-- A raise without a source acts on no slot. -/
theorem raise_device (s : State) {code : FaultCode} (hl : code.selfLatching = false) (err : Option Nat) :
    s.raise none code err = ({ s with faults := (s.faults.enter none code err s.clock).1 } : State).post
      (.faultRaised none code (s.faults.enter none code err s.clock).2.1.errorCode
        (s.faults.enter none code err s.clock).2.1.occurrences (s.faults.enter none code err s.clock).2.1.severity
        (s.faults.enter none code err s.clock).2.2) := by
  unfold State.raise
  dsimp only
  rw [hl, if_neg Bool.false_ne_true]

/-- The first raise of a code without a source is told with one occurrence (R142), before all that is told later. -/
theorem raise_device_told {code : FaultCode} (hl : code.selfLatching = false) (events : u.events = s.events) (clock : u.clock = s.clock)
    (new : u.faults.find none code = none) (room : u.faults.table.length < 32)
    (later : (u.raise none code).events.queue <+: t.events.queue) :
    s.told (.faultRaised none code none 1 (code.applied 1) false) t := by
  have count : u.faults.count none code = 1 := by
    unfold Faults.count
    rw [new]
    rfl
  rw [raise_device u hl, (Faults.enter_tabled (.inr room) none u.clock).1, Faults.enter_entry, count] at later
  exact told_of_post (u := { u with faults := (u.faults.enter none code none u.clock).1 }) events clock later

/-! ### The close of a scan, valid or not (R123, R124) -/

/-- The slots after a change of one slot's sensing. -/
theorem modSense_at (s : State) (m n : Fin 24) (f : SlotSense → SlotSense) : (s.modSense m f).slots[n.val] =
    { s.slot n with sense := if m = n then f (s.slot n).sense else (s.slot n).sense } := by
  refine (State.slot_modSlot s m n _).trans ?_
  split
  · next e => rw [e]
  · rfl

/-- One change of the sensing made at every slot of a list. -/
theorem foldSense (g : SlotSense → SlotSense) {l : List (Fin 24)} (nodup : l.Nodup) (s : State) :
    ∃ v, l.foldl (fun s n => s.modSense n g) s = { s with slots := v } ∧
      ∀ n : Fin 24, v[n.val] = if n ∈ l then { s.slot n with sense := g (s.slot n).sense } else s.slot n := by
  induction l generalizing s with
  | nil => exact ⟨s.slots, rfl, fun n => by simp [State.slot]⟩
  | cons m l ih =>
    obtain ⟨fresh, nodup⟩ := List.nodup_cons.1 nodup
    obtain ⟨v, fold, at'⟩ := ih nodup (s.modSense m g)
    refine ⟨v, fold, fun n => ?_⟩
    rw [at', State.modSense, State.slot_modSlot]
    by_cases e : m = n
    · subst e
      simp [fresh]
    · simp [e, Ne.symm e]

theorem clearMarks_eq (s : State) : ∃ v, s.clearMarks = { s with slots := v } ∧
    ∀ n : Fin 24, v[n.val] = { s.slot n with sense := (s.slot n).sense.inScan none } := by
  obtain ⟨v, e, at'⟩ := foldSense (.inScan none) (List.nodup_finRange 24) s
  exact ⟨v, e, fun n => by rw [at', if_pos (List.mem_finRange n)]⟩

/-- An idle converter goes on to its next conversion, if there is one, which marks its slot (R124). -/
theorem startNext_eq (idle : s.scanner.converter = none) : ∃ v w q, s.startNext = { s with
      slots := v, scanner := { s.scanner with converter := s.scanner.nextUp, waiting := w, toConvert := q } } ∧
    ∀ n : Fin 24, ∃ b, v[n.val] = { s.slot n with sense := { (s.slot n).sense with begun := b } } := by
  unfold State.startNext Scanner.nextUp
  rw [idle]
  cases hw : s.scanner.waiting with
  | cons x l => exact ⟨s.slots, l, s.scanner.toConvert, rfl, fun n => ⟨_, rfl⟩⟩
  | nil =>
    cases hq : s.scanner.toConvert with
    | nil =>
      have same : s.scanner = { s.scanner with converter := none, waiting := [], toConvert := [] } := by rw [← idle, ← hw, ← hq]
      exact ⟨s.slots, [], [], congrArg (fun c => ({ s with scanner := c } : State)) same, fun n => ⟨_, rfl⟩⟩
    | cons i l =>
      dsimp only
      cases slotOf i with
      | none => exact ⟨s.slots, [], l, by rw [← hw]; rfl, fun n => ⟨_, rfl⟩⟩
      | some m =>
        refine ⟨(s.modSense m fun x => { x with begun := true }).slots, [], l, by rw [← hw]; rfl, fun n => ?_⟩
        refine ⟨m = n ∨ (s.slot n).sense.begun = true, (modSense_at s m n _).trans ?_⟩
        split
        · next e => simp [e]
        · next e => simp [e]

/-- What follows the judgement of a scan: its marks and results are cleared, and the converter goes on. -/
def State.closeScan (s : State) : State := (s.clearMarks.modScanner fun c => { c with results := [] }).startNext

theorem closeScan_eq (idle : s.scanner.converter = none) : ∃ v w q, s.closeScan = { s with
      slots := v,
      scanner := { s.scanner with results := [], converter := s.scanner.nextUp, waiting := w, toConvert := q } } ∧
    ∀ n : Fin 24, ∃ b, v[n.val] = { s.slot n with
      sense := { (s.slot n).sense with begun := b, stale := false, scanned := none } } := by
  obtain ⟨v, cleared, marks⟩ := clearMarks_eq s
  unfold State.closeScan
  rw [cleared]
  obtain ⟨v', w, q, started, begun⟩ := startNext_eq (s := (({ s with slots := v } : State).modScanner fun c => { c with results := [] }))
    idle
  refine ⟨v', w, q, started, fun n => ?_⟩
  obtain ⟨b, e⟩ := begun n
  refine ⟨b, e.trans ?_⟩
  have slot : (({ s with slots := v } : State).modScanner fun c => { c with results := [] }).slot n = v[n.val] := rfl
  rw [slot, marks]
  rfl

/-- The scan ended, before it is judged. -/
def State.scanDone (s : State) : State := s.modScanner fun c => { c with converter := none, active := false, ended := c.number }

theorem endScan_eq (s : State) (count : Nat) : s.endScan count =
    (if referenceValid count then s.scanDone.validScan else s.scanDone.invalidScan).closeScan := rfl

/-! ### An invalid scan (R126, R127) -/

/-- An invalid scan changes the scanner's flags, and with the flag clear raises SENSE_REFERENCE. -/
theorem invalidScan_eq (s : State) : s.invalidScan =
    if s.scanner.refFault then { s with scanner := { s.scanner with valid := false } }
    else ({ s with scanner := { s.scanner with valid := false, refFault := true } } : State).raise none .senseReference := rfl

/-- What an invalid scan leaves as it was. -/
theorem invalidScan_rest (s : State) : s.invalidScan.scanner = { s.scanner with valid := false, refFault := true } ∧
    s.invalidScan.slots = s.slots ∧ s.invalidScan.gov = s.gov ∧ s.booksKept s.invalidScan := by
  rw [invalidScan_eq]
  split
  · next set =>
    have same : ({ s.scanner with valid := false } : Scanner) = { s.scanner with valid := false, refFault := true } := by rw [← set]
    exact ⟨same, rfl, rfl, rfl, rfl, rfl, rfl⟩
  · rw [raise_device _ rfl]
    exact ⟨by simp, by simp, by simp, by simp, by simp, by simp, by simp⟩

/-! ### A valid scan up to its reckoning (R127, R130) -/

/-- The last result of slot `n` in a list. -/
def lastResult (rs : List ScanResult) (n : Fin 24) : Option ScanResult := (rs.filter fun r => r.slot = n).getLast?

/-- Stage 1 of R130 changes the measured draws alone: a slot has the last of its results. -/
theorem takeDraws_eq (s : State) (rs : List ScanResult) : ∃ v, s.takeDraws rs = { s with slots := v } ∧
    ∀ n : Fin 24, v[n.val] = { s.slot n with sense := { (s.slot n).sense with
      amps := (lastResult rs n).elim (s.slot n).sense.amps (fun r => r.amps),
      watts := (lastResult rs n).elim (s.slot n).sense.watts fun r => r.watts } } := by
  induction rs using List.reverseRecOn with
  | nil => exact ⟨s.slots, rfl, fun n => rfl⟩
  | append_singleton l r ih =>
    obtain ⟨v, taken, at'⟩ := ih
    have last : s.takeDraws (l ++ [r]) = (s.takeDraws l).modSense r.slot fun x => { x with amps := r.amps, watts := r.watts } :=
      List.foldl_concat ..
    rw [last, taken]
    refine ⟨(({ s with slots := v } : State).modSense r.slot fun x => { x with amps := r.amps, watts := r.watts }).slots, rfl,
      fun n => (modSense_at _ r.slot n _).trans ?_⟩
    have slot : ({ s with slots := v } : State).slot n = v[n.val] := rfl
    rw [slot, at']
    unfold lastResult
    rw [List.filter_append]
    by_cases e : r.slot = n <;> simp [e]

/-- A valid scan up to the reckoning of its stage 2: the flags, the measured draws and the stray load are taken. -/
def State.drawn (s : State) : State :=
  ((((if s.scanner.refFault then (s.modScanner fun c => { c with refFault := false }).latch none .senseReference else s).modScanner
    fun c => { c with valid := true, feedWatts := c.feed }).takeDraws s.keptResults).modGov fun g =>
      { g with stray := strayOf s.scanner.feed (s.keptResults.map fun r => r.watts).sum })

/-- A valid scan up to its feed-over count: stage 2 of R130 has reckoned. -/
def State.weighed (s : State) : State := s.drawn.reckon false false false

/-- A valid scan: the feed-over count after the reckoning, then the strike tests. -/
theorem validScan_eq (s : State) : s.validScan = s.keptResults.foldl State.strikeTests (s.keptResults.foldl State.endedTests
    (s.weighed.feedOver s.scanner.feed)) := by
  have flagged : ∀ u, u = (if s.scanner.refFault then (s.modScanner fun c => { c with refFault := false }).latch none .senseReference
      else s) → u.keptResults = s.keptResults ∧ u.scanner.feed = s.scanner.feed := by
    rintro u rfl
    split <;> exact ⟨rfl, rfl⟩
  unfold State.validScan State.takeFigures State.weighed State.drawn
  dsimp only
  generalize (if s.scanner.refFault then (s.modScanner fun c => { c with refFault := false }).latch none .senseReference
    else s) = u at *
  obtain ⟨kept, feed⟩ := flagged u rfl
  obtain ⟨v, taken, -⟩ := takeDraws_eq (u.modScanner fun c => { c with valid := true, feedWatts := c.feed }) s.keptResults
  rw [kept, taken, ← feed]
  rfl

theorem drawn_eq (s : State) : ∃ v, s.drawn = { s with
      scanner := { s.scanner with refFault := false, valid := true, feedWatts := s.scanner.feed },
      faults := if s.scanner.refFault then s.faults.latch none .senseReference else s.faults, slots := v,
      gov := { s.gov with stray := strayOf s.scanner.feed (s.keptResults.map fun r => r.watts).sum } } ∧
    ∀ n : Fin 24, v[n.val] = { s.slot n with sense := { (s.slot n).sense with
      amps := (lastResult s.keptResults n).elim (s.slot n).sense.amps (fun r => r.amps),
      watts := (lastResult s.keptResults n).elim (s.slot n).sense.watts fun r => r.watts } } := by
  have flagged : ((if s.scanner.refFault then (s.modScanner fun c => { c with refFault := false }).latch none .senseReference
      else s).modScanner fun c => { c with valid := true, feedWatts := c.feed }) = { s with
        scanner := { s.scanner with refFault := false, valid := true, feedWatts := s.scanner.feed },
        faults := if s.scanner.refFault then s.faults.latch none .senseReference else s.faults } := by
    split
    · rfl
    · next clear => rw [← Bool.eq_false_iff.2 clear]; rfl
  unfold State.drawn
  rw [flagged]
  obtain ⟨v, taken, at'⟩ := takeDraws_eq { s with
    scanner := { s.scanner with refFault := false, valid := true, feedWatts := s.scanner.feed },
    faults := if s.scanner.refFault then s.faults.latch none .senseReference else s.faults } s.keptResults
  rw [taken]
  exact ⟨v, rfl, at'⟩

/-- The slots and the rest of the state before the reckoning of a valid scan. -/
theorem drawn_slot (s : State) (n : Fin 24) : s.drawn.slot n = { s.slot n with sense := { (s.slot n).sense with
    amps := (lastResult s.keptResults n).elim (s.slot n).sense.amps (fun r => r.amps),
    watts := (lastResult s.keptResults n).elim (s.slot n).sense.watts fun r => r.watts } } := by
  obtain ⟨v, e, at'⟩ := drawn_eq s
  rw [e]
  exact at' n

theorem drawn_rest (s : State) :
    s.drawn.gov = { s.gov with stray := strayOf s.scanner.feed (s.keptResults.map fun r => r.watts).sum } ∧
      s.drawn.scanner = { s.scanner with refFault := false, valid := true, feedWatts := s.scanner.feed } ∧
      s.drawn.faults = (if s.scanner.refFault then s.faults.latch none .senseReference else s.faults) ∧
      s.drawn.settings = s.settings ∧ s.drawn.events = s.events ∧ s.drawn.clock = s.clock := by
  obtain ⟨v, e, -⟩ := drawn_eq s
  rw [e]
  exact ⟨rfl, rfl, rfl, rfl, rfl, rfl⟩

/-- The draws are none of the figures of the motor allowance (R104). -/
theorem drawn_motorSum (s : State) : s.drawn.motorSum = s.motorSum := by
  obtain ⟨-, -, -, settings, -, -⟩ := drawn_rest s
  refine motorSum_congr settings fun n => ?_
  rw [drawn_slot]
  exact ⟨rfl, rfl⟩

/-! ### The grants after a reckoning (R114) -/

/-- Without a request a reckoning moves no slot and tells nothing. -/
theorem reckon_unasked (grants : s.gov.grants = []) (waits : s.gov.waits = []) (x y z : Bool) :
    (s.reckon x y z).gov.grants = [] ∧ (s.reckon x y z).events = s.events := by
  have refigured : s.refigured.gov.grants = [] ∧ s.refigured.gov.waits = [] ∧ s.refigured.events = s.events := by
    unfold State.refigured
    generalize s.motorSum = k
    exact ⟨grants, waits, rfl⟩
  rw [reckon_eq]
  generalize s.refigured = u at *
  obtain ⟨grants, waits, events⟩ := refigured
  have revoked (fell : Bool) : (u.revocation fell) = ([], []) := by
    unfold State.revocation
    rw [grants]
    split <;> rfl
  have checked (fell : Bool) : (u.revoke fell).1.gov.grants = [] ∧ (u.revoke fell).1.gov.waits = [] ∧
      (u.revoke fell).1.events = s.events := by
    unfold State.revoke
    rw [revoked]
    exact ⟨rfl, waits, events⟩
  have passed (w : State) (v : List (Fin 24)) (hg : w.gov.grants = []) (hw : w.gov.waits = []) :
      (w.grantPass v).gov.grants = [] ∧ (w.grantPass v).events = w.events := by
    unfold State.grantPass
    rw [hw]
    exact ⟨by rw [walk]; simp [State.modGov, newGrants, hg], rfl⟩
  have tidied (w : State) : w.tidyStamp.gov.grants = w.gov.grants ∧ w.tidyStamp.events = w.events := by
    unfold State.tidyStamp
    split <;> exact ⟨rfl, rfl⟩
  obtain ⟨hg, hw, he⟩ := checked (decide (u.gov.heat < s.gov.heat) || z)
  rw [(tidied _).1, (tidied _).2]
  split
  · obtain ⟨pg, pe⟩ := passed _ (u.revoke (decide (u.gov.heat < s.gov.heat) || z)).2 hg hw
    exact ⟨pg, pe.trans he⟩
  · exact ⟨hg, he⟩

/-- Where the effective heat budget did not fall no grant is revoked (R114). -/
theorem reckon_granted (grants : s.gov.grants ≠ []) (rose : s.gov.heat ≤ s.refigured.gov.heat) (x y : Bool) :
    (s.reckon x y false).gov.grants ≠ [] := by
  have same := refigured_grants s
  have fell : (decide (s.refigured.gov.heat < s.gov.heat) || false) = false := by simpa using rose
  rw [reckon_eq, fell]
  generalize s.refigured = u at *
  have checked : (u.revoke false).1.gov.grants = s.gov.grants := by rw [revoke_gov, ← same]; rfl
  obtain ⟨k, tidied⟩ := tidyStamp_gov (if decide (s.gov.heat < u.gov.heat) || x || y then
    (u.revoke false).1.grantPass (u.revoke false).2 else (u.revoke false).1)
  rw [tidied]
  dsimp only
  split
  · rw [grantPass_gov, checked]
    simp [grants]
  · rwa [checked]

theorem refigured_heat (s : State) :
    s.refigured.gov.heat = (s.settings.governor.budget : Int) - s.motorSum - s.gov.stray := by
  unfold State.refigured
  generalize s.motorSum = k
  rfl

/-! ### The feed-over count and flag (R119, R120) -/

theorem feedOver_within {feed : Nat} (h : feed ≤ s.settings.governor.budget) :
    (s.feedOver feed).gov = { s.gov with feedOver := 0, feedRaised := false } ∧
      (s.feedOver feed).faults = if s.gov.feedRaised then s.faults.latch none .feedOver else s.faults := by
  unfold State.feedOver
  rw [if_neg (Nat.not_lt.2 h)]
  split
  · exact ⟨rfl, rfl⟩
  · next clear =>
    refine ⟨?_, rfl⟩
    rw [← Bool.eq_false_iff.2 clear]
    rfl

theorem feedOver_granted {feed : Nat} (h : s.settings.governor.budget < feed) (grants : s.gov.grants ≠ []) :
    (s.feedOver feed).gov = { s.gov with feedOver := 0 } := by
  unfold State.feedOver
  rw [if_pos h, if_neg (by simpa using grants)]
  rfl

theorem feedOver_ungranted {feed : Nat} (h : s.settings.governor.budget < feed) (grants : s.gov.grants = []) :
    (s.feedOver feed).gov = { s.gov with
      feedOver := min 10 (s.gov.feedOver + 1), feedRaised := s.gov.feedRaised || decide (10 ≤ s.gov.feedOver + 1) } := by
  unfold State.feedOver
  rw [if_pos h, if_pos (by simpa using grants)]
  dsimp only
  split
  · next onset =>
    have flag : (s.gov.feedRaised || decide (10 ≤ s.gov.feedOver + 1)) = true := by
      rw [decide_eq_true (by omega), Bool.or_true]
    rw [raise_device _ rfl, State.post_gov, flag]
    rfl
  · next other =>
    have flag : (s.gov.feedRaised || decide (10 ≤ s.gov.feedOver + 1)) = s.gov.feedRaised := by
      cases raised : s.gov.feedRaised
      · rw [Bool.false_or, decide_eq_false_iff_not]
        intro ten
        exact other ⟨by omega, by rw [raised]; rfl⟩
      · rfl
    rw [flag]
    rfl

/-- At the tenth count with the flag clear the fault is raised (R120). -/
theorem feedOver_onset {feed : Nat} (h : s.settings.governor.budget < feed) (grants : s.gov.grants = [])
    (ten : 10 ≤ s.gov.feedOver + 1) (clear : s.gov.feedRaised = false) : s.feedOver feed =
      (s.modGov fun g => { g with feedOver := min 10 (s.gov.feedOver + 1), feedRaised := true }).raise none .feedOver := by
  unfold State.feedOver
  rw [if_pos h, if_pos (by simpa using grants)]
  dsimp only
  rw [if_pos ⟨by omega, by rw [clear]; rfl⟩]

/-! ### A valid scan whole (R119, R120, R127, R130) -/

theorem outside_scanner (h : t.outside = s.outside) : t.scanner = s.scanner := by
  have same := congrArg State.scanner h
  exact same

theorem Metered.figures {a s : State} (h : Metered a s) :
    s.gov.stray = a.gov.stray ∧ s.gov.feedOver = a.gov.feedOver ∧ s.gov.feedRaised = a.gov.feedRaised := by
  have gov := h.gov
  simpa only [Governor.metered, Prod.mk.injEq] using gov

/-- The scan's figures as the reckoning leaves them (R105), and what else it leaves. -/
theorem weighed_rest (s : State) : s.weighed.gov.stray = strayOf s.scanner.feed (s.keptResults.map fun r => r.watts).sum ∧
    s.weighed.gov.feedOver = s.gov.feedOver ∧ s.weighed.gov.feedRaised = s.gov.feedRaised ∧ s.weighed.settings = s.settings ∧
    s.weighed.faults = (if s.scanner.refFault then s.faults.latch none .senseReference else s.faults) ∧
    s.weighed.clock = s.clock := by
  obtain ⟨gov, -, faults, settings, -, clock⟩ := drawn_rest s
  unfold State.weighed
  generalize s.drawn = u at *
  obtain ⟨stray, feedOver, feedRaised⟩ := ((Metered.refl u).reckon false false false).figures
  rw [stray, feedOver, feedRaised, gov, settings_of_aside (aside_reckon false false false), settings, reckon_faults, faults,
    outside_clock ((Acts.refl u).reckon false false false).outside, clock]
  exact ⟨rfl, rfl, rfl, rfl, rfl, rfl⟩

/-- The grants stand where the effective heat budget did not fall (R114). -/
theorem weighed_granted (grants : s.gov.grants ≠ []) (rose : s.gov.heat ≤ (s.settings.governor.budget : Int) - s.motorSum -
    strayOf s.scanner.feed (s.keptResults.map fun r => r.watts).sum) : s.weighed.gov.grants ≠ [] := by
  have motor := drawn_motorSum s
  obtain ⟨gov, -, -, settings, -, -⟩ := drawn_rest s
  unfold State.weighed
  generalize s.drawn = u at *
  refine reckon_granted (by rw [gov]; exact grants) ?_ false false
  rw [refigured_heat, motor, settings, gov]
  exact rose

theorem weighed_ungranted (grants : s.gov.grants = []) (waits : s.gov.waits = []) :
    s.weighed.gov.grants = [] ∧ s.weighed.events = s.events := by
  obtain ⟨gov, -, -, -, events, -⟩ := drawn_rest s
  unfold State.weighed
  rw [← events]
  generalize s.drawn = u at *
  exact reckon_unasked (by rw [gov]; exact grants) (by rw [gov]; exact waits) false false false

/-- The feed-over count touches no measured draw. -/
theorem feedOver_draws (s : State) (feed : Nat) (n : Fin 24) : ((s.feedOver feed).slot n).sense.draws = (s.slot n).sense.draws := by
  have govOnly (f : Governor → Governor) : ((s.modGov f).slot n).sense.draws = (s.slot n).sense.draws := rfl
  unfold State.feedOver
  split
  · split
    · dsimp only
      split
      · exact (((Metered.refl _).raise none .feedOver none).draws n).trans (govOnly _)
      · exact govOnly _
    · exact govOnly _
  · split
    · exact govOnly fun g => { g with feedOver := 0, feedRaised := false }
    · exact govOnly _

/-- The strike tests leave the figures of the scan that they judge. -/
theorem validScan_metered (s : State) : Metered (s.weighed.feedOver s.scanner.feed) s.validScan := by
  rw [validScan_eq]
  exact Metered.foldl (fun _ _ r k => k.strikeTests r) _ _ (Metered.foldl (fun _ _ r k => k.endedTests r) _ _ (Metered.refl _))

theorem validScan_books (s : State) : Books (s.weighed.feedOver s.scanner.feed) s.validScan := by
  rw [validScan_eq]
  exact Books.foldl (fun _ _ r k => k.strikeTests r) _ _ (Books.foldl (fun _ _ r k => k.endedTests r) _ _ (Books.refl _))

theorem validScan_scanner (s : State) :
    s.validScan.scanner = { s.scanner with refFault := false, valid := true, feedWatts := s.scanner.feed } := by
  have acts : Acts s.drawn s.validScan := by
    rw [validScan_eq]
    exact Acts.foldl (fun _ _ r k => k.strikeTests r) _ _ (Acts.foldl (fun _ _ r k => k.endedTests r) _ _
      (((Acts.refl _).reckon _ _ _).feedOver _))
  obtain ⟨-, scanner, -⟩ := drawn_rest s
  exact (outside_scanner acts.outside).trans scanner

/-- Each slot has the last of its kept results as its measured draw (R130). -/
theorem validScan_draws (s : State) (n : Fin 24) :
    (s.validScan.slot n).sense.amps = (lastResult s.keptResults n).elim (s.slot n).sense.amps (fun r => r.amps) ∧
      (s.validScan.slot n).sense.watts = (lastResult s.keptResults n).elim (s.slot n).sense.watts fun r => r.watts := by
  have draws : (s.validScan.slot n).sense.draws = (s.drawn.slot n).sense.draws :=
    ((validScan_metered s).draws n).trans ((feedOver_draws _ _ n).trans (((Metered.refl s.drawn).reckon false false false).draws n))
  rw [drawn_slot] at draws
  simpa only [SlotSense.draws, Prod.mk.injEq] using draws

theorem validScan_within (h : s.scanner.feed ≤ s.settings.governor.budget) :
    s.validScan.gov.stray = strayOf s.scanner.feed (s.keptResults.map fun r => r.watts).sum ∧ s.validScan.gov.feedOver = 0 ∧
      s.validScan.gov.feedRaised = false := by
  obtain ⟨stray, feedOver, feedRaised⟩ := (validScan_metered s).figures
  obtain ⟨taken, -, -, settings, -, -⟩ := weighed_rest s
  rw [stray, feedOver, feedRaised]
  generalize s.weighed = u at *
  rw [(feedOver_within (by rw [settings]; exact h)).1]
  exact ⟨taken, rfl, rfl⟩

theorem validScan_granted (h : s.settings.governor.budget < s.scanner.feed) (grants : s.weighed.gov.grants ≠ []) :
    s.validScan.gov.stray = strayOf s.scanner.feed (s.keptResults.map fun r => r.watts).sum ∧ s.validScan.gov.feedOver = 0 ∧
      s.validScan.gov.feedRaised = s.gov.feedRaised := by
  obtain ⟨stray, feedOver, feedRaised⟩ := (validScan_metered s).figures
  obtain ⟨taken, -, flag, settings, -, -⟩ := weighed_rest s
  rw [stray, feedOver, feedRaised]
  generalize s.weighed = u at *
  rw [feedOver_granted (by rw [settings]; exact h) grants]
  exact ⟨taken, rfl, flag⟩

theorem validScan_ungranted (h : s.settings.governor.budget < s.scanner.feed) (grants : s.weighed.gov.grants = []) :
    s.validScan.gov.stray = strayOf s.scanner.feed (s.keptResults.map fun r => r.watts).sum ∧
      s.validScan.gov.feedOver = min 10 (s.gov.feedOver + 1) ∧
      s.validScan.gov.feedRaised = (s.gov.feedRaised || decide (10 ≤ s.gov.feedOver + 1)) := by
  obtain ⟨stray, feedOver, feedRaised⟩ := (validScan_metered s).figures
  obtain ⟨taken, count, flag, settings, -, -⟩ := weighed_rest s
  rw [stray, feedOver, feedRaised]
  generalize s.weighed = u at *
  rw [feedOver_ungranted (by rw [settings]; exact h) grants, ← count, ← flag]
  exact ⟨taken, rfl, rfl⟩

theorem validScan_stray (s : State) :
    s.validScan.gov.stray = strayOf s.scanner.feed (s.keptResults.map fun r => r.watts).sum := by
  by_cases h : s.scanner.feed ≤ s.settings.governor.budget
  · exact (validScan_within h).1
  · by_cases grants : s.weighed.gov.grants = []
    · exact (validScan_ungranted (Nat.not_le.1 h) grants).1
    · exact (validScan_granted (Nat.not_le.1 h) grants).1

/-- Entries that become LATCHED keep their keys (R144). -/
theorem Faults.latch_find_none (f : Faults) (a b : Option (Fin 24)) (c d : FaultCode) (h : f.find a c = none) :
    (f.latch b d).find a c = none := by
  simp only [Faults.find, List.find?_eq_none, Faults.latch, List.mem_map, forall_exists_index, and_imp] at h ⊢
  rintro _ x hx rfl
  split <;> exact h x hx

/-- With nothing granted FEED_OVER is raised at its onset, before all else that the scan raises (R120). -/
theorem validScan_told (h : s.settings.governor.budget < s.scanner.feed) (grants : s.gov.grants = []) (waits : s.gov.waits = [])
    (ten : 10 ≤ s.gov.feedOver + 1) (clear : s.gov.feedRaised = false) (new : s.faults.find none .feedOver = none)
    (room : s.faults.table.length < 32) : s.told (.faultRaised none .feedOver none 1 .note false) s.validScan := by
  obtain ⟨ungranted, events⟩ := weighed_ungranted grants waits
  obtain ⟨-, count, flag, settings, faults, clock⟩ := weighed_rest s
  have later := (validScan_books s).events
  generalize s.weighed = u at *
  rw [feedOver_onset (by rw [settings]; exact h) ungranted (by rw [count]; exact ten) (by rw [flag]; exact clear)] at later
  have entries : u.faults.find none .feedOver = none ∧ u.faults.table.length < 32 := by
    rw [faults]
    split
    · exact ⟨s.faults.latch_find_none none none .feedOver .senseReference new, (List.length_map _).trans_lt room⟩
    · exact ⟨new, room⟩
  exact raise_device_told (u := u.modGov _) rfl events clock entries.1 entries.2 later

/-- The entries of a condition without a source become LATCHED where it ended (R144). -/
theorem latchIf_table (f : Faults) (b : Bool) (c : FaultCode) : (if b then f.latch none c else f).table =
    f.table.map fun x => if x.source = none ∧ x.code = c ∧ b = true then { x with condition := .latched } else x := by
  cases b
  · simp
  · simp [Faults.latch, FaultEntry.hasKey_iff]

/-- A scan within the budget with no result kept latches the entries of the two conditions that it ends (R120, R127, R144). -/
theorem validScan_table (kept : s.keptResults = []) (h : s.scanner.feed ≤ s.settings.governor.budget) :
    s.validScan.faults.table = s.faults.table.map fun x =>
      if x.source = none ∧ (x.code = .senseReference ∧ s.scanner.refFault = true ∨ x.code = .feedOver ∧ s.gov.feedRaised = true)
      then { x with condition := .latched } else x := by
  obtain ⟨-, -, flag, settings, faults, -⟩ := weighed_rest s
  rw [validScan_eq, kept, List.foldl_nil, List.foldl_nil]
  generalize s.weighed = u at *
  rw [(feedOver_within (by rw [settings]; exact h)).2, latchIf_table, faults, latchIf_table, flag, List.map_map]
  refine List.map_congr_left fun x _ => ?_
  dsimp only [Function.comp_apply]
  by_cases reference : x.source = none ∧ x.code = .senseReference ∧ s.scanner.refFault = true
  · obtain ⟨source, code, set⟩ := reference
    simp [source, code, set]
  · rw [if_neg reference]
    refine if_congr ?_ rfl rfl
    rw [and_or_left, or_iff_right reference]

/-! ### The scan's end -/

/-- The scanner after the close of a scan that was judged. -/
theorem closeScan_scanner {valid refFault : Bool} {watts : Nat}
    (h : u.scanner = { s.scanDone.scanner with valid := valid, refFault := refFault, feedWatts := watts }) :
    (u.closeScan.scanner.converter = s.scanner.nextUp ∧ u.closeScan.scanner.active = false ∧ u.closeScan.scanner.results = [] ∧
      u.closeScan.scanner.ended = s.scanner.number ∧ u.closeScan.scanner.number = s.scanner.number) ∧
    u.closeScan.scanner.valid = valid ∧ u.closeScan.scanner.refFault = refFault ∧ u.closeScan.scanner.feedWatts = watts := by
  obtain ⟨v, w, q, closed, -⟩ := closeScan_eq (s := u) (by rw [h]; rfl)
  rw [closed, h]
  exact ⟨⟨rfl, rfl, rfl, rfl, rfl⟩, rfl, rfl, rfl⟩

/-- The close of a scan leaves the rest of the state. -/
theorem closeScan_rest (idle : u.scanner.converter = none) : u.closeScan.gov = u.gov ∧ u.closeScan.events = u.events ∧
    u.closeScan.faults = u.faults ∧ u.booksKept u.closeScan ∧ ∀ n, ∃ b, u.closeScan.slot n = { u.slot n with
      sense := { (u.slot n).sense with begun := b, stale := false, scanned := none } } := by
  obtain ⟨v, w, q, closed, at'⟩ := closeScan_eq idle
  rw [closed]
  exact ⟨rfl, rfl, rfl, ⟨rfl, rfl, rfl, rfl⟩, at'⟩

theorem scanDone_motorSum (s : State) : s.scanDone.motorSum = s.motorSum := motorSum_congr rfl fun _ => ⟨rfl, rfl⟩

/-- The judgement of a valid scan and its close (R105, R119, R120, R127, R130). -/
theorem endScan_valid (s : State) {count : Nat} (low : 1950 ≤ count) (high : count ≤ 2150) :
    s.endScan count = s.scanDone.validScan.closeScan := by
  rw [endScan_eq, if_pos (by simp [referenceValid, low, high])]

/-- The judgement of an invalid scan and its close (R126). -/
theorem endScan_invalid (s : State) {count : Nat} (out : count < 1950 ∨ 2150 < count) :
    s.endScan count = s.scanDone.invalidScan.closeScan := by
  rw [endScan_eq, if_neg (by simp [referenceValid]; omega)]

/-- With the flag set an invalid scan raises nothing (R127). -/
theorem invalidScan_again (set : s.scanner.refFault = true) :
    s.invalidScan.events = s.events ∧ s.invalidScan.faults = s.faults := by
  rw [invalidScan_eq, if_pos set]
  exact ⟨rfl, rfl⟩

/-- The first raise of SENSE_REFERENCE (R127). -/
theorem invalidScan_raised (clear : s.scanner.refFault = false) :
    s.invalidScan.faults = (s.faults.enter none .senseReference none s.clock).1 ∧
      (s.faults.table.length < 32 → s.faults.find none .senseReference = none →
        s.told (.faultRaised none .senseReference none 1 .note false) s.invalidScan) := by
  rw [invalidScan_eq, clear, if_neg Bool.false_ne_true]
  refine ⟨?_, fun room new => raise_device_told
    (u := { s with scanner := { s.scanner with valid := false, refFault := true } }) rfl rfl rfl new room (List.prefix_refl _)⟩
  rw [raise_device _ rfl, State.post_faults]

end

end Sys2Proof.Machine

namespace Sys2Proof.Machine

/-! ## SCAN_END (R123, R126, R127, R130) -/

section
variable {s : State}

/-- The figures of the governor after a valid scan (R105, R119, R120). -/
theorem endScan_governor {count : Nat} (low : 1950 ≤ count) (high : count ≤ 2150) :
    (s.endScan count).gov = s.scanDone.validScan.gov ∧ (s.endScan count).events = s.scanDone.validScan.events ∧
      (s.endScan count).faults = s.scanDone.validScan.faults := by
  obtain ⟨gov, events, faults, -, -⟩ := closeScan_rest (u := s.scanDone.validScan) (by rw [validScan_scanner]; rfl)
  rw [endScan_valid s low high]
  exact ⟨gov, events, faults⟩

/-- The measured draws after a valid scan (R130). -/
theorem endScan_draws {count : Nat} (low : 1950 ≤ count) (high : count ≤ 2150) (n : Fin 24) :
    ((s.endScan count).slot n).sense.amps = (lastResult s.keptResults n).elim (s.slot n).sense.amps (fun r => r.amps) ∧
      ((s.endScan count).slot n).sense.watts = (lastResult s.keptResults n).elim (s.slot n).sense.watts fun r => r.watts := by
  obtain ⟨-, -, -, -, slots⟩ := closeScan_rest (u := s.scanDone.validScan) (by rw [validScan_scanner]; rfl)
  obtain ⟨b, slot⟩ := slots n
  rw [endScan_valid s low high, slot]
  exact validScan_draws s.scanDone n

/-- The feed-over count and flag of a feed over the budget, as the grants stand after the reckoning (R119, R120). -/
theorem endScan_over {count : Nat} (low : 1950 ≤ count) (high : count ≤ 2150) (beyond : s.settings.governor.budget < s.scanner.feed) :
    ((s.endScan count).gov.feedOver = 0 ∧ (s.endScan count).gov.feedRaised = s.gov.feedRaised ∨
      (s.endScan count).gov.feedOver = min 10 (s.gov.feedOver + 1) ∧
        (s.endScan count).gov.feedRaised = (s.gov.feedRaised || decide (10 ≤ s.gov.feedOver + 1))) ∧
    (s.gov.grants = [] → s.gov.waits = [] →
      (s.endScan count).gov.feedOver = min 10 (s.gov.feedOver + 1) ∧
      (10 ≤ s.gov.feedOver + 1 → s.gov.feedRaised = false → (s.endScan count).gov.feedRaised = true ∧
        (s.faults.find none .feedOver = none → s.faults.table.length < 32 →
          s.told (.faultRaised none .feedOver none 1 .note false) (s.endScan count)))) ∧
    (s.gov.grants ≠ [] → s.gov.heat ≤ (s.settings.governor.budget : Int) - s.motorSum -
      strayOf s.scanner.feed (s.keptResults.map fun r => r.watts).sum → (s.endScan count).gov.feedOver = 0) := by
  obtain ⟨gov, events, -⟩ := endScan_governor (s := s) low high
  have motor := scanDone_motorSum s
  rw [gov]
  refine ⟨?_, fun grants waits => ?_, fun grants rose => ?_⟩
  · by_cases grants : s.scanDone.weighed.gov.grants = []
    · exact .inr (validScan_ungranted (s := s.scanDone) beyond grants).2
    · exact .inl (validScan_granted (s := s.scanDone) beyond grants).2
  · obtain ⟨-, counted, flag⟩ := validScan_ungranted (s := s.scanDone) beyond (weighed_ungranted (s := s.scanDone) grants waits).1
    refine ⟨counted, fun ten clear => ⟨?_, fun new room space => ?_⟩⟩
    · rw [flag]
      exact Bool.or_eq_true_iff.2 (.inr (decide_eq_true ten))
    · rw [events]
      exact validScan_told (s := s.scanDone) beyond grants waits ten clear new room space
  · exact (validScan_granted (s := s.scanDone) beyond (weighed_granted (s := s.scanDone) grants (by rw [motor]; exact rose))).2.1

/-- Settles O26: the command is the scan's end, judged by its count. -/
theorem referenceJudgesTheScan : Obligations.ReferenceJudgesTheScan := by
  intro s count running converting
  refine ⟨s.endScan count, by simp only [exec, execScanEnd, ifRunning_of running, if_pos converting], ?_⟩
  have judged : (1950 ≤ count ∧ count ≤ 2150) ∨ (count < 1950 ∨ 2150 < count) := by omega
  rcases judged with ⟨low, high⟩ | out
  · obtain ⟨⟨converter, active, results, ended, number⟩, valid, refFault, watts⟩ :=
      closeScan_scanner (validScan_scanner s.scanDone)
    obtain ⟨gov, -, faults⟩ := endScan_governor (s := s) low high
    have draws := endScan_draws (s := s) low high
    have beyond := endScan_over (s := s) low high
    rw [← endScan_valid s low high] at converter active results ended number valid refFault watts
    refine ⟨converter, active, results, ended, number, fun _ => ⟨valid, refFault, watts, draws, ?_, fun within => ?_, beyond,
      fun kept within => ?_⟩, fun out => by omega⟩
    · rw [gov]
      exact validScan_stray s.scanDone
    · rw [gov]
      exact (validScan_within (s := s.scanDone) within).2
    · rw [faults]
      exact validScan_table (s := s.scanDone) kept within
  · obtain ⟨scanner, slots, gov, books⟩ := invalidScan_rest s.scanDone
    obtain ⟨⟨converter, active, results, ended, number⟩, valid, refFault, watts⟩ :=
      closeScan_scanner (watts := s.scanner.feedWatts) scanner
    obtain ⟨closedGov, closedEvents, closedFaults, closedBooks, closedSlots⟩ := closeScan_rest (u := s.scanDone.invalidScan)
      (by rw [scanner]; rfl)
    rw [endScan_invalid s out]
    refine ⟨converter, active, results, ended, number, fun inside => by omega, fun _ => ⟨valid, refFault, watts,
      closedGov.trans gov, ⟨closedBooks.accounts.trans books.accounts, closedBooks.holds.trans books.holds,
        closedBooks.settlement.trans books.settlement, closedBooks.writes.trans books.writes⟩, fun n => ?_, fun set => ?_,
      fun clear => ?_⟩⟩
    · obtain ⟨b, slot⟩ := closedSlots n
      exact ⟨b, by rw [slot, slot_of_slots slots]; rfl⟩
    · obtain ⟨events, faults⟩ := invalidScan_again (s := s.scanDone) set
      exact ⟨closedEvents.trans events, closedFaults.trans faults⟩
    · obtain ⟨raised, told⟩ := invalidScan_raised (s := s.scanDone) clear
      refine ⟨closedFaults.trans raised, fun room new space => ?_⟩
      rw [closedEvents]
      exact told room new space

end

end Sys2Proof.Machine

namespace Sys2Proof.Machine

/-! ## The converter, its scan and its results (R122 to R125, R128, R129, R189) -/

section
variable {s : State}

/-! ### The converter's next conversion (R124) -/

/-- A converter at work goes on with its conversion. -/
theorem startNext_busy {x : Conversion} (busy : s.scanner.converter = some x) : s.startNext = s := by
  unfold State.startNext
  rw [busy]

/-- Beside the scanner and the slots' marks nothing changes. -/
theorem startNext_rest (s : State) : { s.startNext with scanner := s.scanner, slots := s.slots } = s := by
  cases idle : s.scanner.converter with
  | some x => rw [startNext_busy idle]
  | none =>
    obtain ⟨v, w, q, started, -⟩ := startNext_eq idle
    rw [started]

theorem startNext_port (s : State) (p : Port) : s.startNext.port p = s.port p := by
  have ports (u : State) : ({ u with scanner := s.scanner, slots := s.slots } : State).port p = u.port p := by cases p <;> rfl
  rw [← ports, startNext_rest]

/-- An idle converter takes the conversion that is next, off the list that it stood in. -/
theorem startNext_scanner (idle : s.scanner.converter = none) : s.startNext.scanner = { s.scanner with
    converter := s.scanner.nextUp, waiting := s.scanner.waiting.tail,
    toConvert := if s.scanner.waiting = [] then s.scanner.toConvert.tail else s.scanner.toConvert } := by
  unfold State.startNext Scanner.nextUp
  rw [idle]
  cases waiting : s.scanner.waiting with
  | cons x rest => rfl
  | nil =>
    cases left : s.scanner.toConvert with
    | nil =>
      show s.scanner = { s.scanner with converter := none, waiting := [], toConvert := [] }
      rw [← idle, ← waiting, ← left]
    | cons i rest =>
      dsimp only
      rw [if_pos rfl, List.tail_nil, ← waiting]
      cases slotOf i <;> rfl

/-- The slot whose conversion begins is marked so (R131). -/
theorem startNext_slot (idle : s.scanner.converter = none) (n : Fin 24) : s.startNext.slot n = { s.slot n with
    sense := { (s.slot n).sense with begun := (s.slot n).sense.begun || decide (s.scanner.nextUp = some (.scan n.val)) } } := by
  unfold State.startNext Scanner.nextUp
  rw [idle]
  cases s.scanner.waiting with
  | cons x rest => simp [State.modScanner, State.slot]
  | nil =>
    cases s.scanner.toConvert with
    | nil => simp
    | cons i rest =>
      dsimp only
      by_cases small : i < 24
      · rw [show slotOf i = some ⟨i, small⟩ from dif_pos small]
        refine (modSense_at _ _ n _).trans ?_
        by_cases here : i = n.val
        · subst here
          simp [State.modScanner, State.slot]
        · simp [State.modScanner, State.slot, Fin.ext_iff, here]
      · rw [show slotOf i = none from dif_neg small]
        have other : i ≠ n.val := fun e => small (e ▸ n.isLt)
        simp [State.modScanner, State.slot, other]

/-! ### A scan's start (R123) -/

/-- One change of each slot of a list. -/
theorem foldSlots (g : Slot → Slot) {l : List (Fin 24)} (nodup : l.Nodup) (s : State) :
    ∃ v, l.foldl (fun s n => s.modSlot n g) s = { s with slots := v } ∧
      ∀ n : Fin 24, v[n.val] = if n ∈ l then g (s.slot n) else s.slot n := by
  induction l generalizing s with
  | nil => exact ⟨s.slots, rfl, fun n => by simp [State.slot]⟩
  | cons m l ih =>
    obtain ⟨fresh, nodup⟩ := List.nodup_cons.1 nodup
    obtain ⟨v, fold, at'⟩ := ih nodup (s.modSlot m g)
    refine ⟨v, fold, fun n => ?_⟩
    rw [at', State.slot_modSlot]
    by_cases e : m = n
    · subst e
      simp [fresh]
    · simp [e, Ne.symm e]

/-- One change of every slot. -/
theorem overSlots_modSlot (g : Slot → Slot) (s : State) : ∃ v, overSlots (fun n s => s.modSlot n g) s = { s with slots := v } ∧
    ∀ n : Fin 24, v[n.val] = g (s.slot n) := by
  obtain ⟨v, fold, at'⟩ := foldSlots g (List.nodup_finRange 24) s
  exact ⟨v, fold, fun n => by rw [at', if_pos (List.mem_finRange n)]⟩

theorem markScan_eq (s : State) : ∃ v, s.markScan = { s with slots := v } ∧
    ∀ n : Fin 24, v[n.val] = { s.slot n with sense := (s.slot n).sense.inScan (s.slotCls n) } :=
  overSlots_modSlot (fun x => { x with sense := x.sense.inScan (x.cfg.map fun c => c.cls) }) s

/-- The scanner with a scan of these inputs begun, before the converter goes on. -/
def Scanner.begin (c : Scanner) (inputs : List Nat) : Scanner :=
  { c with active := true, toConvert := inputs, results := [], feed := 0, number := (c.number + 1) % 65536 }

theorem beginScan_eq (s : State) : ∃ v, s.beginScan = ({ s with slots := v, scanner := s.scanner.begin s.scanList } : State).startNext ∧
    ∀ n : Fin 24, v[n.val] = { s.slot n with sense := (s.slot n).sense.inScan (s.slotCls n) } := by
  obtain ⟨v, marked, marks⟩ := markScan_eq s
  refine ⟨v, ?_, marks⟩
  unfold State.beginScan
  rw [marked]
  rfl

end

/-- Settles O24: the marks and the list of a scan, then the converter's next conversion, if it is idle. -/
theorem scanStarts : Obligations.ScanStarts := by
  intro s running
  refine ⟨fun active => by simp only [exec, execScanStart, ifRunning_of running, if_pos active], fun idle list hl => ?_⟩
  obtain ⟨v, begun, marks⟩ := beginScan_eq s
  rw [show s.scanList = list from hl.symm] at begun
  obtain ⟨u, hu⟩ : ∃ u, u = ({ s with slots := v, scanner := s.scanner.begin list } : State) := ⟨_, rfl⟩
  have scanner : u.scanner = s.scanner.begin list := by rw [hu]
  have slot (n : Fin 24) : u.slot n = { s.slot n with sense := (s.slot n).sense.inScan (s.slotCls n) } := by
    rw [hu]
    exact marks n
  rw [← hu] at begun
  refine ⟨u.startNext, by rw [← begun]; simp [exec, execScanStart, ifRunning_of running, idle], fun free none => ?_,
    fun x busy => ?_, fun n => ?_, ?_⟩
  · rw [startNext_scanner (by rw [scanner]; exact free), scanner]
    show ({ s.scanner.begin list with
      converter := (s.scanner.begin list).nextUp, waiting := s.scanner.waiting.tail,
      toConvert := if s.scanner.waiting = [] then list.tail else list } : Scanner) = _
    rw [if_pos none, none]
    unfold Scanner.nextUp
    simp only [Scanner.begin, none]
    cases list <;> rfl
  · rw [startNext_busy (x := x) (by rw [scanner]; exact busy), scanner]
    rfl
  · cases free : s.scanner.converter with
    | none =>
      rw [startNext_slot (by rw [scanner]; exact free), startNext_scanner (by rw [scanner]; exact free), slot]
      simp [SlotSense.inScan]
    | some x =>
      rw [startNext_busy (x := x) (by rw [scanner]; exact free), slot]
      simp [SlotSense.inScan]
  · rw [hu]
    exact congrArg (fun t : State => { t with scanner := s.scanner, slots := s.slots }) (startNext_rest _)

/-! ### Results (R123 to R125, R128, R129, R189) -/

section
variable {s : State}

theorem calibration_eq (s : State) {i : Nat} (h : i < 25) : s.calibration i = s.settings.sense.inputs[i] := dif_pos h

/-- A result is held in the scanner `c`, and the converter goes on: what else the scanner holds stays (R123, R124). -/
theorem startNext_held {c : Scanner} (idle : c.converter = none) (waiting : c.waiting = s.scanner.waiting)
    (left : c.toConvert = s.scanner.toConvert) {t : State} (ht : t = ({ s with scanner := c } : State).startNext) :
    t.scanner.converter = s.scanner.nextUp ∧ t.scanner.results = c.results ∧ t.scanner.feed = c.feed ∧
      { t with scanner := s.scanner, slots := s.slots } = s := by
  subst ht
  rw [startNext_scanner (s := { s with scanner := c }) idle]
  refine ⟨?_, rfl, rfl, congrArg (fun t : State => { t with scanner := s.scanner, slots := s.slots })
    (startNext_rest { s with scanner := c })⟩
  show c.nextUp = _
  unfold Scanner.nextUp
  rw [waiting, left]

end

/-- Settles O25: the result is scaled by its input's calibration (R128, R129), and the converter goes on. -/
theorem resultIsScaled : Obligations.ResultIsScaled := by
  intro s count running
  refine ⟨fun n converting => ?_, fun converting => ?_⟩
  · have slot : n.val ≠ 24 := by omega
    obtain ⟨next, results, feed, rest⟩ := startNext_held (s := s) (t := (s.holdResult n count).startNext)
      (c := { s.scanner with
        converter := none, results := s.scanner.results ++ [⟨n, (s.scaled n.val count).1, (s.scaled n.val count).2⟩] }) rfl rfl rfl rfl
    refine ⟨_, by simp only [exec, execConversionResult, ifRunning_of running, converting, if_neg slot, slotOf_val], next,
      fun k hk i hi => ⟨results.trans ?_, feed, rest⟩⟩
    have amps : (s.scaled n.val count).1 = i := by
      rw [hi, hk, ← calibration_eq s]
      simp [State.scaled, ampsOf, ampsLimit, slot]
    rw [show (s.scaled n.val count).2 = wattsOf s.settings.sense.volts (s.scaled n.val count).1 from rfl, amps]
    rfl
  · obtain ⟨next, results, feed, rest⟩ := startNext_held (s := s) (t := (s.holdFeed count).startNext)
      (c := { s.scanner with converter := none, feed := (s.scaled 24 count).2 }) rfl rfl rfl rfl
    refine ⟨_, by simp only [exec, execConversionResult, ifRunning_of running, converting, if_true], next,
      fun k hk i hi => ⟨feed.trans ?_, results, rest⟩⟩
    have amps : (s.scaled 24 count).1 = i := by
      rw [hi, hk]
      rfl
    rw [show (s.scaled 24 count).2 = wattsOf s.settings.sense.volts (s.scaled 24 count).1 from rfl, amps]
    rfl

/-- Settles O27: the reply is the reading of the input asked for, by the kind of the input. -/
theorem onDemandResultIsAnswered : Obligations.OnDemandResultIsAnswered := by
  intro s count i p running converting
  have port (q : Port) : (s.answerSense p i count).startNext.port q = (s.answerSense p i count).port q := startNext_port _ q
  have scanner : (s.answerSense p i count).scanner = { s.scanner with converter := none } := by cases p <;> rfl
  refine ⟨_, s.senseReport i count, by simp only [exec, execOnDemandConversionResult, ifRunning_of running, converting],
    (port p).trans (by cases p <;> rfl), (port (otherPort p)).trans (by cases p <;> rfl), ?_, rfl, rfl, fun h k hk => ?_,
    fun h => ?_, fun h => if_pos h, rfl, rfl, rfl⟩
  · rw [startNext_scanner (by rw [scanner]), scanner]
    rfl
  · have amps : (s.scaled i count).1 = if count ≤ k.zero then 0
        else min (if i = 24 then 9999 else 999) ((count - k.zero) * k.scale / 1024) := by
      rw [hk, ← calibration_eq s h]
      rfl
    have calibrated : decide (i < 25) = true := decide_eq_true h
    refine ⟨?_, ?_, ?_⟩
    · simp only [State.senseReport, calibrated, if_true, calibration_eq s h, hk]
    · simp only [State.senseReport, calibrated, if_true, amps]
    · simp only [State.senseReport, calibrated, if_true, Option.map_some]
      rfl
  · have uncalibrated : decide (i < 25) = false := decide_eq_false (by omega)
    simp [State.senseReport, uncalibrated]

/-! ## SENSE_READ (R122, R124, R125) -/

section
variable {s : State} {p : Port}

/-- A SENSE_READ past the tests of every request. -/
theorem senseRead_taken (ready : s.readyFor p) {i : Nat} (h : i ≤ 31) : exec (.senseRead p (beBytes 1 i)) s = .next
    (if 26 < i then (s.countTaken p).answer p 0x58 .ok (.sense ((s.countTaken p).senseReport i 0))
      else (s.countTaken p).askConversion p i) := by
  refine congrArg _ ((take_ok ready (kindRefused_false (by decide) (by decide)) (body1_byte (by omega)) (fun writes =>
    absurd writes (by decide)) _).trans ?_)
  rw [if_neg (by omega)]

/-- The conversion taken next is one that waits for a port, so no slot is marked. -/
theorem startNext_asked (asked : s.scanner.waiting ≠ []) : { s.startNext with scanner := s.scanner } = s := by
  unfold State.startNext
  split
  · rfl
  · rfl
  · next waiting _ => exact absurd waiting asked
  · next waiting _ => exact absurd waiting asked

/-- A conversion asked for joins those that wait, and an idle converter takes the first of them (R124). -/
theorem askConversion_does (s : State) (p : Port) (i : Nat) :
    (s.askConversion p i).port p = { s.port p with activity := .sensing i } ∧
      (s.scanner.converter = none → s.scanner.waiting = [] →
        (s.askConversion p i).scanner = { s.scanner with converter := some (.onDemand p i) }) ∧
      (∀ x, s.scanner.converter = some x →
        (s.askConversion p i).scanner = { s.scanner with waiting := s.scanner.waiting ++ [(p, i)] }) ∧
      { s.askConversion p i with building := s.building, service := s.service, scanner := s.scanner } = s := by
  obtain ⟨u, hu⟩ : ∃ u, u = ((s.setActivity p (.sensing i)).modScanner fun c => { c with waiting := c.waiting ++ [(p, i)] }) := ⟨_, rfl⟩
  have scanner : u.scanner = { s.scanner with waiting := s.scanner.waiting ++ [(p, i)] } := by
    rw [hu]
    cases p <;> rfl
  have asked : u.scanner.waiting ≠ [] := by simp [scanner]
  rw [show s.askConversion p i = u.startNext from hu ▸ rfl]
  refine ⟨(startNext_port u p).trans ?_, fun idle none => ?_, fun x busy => ?_, ?_⟩
  · rw [hu]
    cases p <;> rfl
  · rw [startNext_scanner (by rw [scanner]; exact idle), if_neg asked, scanner]
    simp [Scanner.nextUp, none]
  · rw [startNext_busy (x := x) (by rw [scanner]; exact busy), scanner]
  · refine (congrArg (fun t : State => { t with building := s.building, service := s.service, scanner := s.scanner })
      (startNext_asked asked)).trans ?_
    rw [hu]
    cases p <;> rfl

end

/-- Settles O43: an input of the converter waits for a conversion, and one past them reads 0 at once. -/
theorem senseReadConverts : Obligations.SenseReadConverts := by
  intro s p i ready
  refine ⟨fun low => ?_, fun low high => ?_⟩
  · obtain ⟨port, idle, busy, rest⟩ := askConversion_does (s.countTaken p) p i
    have scanner : (s.countTaken p).scanner = s.scanner := countTaken_proj State.scanner (fun _ => rfl) s p
    rw [scanner] at idle busy rest
    rw [countTaken_port] at port
    refine ⟨_, (senseRead_taken ready (by omega)).trans (by rw [if_neg (by omega)]), port, idle, busy, ?_⟩
    refine (congrArg (fun t : State => { t with building := s.building, service := s.service }) rest).trans ?_
    cases p <;> rfl
  · refine ⟨s.senseReport i 0, (senseRead_taken ready high).trans ?_, rfl, rfl⟩
    rw [if_pos (by omega), answer_replied]
    cases p <;> rfl

/-! ## SENSE_SET (R131, R134) -/

section
variable {s : State} {p : Port}

/-- The sense configuration set and its write begun. -/
def State.sensed (s : State) (c : SenseCfg) : State := (s.modSettings fun x => { x with sense := c }).write [.sense c]

/-- What a SENSE_SET of the configuration `c` makes of state `s`, beside the slots' strike counters (R134, R189, R190). -/
structure State.calibratedBy (s : State) (p : Port) (c : SenseCfg) (t : State) : Prop where
  settings : t.settings = { s.settings with sense := c }
  writes : t.writes = s.writes ++ [[.sense c]]
  awaits : s.awaits p ⟨0x15, .ok, .empty⟩ t

/-- A SENSE_SET whose rule set the configuration and changed the slots alone waits for its write. -/
theorem finish_calibrated (s : State) (p : Port) (c : SenseCfg) (v : Vector Slot 24) {t : State}
    (ht : t = ({ (s.countTaken p).sensed c with slots := v } : State).ok.finish p 0x15 (s.countTaken p).writes.length) :
    s.calibratedBy p c t ∧ ∀ n : Fin 24, t.slot n = v[n.val] := by
  subst ht
  have settings : (s.countTaken p).settings = s.settings := countTaken_proj State.settings (fun _ => rfl) s p
  have written : ({ (s.countTaken p).sensed c with slots := v } : State).writes = s.writes ++ [[.sense c]] := by
    show (s.countTaken p).writes ++ _ = _
    rw [countTaken_writes]
  refine ⟨⟨?_, ?_, finish_awaits (x := ({ (s.countTaken p).sensed c with slots := v } : State).ok) (fun q => ?_) ?_⟩, fun n => ?_⟩
  · rw [finish_proj State.settings (fun _ => rfl)]
    show ({ (s.countTaken p).settings with sense := c } : Settings) = _
    rw [settings]
  · rw [finish_proj State.writes (fun _ => rfl)]
    exact written
  · cases q <;> rfl
  · show ({ (s.countTaken p).sensed c with slots := v } : State).writes.length ≠ _
    rw [written, countTaken_writes, List.length_append]
    simp
  · rw [finish_proj (fun u => u.slot n) (fun _ => rfl)]
    rfl

theorem sensed_slot (s : State) (p : Port) (c : SenseCfg) (n : Fin 24) : ((s.countTaken p).sensed c).slot n = s.slot n :=
  countTaken_proj (fun u => u.slot n) (fun _ => rfl) s p

/-! ### The input form -/

/-- The strike counters of the slot of an input, if it has one, returned to 0 (R131). -/
def State.restrikeInput (s : State) (i : Nat) : State :=
  match slotOf i with
  | some n => s.restrike n
  | none => s

theorem restrikeInput_eq (s : State) (i : Nat) : ∃ v, s.restrikeInput i = { s with slots := v } ∧ ∀ n : Fin 24, v[n.val] =
    if n.val = i then { s.slot n with sense := (s.slot n).sense.resetStrikes } else s.slot n := by
  unfold State.restrikeInput
  by_cases small : i < 24
  · rw [show slotOf i = some ⟨i, small⟩ from dif_pos small]
    refine ⟨(s.restrike ⟨i, small⟩).slots, rfl, fun n => (State.slot_modSlot s _ n _).trans ?_⟩
    by_cases e : n.val = i
    · have same : (⟨i, small⟩ : Fin 24) = n := Fin.ext e.symm
      rw [if_pos same, if_pos e, same]
    · rw [if_neg fun k => e (congrArg Fin.val k).symm, if_neg e]
  · rw [show slotOf i = none from dif_neg small]
    exact ⟨s.slots, rfl, fun n => by rw [if_neg (by omega)]; rfl⟩

theorem senseInputSet_ok {i : Nat} (h : i < 25) {k : Calibration} (zero : k.zero ≤ 4095)
    (free : ∀ n : Fin 24, n.val = i → (s.slot n).state.busy = false) : s.senseInputSet (i, k) =
      ((s.sensed { s.settings.sense with inputs := s.settings.sense.inputs.set i k }).restrikeInput i).ok := by
  have idle : (slotOf i).any (fun n => (s.slot n).state.busy) = false := by
    unfold slotOf
    split
    · next small => exact free ⟨i, small⟩ rfl
    · rfl
  unfold State.senseInputSet
  rw [dif_pos h, if_neg (by simpa using zero), idle, if_neg Bool.false_ne_true]
  rfl

theorem senseSetInput_does (ready : s.readyFor p) (turn : s.turn ≠ some (otherPort p)) {i : Nat} (h : i < 25) {k : Calibration}
    (zero : k.zero ≤ 4095) (scale : k.scale < 65536) (free : ∀ n : Fin 24, n.val = i → (s.slot n).state.busy = false) :
    ∃ t, exec (.senseSetInput p (0 :: beBytes 1 i ++ beBytes 2 k.zero ++ beBytes 2 k.scale)) s = .next t ∧
      s.calibratedBy p { s.settings.sense with inputs := s.settings.sense.inputs.set i k } t ∧
      ∀ n, t.slot n = if n.val = i then { s.slot n with sense := (s.slot n).sense.resetStrikes } else s.slot n := by
  have body : twoForms bodySenseInput body2 (0 :: beBytes 1 i ++ beBytes 2 k.zero ++ beBytes 2 k.scale) = .ok (.inl (i, k)) := by
    rw [beBytes_one, beBytes_two, beBytes_two]
    show Except.ok (Sum.inl (_, (⟨beNat [_, _], beNat [_, _]⟩ : Calibration))) = _
    rw [beNat_two (by omega), beNat_two scale, toNat_byte (by omega)]
  have settings : (s.countTaken p).settings = s.settings := countTaken_proj State.settings (fun _ => rfl) s p
  obtain ⟨v, struck, at'⟩ := restrikeInput_eq
    ((s.countTaken p).sensed { s.settings.sense with inputs := s.settings.sense.inputs.set i k }) i
  have set : (s.countTaken p).senseInputSet (i, k) =
      ({ (s.countTaken p).sensed { s.settings.sense with inputs := s.settings.sense.inputs.set i k } with slots := v } : State).ok := by
    rw [senseInputSet_ok h zero fun n e => by
      rw [countTaken_proj (fun u => (u.slot n).state.busy) (fun _ => rfl) s p]; exact free n e, settings, ← struck]
  obtain ⟨done, slots⟩ := finish_calibrated s p _ v rfl
  refine ⟨_, congrArg Host.Outcome.next ((request_ok ready (kindRefused_false (by decide) (by decide)) body (fun _ => turn) _).trans
    (congrArg (fun a : Answer => a.finish p 0x15 (s.countTaken p).writes.length) set)), done, fun n => ?_⟩
  rw [slots, at', sensed_slot]

/-! ### The general form -/

theorem senseGeneralSet_ok {v : Nat} (low : 100 ≤ v) (high : v ≤ 260) (free : ∀ n, (s.slot n).state.busy = false) :
    s.senseGeneralSet v = (overSlots (fun n s => s.restrike n) (s.sensed { s.settings.sense with volts := v })).ok := by
  unfold State.senseGeneralSet
  rw [if_neg (by simp [low, high]), if_neg (by simp [free])]
  rfl

theorem senseSetGeneral_does (ready : s.readyFor p) (turn : s.turn ≠ some (otherPort p)) {v : Nat} (low : 100 ≤ v) (high : v ≤ 260)
    (free : ∀ n, (s.slot n).state.busy = false) : ∃ t, exec (.senseSetGeneral p (1 :: beBytes 2 v)) s = .next t ∧
      s.calibratedBy p { s.settings.sense with volts := v } t ∧
      ∀ n, t.slot n = { s.slot n with sense := (s.slot n).sense.resetStrikes } := by
  have body : twoForms bodySenseInput body2 (1 :: beBytes 2 v) = .ok (.inr v) := by
    rw [beBytes_two]
    show Except.ok (Sum.inr (beNat [_, _])) = _
    rw [beNat_two (by omega)]
  have settings : (s.countTaken p).settings = s.settings := countTaken_proj State.settings (fun _ => rfl) s p
  obtain ⟨w, struck, at'⟩ := overSlots_modSlot (fun x => { x with sense := x.sense.resetStrikes })
    ((s.countTaken p).sensed { s.settings.sense with volts := v })
  have set : (s.countTaken p).senseGeneralSet v =
      ({ (s.countTaken p).sensed { s.settings.sense with volts := v } with slots := w } : State).ok := by
    rw [senseGeneralSet_ok low high fun n => by
      rw [countTaken_proj (fun u => (u.slot n).state.busy) (fun _ => rfl) s p]; exact free n, settings, ← struck]
    rfl
  obtain ⟨done, slots⟩ := finish_calibrated s p _ w rfl
  refine ⟨_, congrArg Host.Outcome.next ((request_ok ready (kindRefused_false (by decide) (by decide)) body (fun _ => turn) _).trans
    (congrArg (fun a : Answer => a.finish p 0x15 (s.countTaken p).writes.length) set)), done, fun n => ?_⟩
  rw [slots, at', sensed_slot]

end

/-- Settles O45. -/
theorem sensingIsSet : Obligations.SensingIsSet := by
  intro s p ready turn
  refine ⟨fun i h k zero scale free => ?_, fun v low high free => ?_⟩
  · obtain ⟨t, does, done, slots⟩ := senseSetInput_does ready turn h zero scale free
    exact ⟨t, _, does, rfl, done.settings, done.writes, done.awaits, slots⟩
  · obtain ⟨t, does, done, slots⟩ := senseSetGeneral_does ready turn low high free
    exact ⟨t, _, does, rfl, done.settings, done.writes, done.awaits, slots⟩

/-! ## The strike tests (R131 to R133) -/

section
variable {s : State} {n : Fin 24} {w : Nat} {x : SenseTest}

/-- Two changes of one slot's sensing are one. -/
theorem modSense_modSense (s : State) (n : Fin 24) (f g : SlotSense → SlotSense) :
    (s.modSense n f).modSense n g = s.modSense n fun y => g (f y) := by
  simp [State.modSense, State.modSlot, State.setSlot, State.slot, Vector.set_set]

theorem modSense_strike (s : State) (n : Fin 24) (x : SenseTest) (f : SlotSense → Strike) :
    ((s.modSense n fun y => y.setStrike x (f y)).slot n).sense.strike x = f (s.slot n).sense := by
  unfold State.modSense
  rw [State.slot_modSlot_same]
  cases x <;> rfl

theorem setStrike_setStrike (y : SlotSense) (x : SenseTest) (j k : Strike) : (y.setStrike x j).setStrike x k = y.setStrike x k := by
  cases x <;> rfl

theorem setStrike_strike (y : SlotSense) (x : SenseTest) (k : Strike) : (y.setStrike x k).strike x = k := by cases x <;> rfl

/-- What a change of a slot's sensing writes may be read off the slot first. -/
theorem modSense_congr {f g : SlotSense → SlotSense} (h : f (s.slot n).sense = g (s.slot n).sense) :
    s.modSense n f = s.modSense n g := by
  unfold State.modSense State.modSlot
  dsimp only
  rw [h]

/-- The strike condition of R132, of a slot that the scan has under class `c` (R123). -/
theorem strikeCondition_iff {c : Fin 4} (scanned : (s.slot n).sense.scanned = some c) :
    let m := (s.govClass c).motor
    let d := (s.govClass c).heat
    let y := s.slot n
    s.strikeCondition n x w = true ↔ s.settings.sense.inputs[n.val].scale ≠ 0 ∧ (match x with
      | .heaterOpen => y.heatGrant = true ∧ y.sense.armed = true ∧ 10 * w < 4 * d
      | .overcurrent => y.state ≠ .unconfigured ∧ 2 * w > 3 * (m + if y.heatGrant = true then d else 0)
      | .ungrantedDraw => y.motorActive = true ∧ y.heatGrant = false ∧ y.causes.lost = false ∧ 2 * w > 2 * m + d
      | .idleDraw => (y.state = .idle ∨ y.state = .reserved ∨ y.state = .armed ∨ y.state = .collect) ∧ w > 200) := by
  intro m d y
  have granted : (if y.heatGrant = true then m + d else m) = m + if y.heatGrant = true then d else 0 := by split <;> rfl
  unfold State.strikeCondition
  dsimp only
  rw [scanned, calibration_eq s (by omega : n.val < 25), Bool.and_eq_true, bne_iff_ne]
  refine and_congr_right' ?_
  cases x with
  | heaterOpen => rw [Bool.and_eq_true, Bool.and_eq_true, decide_eq_true_iff, and_assoc, Option.elim_some]
  | overcurrent => simp [← granted, y, m, d]
  | ungrantedDraw => simp [y, m, d, and_assoc]
  | idleDraw => simp [y, or_assoc]

/-- A strike short of the test's number, or with the raised flag set, counts alone (R133). -/
theorem strikeTest_counts (condition : s.strikeCondition n x w = true) {k : Strike} (hk : k = (s.slot n).sense.strike x)
    (short : k.count + 1 < x.strikes ∨ k.raised = true) :
    s.strikeTest n w x = s.modSense n fun y => y.setStrike x { k with count := min x.strikes (k.count + 1) } := by
  unfold State.strikeTest State.strikeTrue
  rw [if_pos condition]
  dsimp only
  rw [← hk, if_neg]
  rintro ⟨reached, clear⟩
  rcases short with few | raised
  · omega
  · simp [raised] at clear

/-- The strike that reaches the test's number with the raised flag clear raises the fault (R133). -/
theorem strikeTest_raises (condition : s.strikeCondition n x w = true) {k : Strike} (hk : k = (s.slot n).sense.strike x)
    (reached : x.strikes ≤ k.count + 1) (clear : k.raised = false) :
    s.strikeTest n w x = (s.modSense n fun y => y.setStrike x ⟨x.strikes, true⟩).raise (some n) x.fault := by
  have count : min x.strikes (k.count + 1) = x.strikes := Nat.min_eq_left reached
  unfold State.strikeTest State.strikeTrue
  rw [if_pos condition]
  dsimp only
  rw [← hk, count, if_pos ⟨rfl, by simp [clear]⟩]

/-- A condition found false with the raised flag clear returns the counter to 0 (R133). -/
theorem strikeTest_clears (condition : s.strikeCondition n x w = false) {k : Strike} (hk : k = (s.slot n).sense.strike x)
    (clear : k.raised = false) : s.strikeTest n w x = s.modSense n fun y => y.setStrike x ⟨0, false⟩ := by
  unfold State.strikeTest State.endCondition
  rw [condition, if_neg Bool.false_ne_true, modSense_strike]
  dsimp only
  rw [← hk, clear, if_neg Bool.false_ne_true]
  refine modSense_congr ?_
  rw [← hk, clear]

/-- A condition found false with the raised flag set clears it as well, and the entry is LATCHED (R133). -/
theorem strikeTest_ends (condition : s.strikeCondition n x w = false) (raised : ((s.slot n).sense.strike x).raised = true) :
    s.strikeTest n w x = (s.modSense n fun y => y.setStrike x ⟨0, false⟩).latch (some n) x.fault := by
  unfold State.strikeTest State.endCondition
  rw [condition, if_neg Bool.false_ne_true, modSense_strike]
  dsimp only
  rw [raised, if_pos rfl, modSense_modSense]
  simp only [setStrike_setStrike, setStrike_strike]

end

/-- Settles O28. -/
theorem strikesRaiseOncePerOnset : Obligations.StrikesRaiseOncePerOnset := by
  intro s n w x k
  refine ⟨fun c scanned m d hm hd => ?_, fun condition => ⟨strikeTest_counts condition rfl, strikeTest_raises condition rfl⟩,
    fun condition => ⟨strikeTest_clears condition rfl, strikeTest_ends condition⟩⟩
  subst hm hd
  exact strikeCondition_iff scanned

end Sys2Proof.Machine

namespace Sys2Proof.Machine

/-! ## The store that a start-up leaves (R204 to R209) -/

section
variable {d : Store} {i : StartInput}

/-! ### The records that fail their check (R204, R205) -/

theorem mem_failedIn {failed : List RecordId} {g : Nat} {r : RecordId} :
    r ∈ failedIn failed g ↔ r.group = g ∧ r.number < recordsInGroup g ∧ r ∈ failed := by
  obtain ⟨h, k⟩ := r
  unfold failedIn
  dsimp only
  split
  · next none =>
    rw [List.isEmpty_iff, List.filter_eq_nil_iff] at none
    refine ⟨fun m => absurd m List.not_mem_nil, fun ⟨group, _, listed⟩ => absurd group ?_⟩
    simpa using none _ listed
  · simp only [List.mem_map, List.mem_filter, List.mem_range, List.any_eq_true, beq_iff_eq]
    constructor
    · rintro ⟨l, ⟨size, ⟨h', k'⟩, ⟨listed, group⟩, number⟩, e⟩
      cases e
      cases group
      cases number
      exact ⟨rfl, size, listed⟩
    · rintro ⟨rfl, size, listed⟩
      exact ⟨k, ⟨size, ⟨h, k⟩, ⟨listed, rfl⟩, rfl⟩, rfl⟩

/-- Every group that has records is checked. -/
theorem checkGroups_of_size {g k : Nat} (size : k < recordsInGroup g) : g ∈ checkGroups := by
  revert size
  unfold recordsInGroup
  split <;> simp [checkGroups]

theorem mem_failures {failed : List RecordId} {r : RecordId} :
    r ∈ d.failures failed ↔ r.number < recordsInGroup r.group ∧ r ∈ failed ∧ d.written r = true := by
  simp only [Store.failures, List.mem_flatMap, List.mem_filter, mem_failedIn]
  constructor
  · rintro ⟨g, -, ⟨rfl, size, listed⟩, written⟩
    exact ⟨size, listed, written⟩
  · rintro ⟨size, listed, written⟩
    exact ⟨_, checkGroups_of_size size, ⟨rfl, size, listed⟩, written⟩

theorem mem_failedNumbers {bad : List RecordId} {g k : Nat} : k ∈ failedNumbers bad g ↔ ⟨g, k⟩ ∈ bad := by
  simp only [failedNumbers, List.mem_map, List.mem_filter, beq_iff_eq]
  constructor
  · rintro ⟨⟨_, _⟩, ⟨listed, rfl⟩, rfl⟩
    exact listed
  · exact fun listed => ⟨_, ⟨listed, rfl⟩, rfl⟩

theorem failures_nil (d : Store) : d.failures [] = [] :=
  List.eq_nil_iff_forall_not_mem.2 fun _ m => absurd (mem_failures.1 m).2.1 List.not_mem_nil

/-- A record's number is among the failed ones of its group where it was written and fails. -/
theorem contains_failed {g k : Nat} (size : k < recordsInGroup g) :
    (failedNumbers (d.failures i.failed) g).contains k = (recordFails i g k && d.written ⟨g, k⟩) := by
  rw [Bool.eq_iff_iff, Bool.and_eq_true, List.contains_iff_mem, mem_failedNumbers, mem_failures, recordFails, List.contains_iff_mem]
  exact and_iff_right size

/-- The failed records of a group of one record. -/
theorem failed_single {g : Nat} (size : recordsInGroup g = 1) :
    (!(failedNumbers (d.failures i.failed) g).isEmpty) = (recordFails i g 0 && d.written ⟨g, 0⟩) := by
  rw [← contains_failed (by omega), Bool.eq_iff_iff, Bool.not_eq_true', List.isEmpty_eq_false_iff_exists_mem, List.contains_iff_mem]
  constructor
  · rintro ⟨k, m⟩
    have small : k < recordsInGroup g := (mem_failures.1 (mem_failedNumbers.1 m)).1
    rwa [show k = 0 by omega] at m
  · exact fun m => ⟨0, m⟩

/-- The records of a group, repaired where they fail (R206). -/
theorem repairAt_checked {α : Type} {m g : Nat} (v : Vector (Option α) m) (f : Nat → Option α) (k : Fin m)
    (size : k.val < recordsInGroup g) (written : d.written ⟨g, k.val⟩ = v[k.val].isSome) :
    (repairAt v (failedNumbers (d.failures i.failed) g) f)[k.val] = checked i g k (f k) v[k.val] := by
  rw [repairAt_get, contains_failed size, written]
  rfl

/-- A record that is the only one of its group, repaired where it fails (R206). -/
theorem single_checked {α : Type} {g : Nat} {x y : Option α} (size : recordsInGroup g = 1) (written : d.written ⟨g, 0⟩ = x.isSome) :
    (if (!(failedNumbers (d.failures i.failed) g).isEmpty) = true then y else x) = checked i g 0 y x := by
  rw [failed_single size, written]
  rfl

/-! ### The settlement queue of a good header (R207) -/

theorem Settlement.lost_congr {m n : Nat} (h : m % 2 ^ 32 = n % 2 ^ 32) : Settlement.lost m = .lost n := by
  unfold Settlement.lost
  rw [h]

theorem fillRun_length (m : Nat) (run : List (Option Settlement)) : (fillRun m run).length = run.length := by
  induction run generalizing m with
  | nil => rfl
  | cons x run ih => cases x <;> simp [fillRun, ih]

/-- A place that stands keeps its record. -/
theorem fillRun_stands {m j : Nat} {run : List (Option Settlement)} {r : Settlement} (h : run[j]? = some (some r)) :
    (fillRun m run)[j]? = some r := by
  induction run generalizing m j with
  | nil => simp at h
  | cons x run ih =>
    cases j with
    | zero =>
      obtain rfl : x = some r := by simpa using h
      rfl
    | succ j =>
      have h : run[j]? = some (some r) := by simpa using h
      cases x <;> simpa [fillRun] using ih h

/-- A lost place takes the number after that of the record before it. -/
theorem fillRun_lost {m j : Nat} {run : List (Option Settlement)} {y : Settlement} (h : run[j + 1]? = some none)
    (before : (fillRun m run)[j]? = some y) : (fillRun m run)[j + 1]? = some (.lost (y.number + 1)) := by
  induction run generalizing m j with
  | nil => simp at h
  | cons x run ih =>
    have h : run[j]? = some none := by simpa using h
    cases j with
    | succ j => cases x <;> simpa [fillRun] using ih h (by simpa [fillRun] using before)
    | zero =>
      obtain ⟨rest, rfl⟩ : ∃ rest, run = none :: rest := by
        cases run with
        | nil => simp at h
        | cons z rest => exact ⟨rest, by simpa using h⟩
      cases x with
      | some r =>
        obtain rfl : r = y := by simpa [fillRun] using before
        rfl
      | none =>
        obtain rfl : Settlement.lost m = y := by simpa [fillRun] using before
        refine congrArg some (Settlement.lost_congr ?_)
        show (m + 1) % 2 ^ 32 = (m % 2 ^ 32 + 1) % 2 ^ 32
        omega

/-- A place of the run that a header names: it holds no record where it holds none in the store or fails its check. -/
theorem goodPlace_eq {k j : Nat} (hk : k = j % 64) {r : Option Settlement} (h : d.places[k]? = some r) :
    d.goodPlace (failedNumbers (d.failures i.failed) 2) j = if recordFails i 2 k then none else r := by
  subst hk
  have small : j % 64 < 64 := Nat.mod_lt _ (by decide)
  have place : d.places[j % 64] = r := by simpa [Vector.getElem?_eq_getElem small] using h
  have written : d.written ⟨2, j % 64⟩ = r.isSome := by
    rw [← place]
    exact dif_pos small
  unfold Store.goodPlace
  rw [contains_failed (g := 2) small, written]
  cases recordFails i 2 (j % 64) <;> cases r <;> simp [place]

/-- The queue that a good header names. -/
theorem rebuiltQueue_headed {h : Header} (hd : d.header = some h) (good : recordFails i 3 0 = false) :
    d.rebuiltQueue (d.failures i.failed) = d.headedQueue (failedNumbers (d.failures i.failed) 2) h := by
  have none : (failedNumbers (d.failures i.failed) 3).isEmpty = true := by
    rw [← Bool.not_eq_false', failed_single rfl, good, Bool.false_and]
  unfold Store.rebuiltQueue
  rw [hd]
  dsimp only
  rw [none, if_pos rfl]

/-- A place of the queue that a good header names. -/
theorem headedQueue_place (d : Store) (bad : List Nat) (h : Header) {j : Nat} (hj : j < h.count) :
    ((List.range h.count).map fun j => d.goodPlace bad (h.oldest + j))[j]? = some (d.goodPlace bad (h.oldest + j)) := by
  simp [hj]

/-! ### The accounts of the store -/

theorem Accounts.find_puts (a : Account) (ks : List Nat) (t : List (Nat × Account)) (k : Nat) :
    Accounts.find (ks.foldl (fun t i => Accounts.put t i a) t) k = if ks.contains k then some a else Accounts.find t k := by
  induction ks generalizing t with
  | nil => rfl
  | cons j ks ih =>
    rw [List.foldl_cons, ih, Accounts.find_put, List.contains_cons]
    by_cases e : j = k
    · subst e
      simp
    · have ne : (k == j) = false := by simpa using Ne.symm e
      rw [ne, Bool.false_or, if_neg e]

theorem Accounts.find_map (f : Nat → Account → Account) (t : List (Nat × Account)) (k : Nat) :
    Accounts.find (t.map fun e => (e.1, f e.1 e.2)) k = (Accounts.find t k).map (f k) := by
  induction t with
  | nil => rfl
  | cons e t ih =>
    obtain ⟨j, a⟩ := e
    simp only [List.map_cons, Accounts.find]
    split
    · next e => rw [e]; rfl
    · exact ih

theorem Accounts.find_none {t : List (Nat × Account)} {k : Nat} (h : k ∉ t.map fun e => e.1) : Accounts.find t k = none := by
  cases e : Accounts.find t k with
  | none => rfl
  | some a => exact absurd (List.mem_map.2 ⟨_, Accounts.find_mem e, rfl⟩) h

/-- An index listed once reads the same where the FREE records are not listed. -/
theorem Accounts.read_listed {t : List (Nat × Account)} (order : (t.map fun e => e.1).Pairwise (· < ·)) (k : Nat) :
    Accounts.read (t.filter fun e => decide (e.2 ≠ .free)) k = Accounts.read t k := by
  induction t with
  | nil => rfl
  | cons e t ih =>
    obtain ⟨j, a⟩ := e
    obtain ⟨above, order⟩ := List.pairwise_cons.1 order
    have rest := ih order
    unfold Accounts.read at *
    by_cases free : a = .free
    · subst free
      rw [List.filter_cons_of_neg (by simp), rest]
      by_cases e : j = k
      · subst e
        rw [Accounts.find_none fun m => Nat.lt_irrefl _ (above _ m), Accounts.find, if_pos rfl]
        rfl
      · rw [Accounts.find, if_neg e]
    · rw [List.filter_cons_of_pos (by simpa using free), Accounts.find, Accounts.find, apply_ite (Option.getD · _),
        apply_ite (Option.getD · _), rest]

/-! ### The holds judged (R208) -/

theorem droppedHolds_contains (d : Store) (n : Fin 24) :
    (d.droppedHolds.map fun n => n.val).contains n.val = d.holds[n.val].any (d.dropsHold n) := by
  rw [Bool.eq_iff_iff, List.contains_iff_mem, List.mem_map]
  unfold Store.droppedHolds
  constructor
  · rintro ⟨m, dropped, e⟩
    obtain rfl := Fin.ext e
    exact (List.mem_filter.1 dropped).2
  · exact fun dropped => ⟨n, List.mem_filter.2 ⟨List.mem_finRange n, dropped⟩, rfl⟩

theorem judged_hold (d : Store) (n : Fin 24) : d.judged.holds[n.val] = d.holds[n.val].filter fun h => !d.dropsHold n h := by
  unfold Store.judged
  dsimp only
  rw [repairAt_get, droppedHolds_contains]
  cases d.holds[n.val] with
  | none => rfl
  | some h =>
    rw [Option.any_some, Option.filter_some]
    cases d.dropsHold n h <;> rfl

/-- No hold that stays names a FREE account. -/
theorem judged_heldFor_free {k : Nat} (free : (Accounts.read d.accounts k).state = .free) : d.judged.heldFor k = 0 := by
  unfold Store.heldFor
  refine List.sum_eq_zero fun x m => ?_
  obtain ⟨n, -, rfl⟩ := List.mem_map.1 m
  rw [judged_hold]
  cases d.holds[n.val] with
  | none => rfl
  | some h =>
    rw [Option.filter_some]
    by_cases named : h.account = k
    · have dropped : d.dropsHold n h = true := by simp [Store.dropsHold, named, free]
      rw [dropped]
      rfl
    · split
      · exact if_neg named
      · rfl

/-- Each account's held amount is recomputed from the holds that stay (R64, R208). -/
theorem judged_read (d : Store) (k : Nat) :
    Accounts.read d.judged.accounts k = { Accounts.read d.accounts k with held := d.judged.heldFor k } := by
  have found : Accounts.find d.judged.accounts k =
      (Accounts.find d.accounts k).map fun a => { a with held := d.judged.heldFor k } :=
    Accounts.find_map (fun k a => { a with held := d.judged.heldFor k }) d.accounts k
  unfold Accounts.read
  rw [found]
  cases listed : Accounts.find d.accounts k with
  | some a => rfl
  | none =>
    have free : (Accounts.read d.accounts k).state = .free := by
      rw [Accounts.read, listed]
      rfl
    rw [judged_heldFor_free free]
    rfl

/-! ### The store as the check leaves it -/

/-- The store with its failed records repaired and its settlement queue rebuilt (R206, R207). -/
def Store.rebuilt (d : Store) (failed : List RecordId) : Store :=
  (d.repaired (d.failures failed)).withQueue (d.rebuiltQueue (d.failures failed))

/-- The store as a start-up leaves it: its holds judged, and the cause members of slots without a class erased (R208, R209). -/
def Store.started (d : Store) (failed : List RecordId) : Store :=
  { (d.rebuilt failed).judged with causes := Vector.ofFn fun n => (d.rebuilt failed).judged.startCauses n }

theorem started_classes (c : Fin 4) : (d.started i.failed).classes[c.val] = checked i 4 c (some .default) d.classes[c.val] :=
  repairAt_checked (g := 4) d.classes (fun _ => some .default) c c.isLt (by simp [Store.written, classOf_val])

theorem started_prices : (d.started i.failed).prices = checked i 5 0 (some .default) d.prices := single_checked rfl rfl
theorem started_governor : (d.started i.failed).governor = checked i 8 0 (some .default) d.governor := single_checked rfl rfl
theorem started_sense : (d.started i.failed).sense = checked i 9 0 (some .default) d.sense := single_checked rfl rfl
theorem started_room : (d.started i.failed).room = checked i 10 0 (some .default) d.room := single_checked rfl rfl

theorem started_slots_eq (d : Store) (failed : List RecordId) :
    (d.started failed).slots = repairAt d.slots (failedNumbers (d.failures failed) 6) fun _ => some none := rfl

theorem started_slots (n : Fin 24) : (d.started i.failed).slots[n.val] = checked i 6 n (some none) d.slots[n.val] :=
  repairAt_checked (g := 6) d.slots (fun _ => some none) n n.isLt (by simp [Store.written, slotOf_val])

/-- A slot configuration that passed its check names half B of terminal `x`. -/
theorem namesHalfB_iff (x : Fin 16) : d.namesHalfB (failedNumbers (d.failures i.failed) 6) x = true ↔
    ∃ n : Fin 24, ∃ c, (d.started i.failed).slots[n.val].getD none = some c ∧ c.term = x ∧ c.half = .b := by
  have passed (n : Fin 24) : (d.started i.failed).slots[n.val].getD none =
      if (failedNumbers (d.failures i.failed) 6).contains n.val then none else d.slots[n.val].getD none := by
    rw [started_slots_eq, repairAt_get]
    split <;> rfl
  unfold Store.namesHalfB
  rw [List.any_eq_true]
  refine exists_congr fun n => ?_
  rw [passed, Bool.and_eq_true, Bool.not_eq_true', and_iff_right (show n ∈ allSlots from List.mem_finRange n)]
  cases (failedNumbers (d.failures i.failed) 6).contains n.val with
  | true => simp
  | false =>
    rcases d.slots[n.val] with - | - | c
    · simp
    · simp
    · simp [Fin.ext_iff]

theorem started_terminals (x : Fin 16) : (d.started i.failed).terminals[x.val] = checked i 7 x
    (some (if d.namesHalfB (failedNumbers (d.failures i.failed) 6) x then .paired else .single)) d.terminals[x.val] :=
  repairAt_checked (g := 7) d.terminals
    (fun x => some (if d.namesHalfB (failedNumbers (d.failures i.failed) 6) x then TermMode.paired else TermMode.single)) x x.isLt
    (by simp [Store.written, terminalOf_val])

theorem started_causes (n : Fin 24) : (d.started i.failed).causes[n.val] = if (d.started i.failed).slots[n.val].getD none = none
    then none else checked i 11 n (some { Causes.empty with lockout := true }) d.causes[n.val] := by
  have causes : (d.rebuilt i.failed).judged.causes[n.val] = checked i 11 n (some { Causes.empty with lockout := true }) d.causes[n.val] :=
    repairAt_checked (g := 11) d.causes (fun _ => some { Causes.empty with lockout := true }) n n.isLt (by simp [Store.written, slotOf_val])
  have erased : (d.started i.failed).causes[n.val] = (d.rebuilt i.failed).judged.startCauses n := by simp [Store.started]
  have slots : (d.rebuilt i.failed).judged.slots = (d.started i.failed).slots := rfl
  rw [erased, Store.startCauses, causes, slots]
  cases (d.started i.failed).slots[n.val].getD none <;> simp

theorem rebuilt_hold (n : Fin 24) : (d.rebuilt i.failed).holds[n.val] = d.holds[n.val].filter fun _ => !recordFails i 1 n := by
  refine (repairAt_checked (g := 1) d.holds (fun _ => none) n n.isLt (by simp [Store.written, slotOf_val])).trans ?_
  unfold checked
  cases d.holds[n.val] <;> cases recordFails i 1 n <;> rfl

/-- An account record as the check leaves it, before its held amount is recomputed. -/
theorem rebuilt_account {k : Nat} (h : k < 512) :
    Accounts.read (d.rebuilt i.failed).accounts k = (checked i 0 k (some .suspect) (Accounts.find d.accounts k)).getD .free := by
  refine congrArg (Option.getD · Account.free) ((Accounts.find_puts .suspect _ d.accounts k).trans ?_)
  rw [contains_failed (g := 0) h]
  rfl

theorem started_holds_eq (d : Store) (failed : List RecordId) : (d.started failed).holds = (d.rebuilt failed).judged.holds := rfl

theorem started_accounts_eq (d : Store) (failed : List RecordId) :
    (d.started failed).accounts = (d.rebuilt failed).judged.accounts := rfl

theorem Store.heldFor_congr {d e : Store} (h : d.holds = e.holds) (k : Nat) : d.heldFor k = e.heldFor k := by
  unfold Store.heldFor
  rw [h]

theorem started_read (k : Nat) : Accounts.read (d.started i.failed).accounts k =
    { Accounts.read (d.rebuilt i.failed).accounts k with held := (d.started i.failed).heldFor k } := by
  rw [started_accounts_eq, judged_read, Store.heldFor_congr (started_holds_eq d i.failed)]

/-- A hold stays where it passed its check, its slot has a class and its account is neither FREE nor SUSPECT (R206, R208). -/
theorem started_hold (n : Fin 24) : (d.started i.failed).holds[n.val] = d.holds[n.val].filter fun h =>
    !recordFails i 1 n && ((d.started i.failed).slots[n.val].getD none).isSome &&
      decide ((Accounts.read (d.started i.failed).accounts h.account).state ≠ .free) &&
      decide ((Accounts.read (d.started i.failed).accounts h.account).state ≠ .suspect) := by
  refine (judged_hold (d.rebuilt i.failed) n).trans ?_
  rw [rebuilt_hold, Option.filter_filter]
  refine congrArg (Option.filter · _) (funext fun h => ?_)
  rw [started_read]
  unfold Store.dropsHold
  rw [show (d.rebuilt i.failed).slots = (d.started i.failed).slots from rfl]
  cases recordFails i 1 n <;> cases (d.started i.failed).slots[n.val].getD none <;>
    cases (Accounts.read (d.rebuilt i.failed).accounts h.account).state <;> rfl

theorem started_inOrder (h : d.inOrder) (failed : List RecordId) : (d.started failed).inOrder := by
  unfold Store.inOrder
  rw [started_accounts_eq]
  exact Store.judged_inOrder (Store.withQueue_inOrder (Store.repaired_inOrder h _) _)

/-- The places and the header as the rebuilt queue has them (R207). -/
theorem started_queue : (d.started i.failed).header.getD ⟨0, 0, 0⟩ = (d.rebuiltQueue (d.failures i.failed)).header ∧
    ∀ p : Fin 64, (d.started i.failed).places[p.val] = (d.rebuiltQueue (d.failures i.failed)).records[
      (p.val + 64 - (d.rebuiltQueue (d.failures i.failed)).oldest % 64) % 64]? := by
  refine ⟨?_, fun p => by simp [Store.started, Store.judged, Store.rebuilt, Store.withQueue]⟩
  show (if d.header.isSome then some (d.rebuiltQueue (d.failures i.failed)).header else none).getD ⟨0, 0, 0⟩ = _
  cases hd : d.header with
  | some h => rfl
  | none =>
    unfold Store.rebuiltQueue
    rw [hd]
    rfl

end

end Sys2Proof.Machine

namespace Sys2Proof.Machine

/-! ## Start-up (R135, R183, R196, R206 to R209) -/

section
variable {s : State} {i : StartInput}

/-! ### The check of the store (R205 to R208) -/

/-- Failed records change the fault table and the events alone (R157). -/
theorem suspects_eq (l : List RecordId) (s : State) :
    ∃ f e, l.foldl State.suspectRecord s = { s with faults := f, events := e } := by
  induction l generalizing s with
  | nil => exact ⟨s.faults, s.events, rfl⟩
  | cons r l ih =>
    obtain ⟨f, e, fold⟩ := ih (s.suspectRecord r)
    refine ⟨f, e, fold.trans ?_⟩
    unfold State.suspectRecord State.post
    dsimp only
    split <;> rfl

/-- The events of dropped holds, one after the other while there is room for them (R198, R208). -/
theorem posts_eq (l : List (Fin 24)) (s : State) : ∃ e, l.foldl (fun s n => s.post (.storeSuspect 1 n.val)) s = { s with events := e } ∧
    (s.events.queue.length + l.length ≤ 64 →
      e.queue.map (fun x => x.body) = s.events.queue.map (fun x => x.body) ++ l.map fun n => .storeSuspect 1 n) := by
  induction l generalizing s with
  | nil => exact ⟨s.events, rfl, fun _ => by simp⟩
  | cons n l ih =>
    obtain ⟨e, fold, told⟩ := ih (s.post (.storeSuspect 1 n.val))
    refine ⟨e, fold.trans (by unfold State.post; split <;> rfl), fun room => ?_⟩
    rw [List.length_cons] at room
    have queue : (s.post (.storeSuspect 1 n.val)).events.queue = s.events.queue ++ [⟨s.events.next, .storeSuspect 1 n.val, s.clock⟩] := by
      unfold State.post
      rw [if_pos (by omega)]
    rw [told (by rw [queue, List.length_append, List.length_singleton]; omega), queue]
    simp

/-- The state with the store `d` read back, whose check found the faults `f` and told the events `e` (R205 to R208). -/
def State.readBack (s : State) (d : Store) (q : SettlementQueue) (f : Faults) (e : EventQueue) : State :=
  { s with store := d, settings := d.settings, settlement := q, holds := d.holds,
           accounts := d.accounts.filter fun e => decide (e.2 ≠ .free), faults := f, events := e }

/-- The holds that the check drops are told; with no failed record nothing else is (R208). -/
theorem checkStore_eq (s : State) (failed : List RecordId) : ∃ f e, s.checkStore failed =
      s.readBack (s.store.rebuilt failed).judged (s.store.rebuiltQueue (s.store.failures failed)) f e ∧
    (failed = [] → f = s.faults ∧ (s.events = ⟨[], 0, 0⟩ →
      e.queue.map (fun x => x.body) = (s.store.rebuilt []).droppedHolds.map fun n => .storeSuspect 1 n)) := by
  obtain ⟨f, e, suspects⟩ := suspects_eq (s.store.failures failed) s
  obtain ⟨e', posts, told⟩ := posts_eq (s.store.rebuilt failed).droppedHolds { s with faults := f, events := e }
  refine ⟨f, e', ?_, ?_⟩
  · unfold State.checkStore
    dsimp only
    rw [suspects]
    exact congrArg (fun t : State => t.readBack (s.store.rebuilt failed).judged (s.store.rebuiltQueue (s.store.failures failed))
      t.faults t.events) posts
  · rintro rfl
    rw [failures_nil] at suspects
    have faults : f = s.faults := (congrArg State.faults suspects).symm
    have events : e = s.events := (congrArg State.events suspects).symm
    refine ⟨faults, fun none => ?_⟩
    have count : (s.store.rebuilt []).droppedHolds.length ≤ 24 :=
      (List.length_filter_le _ _).trans (Nat.le_of_eq List.length_finRange)
    rw [events, none] at told
    simpa using told (by simpa using Nat.le_trans count (by decide))

/-! ### The start states (R104, R209) -/

theorem startSlots_slot (w : State) (n : Fin 24) : w.startSlots.slot n = w.startSlot n := by
  simp [State.startSlots, State.modGov, State.slot]

/-- The motor allowance that the slots make is none of the governor's figures (R104). -/
theorem motorSum_gov (s : State) (g : Governor) : ({ s with gov := g } : State).motorSum = s.motorSum :=
  motorSum_congr rfl fun _ => ⟨rfl, rfl⟩

theorem startSlots_eq (w : State) : ∃ u m, u = ({ w with slots := Vector.ofFn fun n => w.startSlot n } : State) ∧ m = u.motorSum ∧
    w.startSlots = { u with gov := { Governor.start 0 with motor := m, heat := (u.settings.governor.budget : Int) - m - 0 } } :=
  ⟨_, _, rfl, rfl, rfl⟩

/-- The governor starts with the slots' motor allowance and no request (R104). -/
theorem startSlots_gov (w : State) :
    w.startSlots.gov = { Governor.start 0 with motor := w.startSlots.motorSum, heat := w.startSlots.heatBudget } := by
  obtain ⟨u, m, -, hm, stages⟩ := startSlots_eq w
  rw [stages, motorSum_gov, ← hm]
  rfl

/-- The states of R209. -/
theorem startState_eq (cfg : Option SlotCfg) (hold : Option Hold) (causes : Causes) : startState cfg hold causes =
    if cfg = none then .unconfigured else if hold.isSome then .recovering else if causes.isEmpty then .idle else .outOfService := by
  unfold startState
  cases cfg <;> rfl

/-- A start state runs a timer only in RECOVERING (R3). -/
theorem stateSeconds_start (s : State) (cfg : Option SlotCfg) (hold : Option Hold) (causes : Causes) (now : Nat) :
    (s.stateSeconds (startState cfg hold causes)).map (now + ·) =
      if startState cfg hold causes = .recovering then some (now + 30) else none := by
  unfold startState
  split
  · rfl
  · split
    · rfl
    · split <;> rfl

theorem startState_cases (cfg : Option SlotCfg) (hold : Option Hold) (causes : Causes) :
    startState cfg hold causes = .unconfigured ∨ startState cfg hold causes = .recovering ∨
      startState cfg hold causes = .idle ∨ startState cfg hold causes = .outOfService := by
  unfold startState
  split
  · exact .inl rfl
  · split
    · exact .inr (.inl rfl)
    · split
      · exact .inr (.inr (.inl rfl))
      · exact .inr (.inr (.inr rfl))

/-! ### A suspension of slots in their start states (R26, R117) -/

/-- Every slot is in a start state without a grant, and the governor has no request (R209). -/
structure State.fresh (s : State) : Prop where
  states : ∀ n, ∃ cfg hold causes, (s.slot n).state = startState cfg hold causes
  grants : ∀ n, (s.slot n).heatGrant = false
  gov : { s.gov with grants := [], waits := [], stamp := 0 } = s.gov

theorem overSlots_self {f : Fin 24 → State → State} (h : ∀ n, f n s = s) : overSlots f s = s := by
  unfold overSlots
  induction allSlots with
  | nil => rfl
  | cons n l ih => rw [List.foldl_cons, h, ih]

/-- A suspension neither halts nor ends anything at a slot in its start state (R26). -/
theorem suspendSlot_fresh (fresh : s.fresh) (n : Fin 24) : s.suspendSlot n = s := by
  obtain ⟨cfg, hold, causes, state⟩ := fresh.states n
  unfold State.suspendSlot
  rw [state]
  rcases startState_cases cfg hold causes with e | e | e | e <;> rw [e]

/-- A governor without requests has none to drop (R117). -/
theorem clearGovernor_fresh (fresh : s.fresh) : s.clearGovernor = s := by
  have cleared : s.modGov (fun g => { g with grants := [], waits := [], stamp := 0 }) = s :=
    congrArg (fun g => ({ s with gov := g } : State)) fresh.gov
  unfold State.clearGovernor
  rw [cleared]
  exact overSlots_self fun n => by rw [fresh.grants, if_neg Bool.false_ne_true]

/-! ### The room and the displays at a start-up (R52, R53, R179, R183) -/

/-- Two terminal tables with the same presences and the same modes. -/
def sameTerminals (a b : Vector Terminal 16) : Prop :=
  ∀ x : Fin 16, b[x.val].presence = a[x.val].presence ∧ b[x.val].mode = a[x.val].mode

theorem displayAll_eq (s : State) (d : Display) :
    ∃ v, s.displayAll d = { s with terminals := v } ∧ sameTerminals s.terminals v := by
  unfold State.displayAll
  induction allTerminals generalizing s with
  | nil => exact ⟨s.terminals, rfl, fun _ => ⟨rfl, rfl⟩⟩
  | cons t l ih =>
    obtain ⟨v, fold, same⟩ := ih (s.modTerminal t fun x => { x with halfA := x.halfA.setRoom d, halfB := x.halfB.setRoom d })
    refine ⟨v, fold, fun x => ?_⟩
    have kept : ((s.modTerminal t fun x => { x with halfA := x.halfA.setRoom d, halfB := x.halfB.setRoom d }).terminal x).presence =
          (s.terminal x).presence ∧
        ((s.modTerminal t fun x => { x with halfA := x.halfA.setRoom d, halfB := x.halfB.setRoom d }).terminal x).mode =
          (s.terminal x).mode := by
      rw [State.terminal_modTerminal]
      by_cases e : t = x
      · rw [if_pos e, e]
        exact ⟨rfl, rfl⟩
      · rw [if_neg e]
        exact ⟨rfl, rfl⟩
    exact ⟨(same x).1.trans kept.1, (same x).2.trans kept.2⟩

/-- State `t` is `s` with the room `r` and what is shown and told of it (R52, R176). -/
def State.shows (s : State) (r : Room) (t : State) : Prop :=
  ∃ v b e, t = { s with room := r, terminals := v, bus := b, events := e } ∧ sameTerminals s.terminals v ∧
    s.events.queue <+: e.queue

theorem post_eq (s : State) (x : EventBody) : ∃ e, s.post x = { s with events := e } ∧ s.events.queue <+: e.queue := by
  unfold State.post
  split
  · exact ⟨_, rfl, List.prefix_append _ _⟩
  · exact ⟨_, rfl, List.prefix_refl _⟩

theorem changeRoom_shows (s : State) (new : RoomState) (cause : RoomCause) :
    s.shows { s.room with state := new } (s.changeRoom new cause) := by
  obtain ⟨e, posted, told⟩ := post_eq { s with room := { s.room with state := new } }
    (.roomState s.room.state new s.settings.room.mode s.clock.isSet cause)
  unfold State.changeRoom State.roomDisplay
  dsimp only
  rw [posted]
  split
  · exact ⟨s.terminals, _, e, rfl, fun _ => ⟨rfl, rfl⟩, told⟩
  · next d _ =>
    split
    · exact ⟨s.terminals, s.bus, e, rfl, fun _ => ⟨rfl, rfl⟩, told⟩
    · obtain ⟨v, displays, same⟩ := displayAll_eq { s with room := { s.room with state := new }, events := e } d
      exact ⟨v, _, e, by rw [displays], same, told⟩

/-- An interlock active at a start-up suspends the room; no slot has anything to halt (R179, R183). -/
theorem suspend_fresh (fresh : s.fresh) (held : s.room.state ≠ .held) : ∃ r, s.shows r s.suspend ∧
    r.interlock = s.room.interlock ∧ r.state = .suspended := by
  obtain ⟨v, b, e, changed, same, told⟩ := changeRoom_shows s .suspended .interlockActive
  have fresh' (r : Room) : ({ s with room := r, terminals := v, bus := b, events := e } : State).fresh :=
    ⟨fresh.states, fresh.grants, fresh.gov⟩
  refine ⟨⟨.suspended, s.room.interlock, .running (s.elapsed + s.settings.room.limit * 60)⟩, ⟨v, b, e, ?_, same, told⟩, rfl, rfl⟩
  unfold State.suspend
  dsimp only
  rw [if_pos (by simpa using held), changed, clearGovernor_fresh (fresh' _)]
  exact overSlots_self fun n => suspendSlot_fresh (fresh' _) n

/-- The room takes its mode state, or is SUSPENDED with the interlock active, and every terminal is ABSENT in its stored mode (R33,
R183). -/
theorem startRoom_shows {w : State} (fresh : w.fresh) (interlock : Bool) : ∃ r v b e,
    w.startRoom interlock = { w with room := r, terminals := v, bus := b, events := e } ∧ r.interlock = interlock ∧
    r.state = (if interlock then .suspended else w.modeState) ∧
    (∀ x : Fin 16, v[x.val].presence = .absent ∧ v[x.val].mode = w.store.terminals[x.val].getD .single) ∧
    w.events.queue <+: e.queue := by
  obtain ⟨v, hv⟩ : ∃ v : Vector Terminal 16, v = Vector.ofFn fun t => .start ((w.store.terminals[t]).getD .single)
      (({ w with room := ⟨w.modeState, false, .idle⟩ } : State).startDisplay t .a)
      (({ w with room := ⟨w.modeState, false, .idle⟩ } : State).startDisplay t .b) := ⟨_, rfl⟩
  have terminals (x : Fin 16) : v[x.val].presence = .absent ∧ v[x.val].mode = w.store.terminals[x.val].getD .single := by
    rw [hv, Vector.getElem_ofFn]
    exact ⟨rfl, rfl⟩
  obtain ⟨e, posted, told⟩ := post_eq
    { w with room := ⟨w.modeState, false, .idle⟩, terminals := v, bus := .start w.modeState.display.isSome }
    (.roomState w.modeState w.modeState w.settings.room.mode false .startUp)
  unfold State.startRoom
  dsimp only
  rw [← hv, posted]
  cases interlock with
  | false => exact ⟨_, v, _, e, rfl, rfl, rfl, terminals, told⟩
  | true =>
    have held : w.modeState ≠ .held := by
      unfold State.modeState
      split
      · nofun
      · split <;> nofun
    obtain ⟨r, ⟨v', b, e', shown, same, told'⟩, on, state⟩ := suspend_fresh (s := { w with
      room := ⟨w.modeState, true, .idle⟩, terminals := v, bus := .start w.modeState.display.isSome, events := e })
      ⟨fresh.states, fresh.grants, fresh.gov⟩ held
    refine ⟨r, v', b, e', shown, on, state, fun x => ?_, told.trans told'⟩
    obtain ⟨presence, mode⟩ := same x
    exact ⟨presence.trans (terminals x).1, mode.trans (terminals x).2⟩

end

end Sys2Proof.Machine

namespace Sys2Proof.Machine

section
variable {d : Store} {s t u : State} {i : StartInput}

/-! ### The stages in a chain (R205 to R209) -/

/-- A fault table with the RESTORED_LOCKOUT entries of the store `d` (R157). -/
def State.lockedOut (s : State) (d : Store) (f : Faults) : Faults :=
  { f with table := f.table ++ (allSlots.filter fun n => (d.causes[n.val]).any fun c => c.lockout).map s.restoredLockout }

theorem eraseCauses_eq (s : State) (d : Store) (failed : List RecordId) (q : SettlementQueue) (f : Faults) (e : EventQueue) :
    (s.readBack (d.rebuilt failed).judged q f e).eraseCauses =
      s.readBack (d.started failed) q (s.lockedOut (d.started failed) f) e := rfl

/-- What the stages after the strap reading make of state `s` (R205 to R209). -/
structure State.stagesDone (s : State) (i : StartInput) (t : State) : Prop where
  eq : ∃ f e v g r x b, t = { s.readBack (s.store.started i.failed) (s.store.rebuiltQueue (s.store.failures i.failed)) f e with
    life := .running, slots := v, gov := g, room := r, terminals := x, bus := b }
  slots : ∀ n, t.slot n = t.startSlot n
  gov : t.gov = { Governor.start 0 with motor := t.motorSum, heat := t.heatBudget }
  room : t.room.interlock = i.interlock ∧ t.room.state = if i.interlock then .suspended else t.modeState
  terminals : ∀ x : Fin 16, (t.terminal x).presence = .absent ∧ (t.terminal x).mode = t.store.terminals[x.val].getD .single
  faults : i.failed = [] → t.faults = s.lockedOut (s.store.started i.failed) s.faults
  dropped : i.failed = [] → s.events = ⟨[], 0, 0⟩ →
    ((s.store.rebuilt []).droppedHolds.map fun n => EventBody.storeSuspect 1 n.val) <+: t.events.queue.map fun e => e.body

theorem startSlots_fresh (w : State) : w.startSlots.fresh := by
  refine ⟨fun n => ⟨w.store.slots[n.val].getD none, w.store.holds[n.val], (w.store.causes[n.val]).getD .empty, ?_⟩, fun n => ?_, rfl⟩
  · rw [startSlots_slot]
    rfl
  · rw [startSlots_slot]
    rfl

theorem startStages_done (s : State) (i : StartInput) : s.stagesDone i (s.startStages i) := by
  obtain ⟨f, e, checked, quiet⟩ := checkStore_eq s i.failed
  have erased := congrArg State.eraseCauses checked
  rw [eraseCauses_eq] at erased
  obtain ⟨w, hw⟩ : ∃ w, w = s.readBack (s.store.started i.failed) (s.store.rebuiltQueue (s.store.failures i.failed))
      (s.lockedOut (s.store.started i.failed) f) e := ⟨_, rfl⟩
  rw [← hw] at erased
  obtain ⟨r, x, b, e', shown, interlock, state, terminals, told⟩ := startRoom_shows (startSlots_fresh w) i.interlock
  have slot := startSlots_slot w
  have gov := startSlots_gov w
  obtain ⟨v, hv⟩ : ∃ v, v = w.startSlots.slots := ⟨_, rfl⟩
  obtain ⟨g, hg⟩ : ∃ g, g = w.startSlots.gov := ⟨_, rfl⟩
  have stages : w.startSlots = { w with slots := v, gov := g } := by
    rw [hv, hg]
    rfl
  rw [stages] at shown state terminals told slot gov
  have whole : s.startStages i = { w with
      life := .running, slots := v, gov := g, room := r, terminals := x, bus := b, events := e' } := by
    unfold State.startStages
    dsimp only
    rw [erased, stages, shown]
  rw [whole]
  refine ⟨⟨s.lockedOut (s.store.started i.failed) f, e', v, g, r, x, b, by rw [hw]; rfl⟩, slot, gov, ⟨interlock, state⟩, terminals,
    fun none => ?_, fun none empty => ?_⟩
  · rw [← (quiet none).1, hw]
    rfl
  · rw [← (quiet none).2 empty]
    have before : e.queue = w.events.queue := by
      rw [hw]
      rfl
    rw [before]
    exact told.map _

/-! ### What they leave, record by record -/

/-- The last reading of the strap taken, before the stages that follow. -/
def State.strapRead (u : State) (i : StartInput) : State :=
  { u with unit := strapAddress i.count, strapMarginal := strapIsMarginal i.count }

/-- What the stages leave in the records read back. -/
structure State.readsBack (t : State) (d : Store) : Prop where
  store : t.store = d
  settings : t.settings = d.settings
  hold : ∀ n, t.hold n = d.holds[n.val]
  account : ∀ k, t.account k = Accounts.read d.accounts k
  cfg : ∀ n, (t.slot n).cfg = d.slots[n.val].getD none
  causes : ∀ n, (t.slot n).causes = d.causes[n.val].getD .empty

theorem State.stagesDone.readsBack (h : s.stagesDone i t) (order : s.store.inOrder) : t.readsBack (s.store.started i.failed) := by
  obtain ⟨f, e, v, g, r, x, b, eq⟩ := h.eq
  have store : t.store = s.store.started i.failed := by
    rw [eq]
    rfl
  refine ⟨store, by rw [eq]; rfl, fun n => by rw [eq]; rfl, fun k => ?_, fun n => ?_, fun n => ?_⟩
  · rw [eq]
    exact Accounts.read_listed (started_inOrder order i.failed) k
  · rw [h.slots, ← store]
    rfl
  · rw [h.slots, ← store]
    rfl

/-- The queue of a header that passes (R207). -/
theorem rebuiltQueue_records {h : Header} (hd : d.header = some h) (good : recordFails i 3 0 = false) {q : SettlementQueue}
    (hq : q = d.rebuiltQueue (d.failures i.failed)) :
    q.oldest = h.oldest ∧ q.next = h.next ∧ q.records.length = h.count ∧
      ∀ j < h.count, ∀ k, k = (h.oldest + j) % 64 → ∀ r, d.places[k]? = some r →
        (∀ x, r = some x → recordFails i 2 k = false → q.records[j]? = some x) ∧
        (r = none ∨ recordFails i 2 k = true → ∀ y, 0 < j → q.records[j - 1]? = some y →
          q.records[j]? = some (.lost (y.number + 1))) := by
  rw [rebuiltQueue_headed hd good] at hq
  subst hq
  refine ⟨rfl, rfl, (fillRun_length _ _).trans (by simp), fun j hj k hk r place => ?_⟩
  have run := headedQueue_place d (failedNumbers (d.failures i.failed) 2) h hj
  rw [goodPlace_eq hk place] at run
  refine ⟨fun x hx passes => ?_, fun lost y above before => ?_⟩
  · rw [passes, hx] at run
    exact fillRun_stands run
  · obtain ⟨j, rfl⟩ : ∃ l, j = l + 1 := ⟨j - 1, by omega⟩
    refine fillRun_lost (run.trans (congrArg some ?_)) before
    rcases lost with none | fails
    · rw [none]
      split <;> rfl
    · rw [fails]
      rfl

/-- With no failed record the holds that are told as dropped are those that are gone (R208). -/
theorem droppedHolds_eq (none : i.failed = []) : (d.rebuilt []).droppedHolds =
    allSlots.filter fun n => d.holds[n.val].isSome && ((d.started i.failed).holds[n.val]).isNone := by
  rw [none]
  unfold Store.droppedHolds
  refine List.filter_congr fun n _ => ?_
  have before : (d.rebuilt []).holds[n.val] = d.holds[n.val] := by
    have passed := rebuilt_hold (d := d) (i := ⟨0, false, []⟩) n
    rw [passed]
    cases d.holds[n.val] <;> rfl
  rw [started_holds_eq, judged_hold, before]
  cases d.holds[n.val] with
  | none => rfl
  | some h =>
    rw [Option.any_some, Option.filter_some]
    cases (d.rebuilt []).dropsHold n h <;> rfl

theorem lockout_any (c : Option Causes) : c.any (fun c => c.lockout) = (c.getD .empty).lockout := by cases c <;> rfl

/-- The stages after the strap's last reading, as R206 to R209 say of them. -/
theorem State.stagesDone.startedFrom (done : (u.strapRead i).stagesDone i t) (order : u.store.inOrder) :
    u.startedFrom u.store i t := by
  obtain ⟨store, settings, hold, account, cfg, causes⟩ := done.readsBack order
  obtain ⟨f, e, v, g, r, x, b, eq⟩ := done.eq
  have settlement : t.settlement = u.store.rebuiltQueue (u.store.failures i.failed) := by
    rw [eq]
    rfl
  exact {
    strap := by
      rw [eq]
      exact ⟨rfl, rfl, rfl⟩
    classes := fun c => by rw [store]; exact started_classes c
    prices := by rw [store]; exact started_prices
    governor := by rw [store]; exact started_governor
    sense := by rw [store]; exact started_sense
    roomCfg := by rw [store]; exact started_room
    settings := by rw [settings, store]
    slots := fun n => ⟨by rw [store]; exact started_slots n, by rw [cfg, store]⟩
    terminals := fun x => by
      obtain ⟨presence, mode⟩ := done.terminals x
      refine ⟨presence, mode, ?_⟩
      rw [store]
      refine (started_terminals x).trans (congrArg (checked i 7 x · _) (congrArg some (if_congr ?_ rfl rfl)))
      simp only [cfg]
      exact namesHalfB_iff x
    causes := fun n => by
      rw [causes, store, cfg]
      exact ⟨rfl, started_causes n⟩
    accounts := fun k small => by
      rw [account, store]
      refine ⟨rfl, (started_read k).trans ?_⟩
      rw [rebuilt_account small]
      simp only [hold]
      rfl
    holds := by
      refine ⟨by rw [eq]; rfl, fun n => ?_⟩
      simp only [hold, cfg, account]
      exact started_hold n
    dropped := fun none empty => by
      have told := done.dropped none empty
      rw [droppedHolds_eq none] at told
      simp only [hold]
      rw [bind_pure_comp, List.map_eq_map, List.map_map]
      exact told
    queue := fun h header good => rebuiltQueue_records header good settlement
    storedQueue := by
      rw [store, settlement]
      exact started_queue
    start := fun n => by
      have hold' : t.hold n = t.store.holds[n.val] := by rw [hold, store]
      rw [hold', done.slots]
      exact ⟨startState_eq _ _ _, rfl, stateSeconds_start _ _ _ _ _, rfl, rfl⟩
    gov := done.gov
    room := done.room
    faults := fun none => by
      rw [done.faults none]
      simp only [causes, ← lockout_any]
      rfl
    rest := by
      rw [eq]
      rfl }

/-! ### The strap (R135) -/

/-- A reading is marginal within 32 of a boundary 512 × j, j from 1 to 7. -/
theorem strapIsMarginal_iff (count : Nat) :
    strapIsMarginal count = true ↔ ∃ j, 1 ≤ j ∧ j ≤ 7 ∧ 512 * j ≤ count + 32 ∧ count ≤ 512 * j + 32 := by
  have boundaries (j : Nat) : j ∈ [1, 2, 3, 4, 5, 6, 7] ↔ 1 ≤ j ∧ j ≤ 7 := by
    simp only [List.mem_cons, List.not_mem_nil, or_false]
    omega
  simp only [strapIsMarginal, strapBoundary, List.find?_isSome, decide_eq_true_eq, boundaries, and_assoc]

/-- A marginal reading before the fourth is followed by another. -/
theorem readStrap_again {k : Nat} (marginal : strapIsMarginal i.count = true) (more : k < 4) :
    s.readStrap k i = { s with life := .strap k } := by
  unfold State.readStrap
  rw [if_pos (by simp [marginal, more])]

/-- The reading that ends the strap's is followed by the stages of start-up. -/
theorem readStrap_last {k : Nat} (last : strapIsMarginal i.count = false ∨ 4 ≤ k) (order : s.store.inOrder) :
    s.startedFrom s.store i (s.readStrap k i) := by
  have read : s.readStrap k i = (s.strapRead i).startStages i := by
    unfold State.readStrap
    rw [if_neg]
    · rfl
    · rw [Bool.and_eq_true, decide_eq_true_eq]
      rintro ⟨marginal, more⟩
      rcases last with clear | done
      · rw [clear] at marginal
        cases marginal
      · omega
  rw [read]
  exact (startStages_done _ i).startedFrom order

/-- The store that START_UP finds: as it stands at power-on, with every change in progress done after a RESTART, and with as many
done as a free value says at the RESET pin (R196, R204; log 9). -/
def State.storeFound (s : State) : Store :=
  match s.life with
  | .waiting | .strap _ => s.store
  | .running => (s.writes.take (Config.writesDoneAtReset s.free)).foldl Store.applyAll s.store
  | .restartDue => s.writes.foldl Store.applyAll s.store

theorem storeFound_inOrder (order : s.store.inOrder) : s.storeFound.inOrder := by
  unfold State.storeFound
  split
  · exact order
  · exact order
  · exact Store.changes_inOrder _ order
  · exact Store.changes_inOrder _ order

/-- The state in which START_UP reads the strap a first time (R205, R209). -/
def State.startRead (s : State) : State :=
  { State.reset with
    unit := s.unit, strapMarginal := s.strapMarginal, store := s.storeFound, pending := s.pending,
    free := if s.life = .running then s.free + 1 else s.free }

theorem startUp_reads (s : State) (i : StartInput) : exec (.startUp i) s = .next (s.startRead.readStrap 1 i) := by
  unfold State.startRead State.storeFound
  refine congrArg Host.Outcome.next ?_
  cases life : s.life with
  | waiting => rfl
  | strap k => rfl
  | running => rfl
  | restartDue =>
    show (s.settleWrites s.writes.length).beginStart i = _
    unfold State.settleWrites
    rw [List.take_length]
    rfl

theorem strapReread_reads {k : Nat} (life : s.life = .strap k) (i : StartInput) :
    exec (.strapReread i) s = .next (s.readStrap (k + 1) i) := by
  simp only [exec, execStrapReread, life]

/-- STRAP_REREAD has no occasion where no reading is due (log 1). -/
theorem strapReread_none (life : ∀ k, s.life ≠ .strap k) (i : StartInput) : exec (.strapReread i) s = .next s := by
  refine congrArg Host.Outcome.next ?_
  split
  · next k h => exact absurd h (life k)
  all_goals rfl

end

/-- Settles O3: each command is a reading of the strap, and the last reading brings the stages of start-up. -/
theorem startUpGivesTheStartStates : Obligations.StartUpGivesTheStartStates := by
  intro s i order guard
  have marginal : strapIsMarginal i.count = true ↔ guard := strapIsMarginal_iff i.count
  have clear (h : ¬ guard) : strapIsMarginal i.count = false := Bool.eq_false_iff.2 fun k => h (marginal.1 k)
  refine ⟨fun d found u start => ?_, fun k life => ?_, fun life => strapReread_none life i⟩
  · obtain rfl : d = s.storeFound := found
    obtain rfl : u = s.startRead := start
    rw [startUp_reads]
    exact ⟨fun h => congrArg _ (readStrap_again (marginal.2 h) (by decide)),
      fun h => ⟨_, rfl, readStrap_last (.inl (clear h)) (storeFound_inOrder order)⟩⟩
  · rw [strapReread_reads life]
    exact ⟨fun h more => congrArg _ (readStrap_again (marginal.2 h) (by omega)),
      fun h => ⟨_, rfl, readStrap_last (h.imp clear fun more => by omega) order⟩⟩

end Sys2Proof.Machine

namespace Sys2Proof.Machine

/-! ## FAULT_CLEAR (R147 to R149, R151) -/

section
variable {s t : State} {n : Fin 24} {p : Port} {source : Option (Fin 24)} {code : FaultCode}

/-! ### The test of a slot's cause set (R148) -/

theorem lockoutHeld_iff : s.lockoutHeld n = true ↔ ∃ x ∈ s.faults.table, x.source = some n ∧ x.severity = .lockout := by
  simp [State.lockoutHeld]

theorem lockoutLoose_iff : s.lockoutLoose n = true ↔
    (s.slot n).causes.lockout = true ∧ ∀ x ∈ s.faults.table, x.source = some n → x.severity ≠ .lockout := by
  simp [State.lockoutLoose, State.lockoutHeld]

/-- An open LOCKOUT entry keeps the set as it is; without one FAULT_LOCKOUT is not in it afterwards (R148). -/
theorem causesAfter_eq (s : State) (n : Fin 24) : s.causesAfter n =
    if ∃ x ∈ s.faults.table, x.source = some n ∧ x.severity = .lockout then (s.slot n).causes
    else { (s.slot n).causes with lockout := false } := by
  simp only [← lockoutHeld_iff]
  unfold State.causesAfter State.lockoutLoose
  cases held : s.lockoutHeld n with
  | true => simp
  | false =>
    cases lockout : (s.slot n).causes.lockout with
    | true => rfl
    | false => simp [← lockout]

theorem causesAfter_loose (loose : s.lockoutLoose n = true) : s.causesAfter n = { (s.slot n).causes with lockout := false } := by
  unfold State.causesAfter
  rw [if_pos loose]
  rfl

theorem removeCause_faults (s : State) (n : Fin 24) (m : Cause) : (s.removeCause n m).faults = s.faults := by
  unfold State.removeCause
  split
  · rfl
  · have told : (((s.setCause n m false).writeCauses n m).postSlot n).faults = s.faults :=
      (State.post_faults _ _).trans (markCause_faults s n m false)
    dsimp only
    split
    · exact (enterIdle_faults _ n).trans told
    · exact told

/-- What the end of a taken FAULT_CLEAR makes of state `a` (R147, R148). -/
structure Cleared (source : Option (Fin 24)) (a s : State) : Prop where
  outside : s.outside = a.outside
  faults : s.faults = a.faults
  accounts : s.accounts = a.accounts
  holds : s.holds = a.holds
  causes : ∀ n, source = some n → (s.slot n).causes = a.causesAfter n
  written : ∀ n, source = some n → a.lockoutLoose n = true → a.writes.length < s.writes.length

theorem releaseLockout_cleared (s : State) (n : Fin 24) : Cleared (some n) s (s.releaseLockout n) := by
  have outside := ((Acts.refl s).releaseLockout n).outside
  unfold State.releaseLockout at outside ⊢
  by_cases loose : s.lockoutLoose n = true
  · rw [if_pos loose] at outside ⊢
    have left : Left n .lockout s (s.removeCause n .lockout) := removeCause_left nofun (lockoutLoose_iff.1 loose).1
    refine ⟨outside, removeCause_faults s n _, left.accounts, left.holds, ?_, ?_⟩
    · rintro _ ⟨⟩
      exact left.causes.trans (causesAfter_loose loose).symm
    · rintro _ ⟨⟩ -
      rw [left.writes]
      simp
  · rw [if_neg loose]
    refine ⟨rfl, rfl, rfl, rfl, ?_, ?_⟩
    · rintro _ ⟨⟩
      exact (if_neg loose).symm
    · rintro _ ⟨⟩ k
      exact absurd k loose

theorem lockoutLoose_post (s : State) (b : EventBody) (n : Fin 24) : (s.post b).lockoutLoose n = s.lockoutLoose n := by
  simp [State.lockoutLoose, State.lockoutHeld, State.slot]

theorem causesAfter_post (s : State) (b : EventBody) (n : Fin 24) : (s.post b).causesAfter n = s.causesAfter n := by
  simp [State.causesAfter, lockoutLoose_post, State.slot]

/-- An event told before the test changes nothing of it. -/
theorem Cleared.of_post {a : State} {b : EventBody} (h : Cleared source (a.post b) s) : Cleared source a s := by
  obtain ⟨outside, faults, accounts, holds, causes, written⟩ := h
  simp only [causesAfter_post, lockoutLoose_post, State.post_faults, State.post_accounts, State.post_holds,
    State.post_writes] at faults accounts holds causes written
  exact ⟨outside.trans ((Acts.refl a).post b).outside, faults, accounts, holds, causes, written⟩

theorem clearTaken_cleared (s : State) (p : Port) (source : Option (Fin 24)) (code : FaultCode) (e : Option FaultEntry) :
    Cleared source s (s.clearTaken p source code e).state := by
  cases source with
  | none => exact .of_post ⟨rfl, rfl, rfl, rfl, nofun, nofun⟩
  | some n => exact .of_post (releaseLockout_cleared _ n)

theorem clearTaken_status (s : State) (p : Port) (source : Option (Fin 24)) (code : FaultCode) (e : Option FaultEntry) :
    (s.clearTaken p source code e).status = .ok := by cases source <;> rfl

/-! ### The tests of FAULT_CLEAR, in their order (R147, R149) -/

theorem faultClear_missing (missing : s.faults.find source code = none)
    (held : ¬(p = .service ∧ source.any s.lockoutLoose = true)) : s.faultClear p source code = s.refuse .notFound := by
  unfold State.faultClear
  simp only [missing, if_neg held]

theorem faultClear_loose (missing : s.faults.find (some n) code = none) (loose : s.lockoutLoose n = true) :
    s.faultClear .service (some n) code = s.clearTaken .service (some n) code none := by
  unfold State.faultClear
  rw [missing]
  exact if_pos ⟨rfl, loose⟩

/-- The entry `e` of a key leaves the table for the ring, closed CLEARED by port `p` (R147, R151). -/
def State.closeEntry (s : State) (p : Port) (source : Option (Fin 24)) (code : FaultCode) (e : FaultEntry) : State :=
  { s with faults := (s.faults.remove source code).close e (.cleared p) s.clock }

section
variable {e : FaultEntry} (found : s.faults.find source code = some e)
include found

theorem faultClear_active (active : e.condition = .active) : s.faultClear p source code = s.refuse .stillActive := by
  unfold State.faultClear
  simp only [found, if_pos active]

theorem faultClear_forbidden (latched : e.condition = .latched) (lockout : e.severity = .lockout) :
    s.faultClear .building source code = s.refuse .notPermitted := by
  unfold State.faultClear
  simp [found, latched, lockout]

theorem faultClear_closes (latched : e.condition = .latched) (allowed : e.severity ≠ .lockout ∨ p = .service) :
    s.faultClear p source code = (s.closeEntry p source code e).clearTaken p source code (some e) := by
  have permitted : ¬(e.severity = .lockout ∧ p = .building) := by
    rintro ⟨lockout, rfl⟩
    exact allowed.elim (absurd lockout) nofun
  unfold State.faultClear
  simp only [found, latched, if_neg permitted]
  rfl

end

theorem remove_table (f : Faults) (source : Option (Fin 24)) (code : FaultCode) :
    (f.remove source code).table = f.table.filter (fun x => ¬(x.source = source ∧ x.code = code)) :=
  List.filter_congr fun x _ => by
    rw [Bool.eq_iff_iff]
    simp [FaultEntry.hasKey]

/-! ### The request and its answer (R188 to R190) -/

theorem sourceOf_sourceValue (source : Option (Fin 24)) : sourceOf (sourceValue source) = some source := by
  cases source with
  | none => rfl
  | some n =>
    have slot : sourceValue (some n) ≠ 0xFF := (n.isLt.trans (by decide)).ne
    rw [sourceOf, if_neg slot]
    exact congrArg _ (slotOf_val n)

theorem sourceValue_lt (source : Option (Fin 24)) : sourceValue source < 256 := by
  cases source with
  | none => decide
  | some n => exact n.isLt.trans (by decide)

theorem faultCodeOf_value (code : FaultCode) : faultCodeOf code.value = some code := by cases code <;> rfl

theorem FaultCode.value_lt (code : FaultCode) : code.value < 256 := by cases code <;> decide

theorem faults_countTaken (s : State) (p : Port) : (s.countTaken p).faults = s.faults :=
  countTaken_proj State.faults (fun _ => rfl) s p

theorem lockoutLoose_countTaken (s : State) (p : Port) : (s.countTaken p).lockoutLoose = s.lockoutLoose :=
  countTaken_proj State.lockoutLoose (fun _ => rfl) s p

section
variable (ready : s.readyFor p) (turn : s.turn ≠ some (otherPort p))
include ready turn

theorem faultClear_answers : exec (.faultClear p (beBytes 1 (sourceValue source) ++ beBytes 1 code.value)) s =
    .next (((s.countTaken p).faultClear p source code).finish p 0x3A (s.countTaken p).writes.length) := by
  refine congrArg _ ((request_ok ready (kindRefused_false (by decide) (by decide))
    (body11_bytes (sourceValue_lt source) code.value_lt) (fun _ => turn) _).trans ?_)
  rw [sourceOf_sourceValue, faultCodeOf_value]

theorem faultClear_refused {st : Status} (refused : (s.countTaken p).faultClear p source code = (s.countTaken p).refuse st) :
    exec (.faultClear p (beBytes 1 (sourceValue source) ++ beBytes 1 code.value)) s =
      .next (s.replied p ⟨0x3A, st, .empty⟩) := by
  rw [faultClear_answers ready turn, refused]
  exact congrArg _ (finish_replied s p 0x3A st .empty)

end

/-- The reply is built at once, or waits for the changes that the answer began (R189, R190). -/
theorem finish_replies {x : Answer} {k w : Nat} (h : ∀ q, x.state.port q = (s.countTaken p).port q) :
    ((x.finish p k w).port p).activity = .built ⟨k, x.status, x.body⟩ ∨ s.awaits p ⟨k, x.status, x.body⟩ (x.finish p k w) := by
  by_cases hw : x.state.writes.length = w
  · exact .inl (congrArg PortUnit.activity (finish_answered h hw))
  · exact .inr (finish_awaits h hw)

/-- What a FAULT_CLEAR taken at port `p` in state `s` leaves, where `a` is the state with the entry, if any, out of the table. -/
structure ClearAnswered (p : Port) (source : Option (Fin 24)) (s a t : State) : Prop where
  faults : t.faults = a.faults
  accounts : t.accounts = a.accounts
  holds : t.holds = a.holds
  causes : ∀ n, source = some n → (t.slot n).causes = a.causesAfter n
  reply : ∃ r, (r : Reply).kind = 0x3A ∧ r.status = .ok ∧ ((t.port p).activity = .built r ∨ s.awaits p r t) ∧
    ∀ n, source = some n → a.lockoutLoose n = true → s.awaits p r t

theorem clearTaken_answered (a : State) (code : FaultCode) (e : Option FaultEntry)
    (outside : a.outside = (s.countTaken p).outside) (writes : a.writes = (s.countTaken p).writes) :
    ClearAnswered p source s a ((a.clearTaken p source code e).finish p 0x3A (s.countTaken p).writes.length) := by
  have cleared := clearTaken_cleared a p source code e
  have ok := clearTaken_status a p source code e
  generalize a.clearTaken p source code e = x at *
  have ports := port_of_outside (cleared.outside.trans outside)
  have kept {α : Type} (f : State → α) (hf : ∀ u : State, f u = f u.inside) :=
    finish_proj f hf x p 0x3A (s.countTaken p).writes.length
  exact {
    faults := (kept State.faults fun _ => rfl).trans cleared.faults
    accounts := (kept State.accounts fun _ => rfl).trans cleared.accounts
    holds := (kept State.holds fun _ => rfl).trans cleared.holds
    causes := fun n hn => (kept (fun u => (u.slot n).causes) fun _ => rfl).trans (cleared.causes n hn)
    reply := ⟨⟨0x3A, x.status, x.body⟩, rfl, ok, finish_replies ports, fun n hn loose =>
      finish_awaits ports (writes ▸ (cleared.written n hn loose).ne')⟩ }

/-- Only what stands inside the state before the test matters. -/
theorem ClearAnswered.of_inside {a b : State} (h : ClearAnswered p source s a t) (same : a.inside = b.inside) :
    ClearAnswered p source s b t := by
  have agree {α : Type} (f : State → α) (hf : ∀ u : State, f u = f u.inside) : f a = f b := by rw [hf, same, ← hf]
  have causes := agree State.causesAfter fun _ => rfl
  have loose := agree State.lockoutLoose fun _ => rfl
  exact ⟨h.faults.trans (agree State.faults fun _ => rfl), h.accounts.trans (agree State.accounts fun _ => rfl),
    h.holds.trans (agree State.holds fun _ => rfl), causes ▸ h.causes, loose ▸ h.reply⟩

section
variable (ready : s.readyFor p) (turn : s.turn ≠ some (otherPort p))
include ready turn

theorem faultClear_notFound (missing : s.faults.find source code = none)
    (held : ¬(p = .service ∧ source.any s.lockoutLoose = true)) :
    exec (.faultClear p (beBytes 1 (sourceValue source) ++ beBytes 1 code.value)) s =
      .next (s.replied p ⟨0x3A, .notFound, .empty⟩) :=
  faultClear_refused ready turn (faultClear_missing ((faults_countTaken s p).symm ▸ missing)
    ((lockoutLoose_countTaken s p).symm ▸ held))

/-- The entry of the key goes into the ring, and the slot's set is tested without it (R147, R148, R151). -/
theorem faultClear_taken {e : FaultEntry} (found : s.faults.find source code = some e)
    (latched : e.condition = .latched) (allowed : e.severity ≠ .lockout ∨ p = .service) :
    ∃ t, exec (.faultClear p (beBytes 1 (sourceValue source) ++ beBytes 1 code.value)) s = .next t ∧
      ClearAnswered p source s (s.closeEntry p source code e) t := by
  rw [faultClear_answers ready turn, faultClear_closes ((faults_countTaken s p).symm ▸ found) latched allowed]
  exact ⟨_, rfl, (clearTaken_answered ((s.countTaken p).closeEntry p source code e) code (some e) rfl rfl).of_inside
    (congrArg (fun u : State => u.closeEntry p source code e) (countTaken_inside s p))⟩

/-- FAULT_LOCKOUT that no entry holds leaves its set at the service port's request, with no entry to close (R149). -/
theorem faultClear_released (service : p = .service) (missing : s.faults.find (some n) code = none)
    (loose : s.lockoutLoose n = true) :
    ∃ t, exec (.faultClear p (beBytes 1 (sourceValue (some n)) ++ beBytes 1 code.value)) s = .next t ∧
      ClearAnswered p (some n) s s t := by
  subst service
  rw [faultClear_answers ready turn, faultClear_loose ((faults_countTaken s _).symm ▸ missing)
    ((lockoutLoose_countTaken s _).symm ▸ loose)]
  exact ⟨_, rfl, (clearTaken_answered _ code none rfl rfl).of_inside (countTaken_inside s _)⟩

end

end

/-- Settles O53, by the tests of FAULT_CLEAR in their order and what the end of a taken one leaves. -/
theorem faultsAreCleared : Obligations.FaultsAreCleared := by
  intro s p source code ready turn c
  have counted := faults_countTaken s p
  refine ⟨fun missing low => faultClear_notFound ready turn missing ?_, ?_, fun e found =>
    ⟨fun active => ?_, fun latched lockout building => ?_, fun latched allowed => ?_⟩⟩
  · rintro ⟨rfl, held⟩
    obtain rfl : source = none := low.resolve_left nofun
    cases held
  · rintro missing service n rfl
    split
    · next free =>
      have loose := lockoutLoose_iff.2 free
      obtain ⟨t, run, answered⟩ := faultClear_released ready turn service missing loose
      obtain ⟨r, kind, ok, -, waits⟩ := answered.reply
      exact ⟨t, run, (answered.causes n rfl).trans (causesAfter_loose loose), answered.faults, r, kind, ok,
        waits n rfl loose⟩
    · next held => exact faultClear_notFound ready turn missing fun k => held (lockoutLoose_iff.1 k.2)
  · exact faultClear_refused ready turn (faultClear_active (counted.symm ▸ found) active)
  · subst building
    exact faultClear_refused ready turn (faultClear_forbidden (counted.symm ▸ found) latched lockout)
  · obtain ⟨t, run, answered⟩ := faultClear_taken ready turn found latched allowed
    obtain ⟨r, kind, ok, replied, -⟩ := answered.reply
    have faults := answered.faults
    refine ⟨t, run, ?_, ?_, ?_, answered.accounts, answered.holds, ⟨r, kind, ok, replied⟩, fun n hn => ?_⟩
    · rw [faults]
      exact remove_table s.faults source code
    · rw [faults]
      rfl
    · rw [faults]
      rfl
    · rw [answered.causes n hn, causesAfter_eq, faults]
      rfl

end Sys2Proof.Machine

namespace Sys2Proof.Machine

/-! ## The expiries of the waitlist (R161, R163) -/

section
variable {a s t : State} {n : Fin 24}

/-- An event told stays told through operations that only append to the queue (R198). -/
theorem State.told.trans {e : EventBody} (h : s.told e t) {u : State} (later : t.events.queue <+: u.events.queue) :
    s.told e u := fun space => (h space).trans later

/-! ### An entry out of its queue (R161) -/

theorem entryExpired_aside (s : State) (c : Fin 4) (q : List WaitEntry) (b : EventBody) :
    ({ (s.setQueue c q).post b with queues := s.queues, events := s.events } : State) = s := by
  unfold State.post
  split <;> rfl

/-- An entry whose lifetime has run out is taken from its position, and EXPIRED tells it. -/
theorem execWaitlistEntryExpiry_due {c : Fin 4} {k : Nat} {e : WaitEntry} (running : s.life = .running)
    (entry : (s.queue c)[k]? = some e) (due : e.lifetime = 0) :
    exec (.waitlistEntryExpiry c (k + 1)) s = .next ((s.setQueue c ((s.queue c).take k ++ (s.queue c).drop (k + 1))).post
      (.entryExpired e.card c (k + 1))) := by
  simp [exec, execWaitlistEntryExpiry, ifRunning_of running, entry, due, List.eraseIdx_eq_take_drop_succ]

/-! ### A slot handed on (R163) -/

/-- The two ends of a hand-on: the slot enters IDLE, which a waiter of its class queue excludes, or its reservation passes to
the head entry. -/
theorem handOn_cases (s : State) (n : Fin 24) :
    ((∀ c, s.slotCls n = some c → s.queue c = []) ∧ s.handOn n = (s.dropReservation n).enterIdle n) ∨
      ∃ c e rest, s.slotCls n = some c ∧ s.queue c = e :: rest ∧ s.handOn n = (s.dropReservation n).reserve n c e rest := by
  have cls : (s.dropReservation n).slotCls n = s.slotCls n := by
    rw [State.slotCls, State.dropReservation, State.slot_modSlot_same]; rfl
  have queue (c : Fin 4) : (s.dropReservation n).queue c = s.queue c := rfl
  unfold State.handOn
  dsimp only
  rw [cls]
  split
  · next unset => exact .inl ⟨fun c own => absurd (unset.symm.trans own) nofun, rfl⟩
  · next c own =>
    rw [queue]
    split
    · next empty => exact .inl ⟨fun d own' => Option.some.inj (own.symm.trans own') ▸ empty, rfl⟩
    · next e rest head => exact .inr ⟨c, e, rest, own, head, rfl⟩

theorem Bare.handOn (h : Bare a s) (n : Fin 24) : Bare a (s.handOn n) := by
  rcases handOn_cases s n with ⟨-, e⟩ | ⟨c, x, rest, -, -, e⟩ <;> rw [e]
  · exact (h.dropReservation n).enterIdle n
  · exact (h.dropReservation n).reserve n c x rest

theorem Beside.reserve (h : Beside n a s) (c : Fin 4) (e : WaitEntry) (q : List WaitEntry) :
    Beside n a (s.reserve n c e q) := by
  have k := (h.quiet ((Quiet.refl s).setQueue c q)).modSlot fun x => { x with
    reservation := some ⟨e.card, e.account, e.joined, (s.setQueue c q).settings.room.window * 60⟩ }
  unfold State.reserve
  dsimp only
  generalize (s.setQueue c q).modSlot n (fun x => { x with
    reservation := some ⟨e.card, e.account, e.joined, (s.setQueue c q).settings.room.window * 60⟩ }) = t at *
  have named : Beside n a (if (t.slot n).state = .reserved then t.postSlot n else t.enter n .reserved) := by
    split
    · exact k.quiet ((Quiet.refl t).postSlot n)
    · exact k.enter .reserved
  exact named.quiet (((Quiet.refl _).post _).showLasting n _)

theorem Beside.handOn (h : Beside n a s) : Beside n a (s.handOn n) := by
  have dropped : Beside n a (s.dropReservation n) := h.modSlot _
  rcases handOn_cases s n with ⟨-, e⟩ | ⟨c, x, rest, -, -, e⟩ <;> rw [e]
  · exact (dropped.enter .idle).offer (by rw [State.enter_state, if_pos rfl])
  · exact dropped.reserve c x rest

/-- With no waiter of its class a slot handed on is left without a reservation. -/
theorem handOn_unreserved {c : Fin 4} (own : s.slotCls n = some c) (empty : s.queue c = []) :
    ((s.handOn n).slot n).reservation = none := by
  rcases handOn_cases s n with ⟨-, e⟩ | ⟨d, x, rest, own', head, -⟩
  · have cls : ((s.dropReservation n).enter n .idle).slotCls n = some c := by
      rw [← own, State.slotCls, State.enter_slot, if_pos rfl, State.dropReservation, State.slot_modSlot_same]
      rfl
    have queue : ((s.dropReservation n).enter n .idle).queue c = [] := (enter_queue _ n .idle c).trans empty
    have stays : (s.dropReservation n).enterIdle n = (s.dropReservation n).enter n .idle := by
      simp only [State.enterIdle, State.offer, cls, queue]
    rw [e, stays, State.enter_slot, if_pos rfl, State.dropReservation, State.slot_modSlot_same]
  · obtain rfl : c = d := Option.some.inj (own.symm.trans own')
    exact absurd (empty.symm.trans head) nofun

/-- A reservation whose window has run out is told, and its slot handed on. -/
theorem execReservationExpiry_due {r : Reservation} {c : Fin 4} (running : s.life = .running)
    (state : (s.slot n).state = .reserved) (held : (s.slot n).reservation = some r) (own : s.slotCls n = some c)
    (due : r.window = 0) :
    exec (.reservationExpiry n) s = .next ((s.post (.reservationExpired r.card c n)).handOn n) := by
  simp [exec, execReservationExpiry, ifRunning_of running, state, held, own, due]

end

/-- Settles O19: an entry leaves its queue at its position, and a reservation's slot is handed on (`handOn_cases`). -/
theorem waitlistPlacesExpire : Obligations.WaitlistPlacesExpire := by
  refine ⟨fun s c k e running entry due => ?_, fun s n r c _ _ running state held own due => ?_⟩
  · refine ⟨_, execWaitlistEntryExpiry_due running entry due,
      told_of_post (u := s.setQueue c _) rfl rfl (List.prefix_refl _), fun d => ?_,
      entryExpired_aside s c _ _⟩
    rw [State.queue, State.post_queues]
    exact (State.queue_setQueue s c d _).trans (if_congr eq_comm rfl rfl)
  · have posted (m : Fin 24) : (s.post (.reservationExpired r.card c n)).slot m = s.slot m :=
      slot_of_slots (State.post_slots _ _) m
    have queues : (s.post (.reservationExpired r.card c n)).queues = s.queues := State.post_queues _ _
    have settings : (s.post (.reservationExpired r.card c n)).settings = s.settings := State.post_settings _ _
    have calm := (Calm.refl s).post (.reservationExpired r.card c n)
    have bare := (Bare.refl s).post (.reservationExpired r.card c n)
    have beside := (Beside.refl n s).quiet ((Quiet.refl s).post (.reservationExpired r.card c n))
    have acts := (Acts.refl s).post (.reservationExpired r.card c n)
    have told : s.told (.reservationExpired r.card c n) (s.post (.reservationExpired r.card c n)) :=
      told_of_post rfl rfl (List.prefix_refl _)
    refine ⟨_, execReservationExpiry_due running state held own due, ?_⟩
    generalize s.post (.reservationExpired r.card c n) = t at *
    have cls : t.slotCls n = some c := by rw [State.slotCls, posted]; exact own
    refine ⟨told.trans ((Calm.refl t).handOn n).events,
      offered_of (handOn_offered t n) (by rw [posted]) queues settings, (calm.handOn n).booksKept,
      bystander_of (bare.handOn n) beside.handOn, fun empty => handOn_unreserved cls ?_, (acts.handOn n).outside⟩
    simpa only [State.queue, queues] using empty

end Sys2Proof.Machine

namespace Sys2Proof.Machine

/-! ## The room and its clock (R167, R172, R176) -/

section
variable {a s t : State}

/-- A second of the room clock, by whether the day goes on (R172). -/
theorem Clock.tick_eq (c : Clock) : c.tick = if c.second < 86399 then { c with second := c.second + 1 }
    else { c with second := 0, day := (c.day + 1) % 65536 } := by
  unfold Clock.tick
  exact if_congr (by omega) rfl rfl

theorem execClockSecond_powered (powered : s.life ≠ .waiting) :
    exec .clockSecond s = .next { s with clock := s.clock.tick } := by
  cases life : s.life with
  | waiting => exact absurd life powered
  | strap | running | restartDue => simp [exec, execClockSecond, life]

/-! ### A change of room state (R52, R53, R176) -/

theorem aside_displayAll (s : State) (d : Display) : (s.displayAll d).aside = s.aside := by
  unfold State.displayAll
  refine aside_foldl (fun s t => ?_) allTerminals s
  rfl

theorem aside_openDisplays (s : State) : s.openDisplays.aside = s.aside := by
  unfold State.openDisplays
  refine aside_foldl (fun s t => ?_) allTerminals s
  rfl

theorem roomDisplay_queues (s : State) (r : RoomState) : (s.roomDisplay r).queues = s.queues := by
  unfold State.roomDisplay
  split
  · rfl
  · split
    · rfl
    · dsimp only
      exact queues_of_aside (aside_displayAll s _)

theorem changeRoom_queues (s : State) (r : RoomState) (c : RoomCause) : (s.changeRoom r c).queues = s.queues :=
  (roomDisplay_queues _ _).trans (State.post_queues _ _)

/-- ROOM_STATE is the first event of a change of room state (R176). -/
theorem changeRoom_told (s : State) (r : RoomState) (c : RoomCause) :
    s.told (.roomState s.room.state r s.settings.room.mode s.clock.isSet c) (s.changeRoom r c) :=
  told_of_post (u := { s with room := { s.room with state := r } }) rfl rfl ((Calm.refl _).roomDisplay _).events

/-! ### The waitlist cleared (R167) -/

/-- From `a` to `s` queues that were empty stay so, and no slot came to be RESERVED. -/
def Vacated (a s : State) : Prop :=
  (∀ c, a.queue c = []) → (∀ c, s.queue c = []) ∧ ∀ n, (a.slot n).state ≠ .reserved → (s.slot n).state ≠ .reserved

theorem Vacated.refl (a : State) : Vacated a a := fun empty => ⟨empty, fun _ => id⟩

theorem Vacated.trans {b c : State} (h : Vacated a b) (k : Vacated b c) : Vacated a c := fun empty =>
  ⟨(k (h empty).1).1, fun n free => (k (h empty).1).2 n ((h empty).2 n free)⟩

/-- A reservation dropped at a closing room, its slot entering IDLE (R167). -/
def State.clearSlot (s : State) (n : Fin 24) : State :=
  if (s.slot n).state = .reserved then (s.dropReservation n).enterIdle n else s

theorem clearWaitlist_eq (s : State) :
    s.clearWaitlist = overSlots (fun n s => s.clearSlot n) { s with queues := Vector.replicate 4 [] } := rfl

/-- With every queue empty a RESERVED slot enters IDLE and stays there; nothing else becomes of states and queues. -/
theorem clearSlot_state (empty : ∀ c, s.queue c = []) (n m : Fin 24) :
    ((s.clearSlot n).slot m).state = if n = m ∧ (s.slot n).state = .reserved then .idle else (s.slot m).state := by
  unfold State.clearSlot
  split
  · next held =>
    rw [enterIdle_alone (s.dropReservation n) n empty, State.enter_state, ((Quiet.refl s).dropReservation n).state]
    exact if_congr (by simp [held]) rfl rfl
  · next free => rw [if_neg fun k => free k.2]

theorem clearSlot_queue (empty : ∀ c, s.queue c = []) (n : Fin 24) (c : Fin 4) : (s.clearSlot n).queue c = [] := by
  unfold State.clearSlot
  split
  · rw [enterIdle_alone (s.dropReservation n) n empty, enter_queue]
    exact empty c
  · exact empty c

theorem clearSlot_vacated (s : State) (n : Fin 24) : Vacated s (s.clearSlot n) := fun empty =>
  ⟨clearSlot_queue empty n, fun m free => by
    rw [clearSlot_state empty]
    split
    · exact nofun
    · exact free⟩

/-- A cleared waitlist has no entry and no reserved slot (R167). -/
theorem clearWaitlist_cleared (s : State) :
    (∀ c, s.clearWaitlist.queue c = []) ∧ ∀ n, (s.clearWaitlist.slot n).state ≠ .reserved := by
  have empty (c : Fin 4) : ({ s with queues := Vector.replicate 4 [] } : State).queue c = [] := by simp [State.queue]
  rw [clearWaitlist_eq]
  generalize ({ s with queues := Vector.replicate 4 [] } : State) = t at *
  have atSlot (n : Fin 24) : (∀ c, (overSlots (fun n s => s.clearSlot n) t).queue c = []) ∧
      ((overSlots (fun n s => s.clearSlot n) t).slot n).state ≠ .reserved := by
    obtain ⟨u, before, after⟩ := overSlots_at (R := Vacated) Vacated.refl Vacated.trans n
      (fun m s _ => clearSlot_vacated s m) t
    have emptied := (before empty).1
    have freed : ((u.clearSlot n).slot n).state ≠ .reserved := by
      rw [clearSlot_state emptied]
      split
      · exact nofun
      · next k => exact fun held => k ⟨rfl, held⟩
    obtain ⟨queues, slots⟩ := after (clearSlot_queue emptied n)
    exact ⟨queues, slots n freed⟩
  exact ⟨(atSlot 0).1, fun n => (atSlot n).2⟩

/-! ### The room follows its mode state (R176) -/

theorem followMode_stays (h : s.room.state = .suspended ∨ s.room.state = .held ∨ s.modeState = s.room.state)
    (c : RoomCause) : s.followMode c = s := by
  unfold State.followMode
  rcases h with e | e | e
  · rw [e]
  · rw [e]
  · split
    · rfl
    · rfl
    all_goals exact if_pos e

theorem followMode_enters (suspended : s.room.state ≠ .suspended) (held : s.room.state ≠ .held)
    (differs : s.modeState ≠ s.room.state) (c : RoomCause) : s.followMode c = s.enterRoom s.modeState c := by
  unfold State.followMode
  split
  · next e => exact absurd e suspended
  · next e => exact absurd e held
  all_goals exact if_neg differs

theorem enterRoom_room (s : State) (r : RoomState) (c : RoomCause) :
    (s.enterRoom r c).room = { s.room with state := r } := by
  have state : (s.enterRoom r c).room.state = r := by
    unfold State.enterRoom
    dsimp only
    split
    · rw [openDisplays_room, changeRoom_room]
    · rw [clearWaitlist_room, changeRoom_room]
  have outside := ((Acts.refl s).enterRoom r c).outside
  calc (s.enterRoom r c).room
      = ⟨(s.enterRoom r c).room.state, (s.enterRoom r c).room.interlock, (s.enterRoom r c).room.timer⟩ := rfl
    _ = { s.room with state := r } := by rw [state, outside_interlock outside, outside_timer outside]

theorem enterRoom_told (s : State) (r : RoomState) (c : RoomCause) :
    s.told (.roomState s.room.state r s.settings.room.mode s.clock.isSet c) (s.enterRoom r c) :=
  (changeRoom_told s r c).trans (Calm.ite (Calm.refl _).openDisplays (Calm.refl _).clearWaitlist).events

theorem Bare.enterRoom (h : Bare a s) (r : RoomState) (c : RoomCause) : Bare a (s.enterRoom r c) :=
  Bare.ite (h.changeRoom r c).openDisplays (h.changeRoom r c).clearWaitlist

/-- Every slot stands beside a change of room state: a closing one takes it from RESERVED to IDLE at most (R167). -/
theorem enterRoom_bystander (w : Whole s) (r : RoomState) (c : RoomCause) (n : Fin 24) :
    (s.slot n).bystander ((s.enterRoom r c).slot n) := by
  refine ⟨(Bare.refl s).enterRoom r c n, ?_⟩
  have same : (s.changeRoom r c).slot n = s.slot n := slot_of_slots (changeRoom_slots r c) n
  have cleared := clearWaitlist_beside (Law.quiet w ((Quiet.refl s).changeRoom r c)) n
  unfold State.enterRoom
  dsimp only
  split
  · rw [slot_of_slots openDisplays_slots, same]
    exact .inl rfl
  · rw [← same]
    exact cleared

theorem enterRoom_open_queues (s : State) (c : RoomCause) : (s.enterRoom .openRoom c).queues = s.queues := by
  unfold State.enterRoom
  rw [if_pos rfl]
  exact (queues_of_aside (aside_openDisplays _)).trans (changeRoom_queues s _ c)

theorem enterRoom_cleared {r : RoomState} (closes : r ≠ .openRoom) (c : RoomCause) :
    (∀ d, (s.enterRoom r c).queue d = []) ∧ ∀ n, ((s.enterRoom r c).slot n).state ≠ .reserved := by
  unfold State.enterRoom
  rw [if_neg closes]
  exact clearWaitlist_cleared _

theorem execMinuteChange_running (running : s.life = .running) : exec .minuteChange s = .next (s.followMode .schedule) :=
  congrArg _ (ifRunning_of running _)

end

/-- Settles O29: the clock's second (`Clock.tick_eq`), and an entry to the mode state at a minute's change. -/
theorem theRoomFollowsItsClock : Obligations.TheRoomFollowsItsClock := by
  refine ⟨fun s powered => ?_, fun s running => ⟨fun stays => ?_, fun hh hb suspended held differs => ?_⟩⟩
  · rw [execClockSecond_powered powered, Clock.tick_eq]
  · rw [execMinuteChange_running running, followMode_stays stays]
  · have w : Whole s := whole_iff.2 ⟨hh, hb⟩
    refine ⟨s.enterRoom s.modeState .schedule, ?_, enterRoom_room s _ _, enterRoom_told s _ _,
      ((Calm.refl s).enterRoom _ _).booksKept, enterRoom_bystander w _ _, fun opens => ?_,
      fun closes => enterRoom_cleared closes _, ((Acts.refl s).enterRoom _ _).outside⟩
    · rw [execMinuteChange_running running, followMode_enters suspended held differs]
    · rw [opens]
      exact enterRoom_open_queues s _

end Sys2Proof.Machine

namespace Sys2Proof.Machine

/-! ## ROOM_SET, ROOM_MODE and TIME_SET (R173, R174, R176, R178) -/

section
variable {s t : State} {p : Port}

/-! ### The room after the schedule is evaluated (R175, R176) -/

/-- The room of `t` is where the mode state of `t` calls it, or SUSPENDED or HELD as in `s` (R176). -/
def State.roomFollows (s t : State) : Prop :=
  t.room.state = (if s.room.state = .suspended ∨ s.room.state = .held then s.room.state else t.modeState)

/-- The ports and the store turn have no part in where the room follows to. -/
theorem roomFollows_inside : s.inside.roomFollows t.inside ↔ s.roomFollows t := Iff.rfl

/-- The mode state is one of the settings, the clock and the holds (R175). -/
theorem modeState_congr (settings : t.settings = s.settings) (clock : t.clock = s.clock) (holds : t.holds = s.holds) :
    t.modeState = s.modeState := by
  unfold State.modeState State.calledOpen State.holdCount State.hold
  rw [settings, clock, holds]

theorem followMode_settings (s : State) (c : RoomCause) : (s.followMode c).settings = s.settings :=
  outside_settings ((Acts.refl s).followMode c).outside

theorem followMode_clock (s : State) (c : RoomCause) : (s.followMode c).clock = s.clock :=
  outside_clock ((Acts.refl s).followMode c).outside

theorem followMode_port (s : State) (c : RoomCause) (q : Port) : (s.followMode c).port q = s.port q :=
  port_of_outside ((Acts.refl s).followMode c).outside q

theorem followMode_modeState (s : State) (c : RoomCause) : (s.followMode c).modeState = s.modeState :=
  modeState_congr (followMode_settings s c) (followMode_clock s c) ((Calm.refl s).followMode c).booksKept.holds

theorem followMode_follows (s : State) (c : RoomCause) : s.roomFollows (s.followMode c) := by
  unfold State.roomFollows
  rw [followMode_modeState]
  by_cases stopped : s.room.state = .suspended ∨ s.room.state = .held
  · rw [if_pos stopped, followMode_stays (stopped.imp_right .inl)]
  · rw [if_neg stopped]
    by_cases there : s.modeState = s.room.state
    · rw [followMode_stays (.inr (.inr there)), there]
    · obtain ⟨suspended, held⟩ := not_or.1 stopped
      rw [followMode_enters suspended held there, enterRoom_room]

/-! ### The room configuration set, written and followed (R174, R178) -/

/-- The room configuration set and its write begun. -/
def State.setRoomCfg (s : State) (r : RoomCfg) : State := (s.modSettings fun x => { x with room := r }).write [.room r]

theorem setRoomCfg_port (s : State) (r : RoomCfg) (q : Port) : (s.setRoomCfg r).port q = s.port q := by cases q <;> rfl

/-- From `s` to `t` the room configuration `r` was set and its write begun, and the room followed. -/
structure State.roomTaken (s : State) (r : RoomCfg) (t : State) : Prop where
  settings : t.settings = { s.settings with room := r }
  writes : t.writes = s.writes ++ [[.room t.settings.room]]
  room : s.roomFollows t

theorem roomTaken_inside (r : RoomCfg) : s.inside.roomTaken r t.inside ↔ s.roomTaken r t :=
  ⟨fun ⟨settings, writes, room⟩ => ⟨settings, writes, room⟩, fun ⟨settings, writes, room⟩ => ⟨settings, writes, room⟩⟩

theorem followMode_taken (s : State) (r : RoomCfg) (c : RoomCause) : s.roomTaken r ((s.setRoomCfg r).followMode c) := by
  have settings : ((s.setRoomCfg r).followMode c).settings = { s.settings with room := r } := followMode_settings _ c
  refine ⟨settings, ?_, followMode_follows (s.setRoomCfg r) c⟩
  rw [settings]
  exact ((Calm.refl (s.setRoomCfg r)).followMode c).booksKept.writes

/-- A request whose rule set the room configuration waits for its write (R189, R190). -/
theorem finish_roomTaken (r : RoomCfg) (c : RoomCause) (k : Nat) (b : ReplyBody) :
    let t := ((((s.countTaken p).setRoomCfg r).followMode c).ok b).finish p k (s.countTaken p).writes.length
    s.roomTaken r t ∧ s.awaits p ⟨k, .ok, b⟩ t := by
  intro t
  have taken := followMode_taken (s.countTaken p) r c
  constructor
  · rw [← roomTaken_inside, finish_inside, ← countTaken_inside s p]
    exact (roomTaken_inside r).2 taken
  · refine finish_awaits (x := (((s.countTaken p).setRoomCfg r).followMode c).ok b)
      (fun q => (followMode_port _ c q).trans (setRoomCfg_port _ r q)) ?_
    show (((s.countTaken p).setRoomCfg r).followMode c).writes.length ≠ _
    rw [taken.writes, List.length_append]
    simp

/-! ### ROOM_SET (R174) -/

theorem bodyRoomSet_bytes {o c l w e r : Nat} (ho : o < 65536) (hc : c < 65536) (hl : l < 256) (hw : w < 256) (he : e < 65536)
    (hr : r < 256) : bodyRoomSet (beBytes 2 o ++ beBytes 2 c ++ beBytes 1 l ++ beBytes 1 w ++ beBytes 2 e ++ beBytes 1 r) =
      .ok (o, c, l, w, e, r) := by
  simp only [beBytes_one, beBytes_two, List.cons_append, List.nil_append, bodyRoomSet, beNat_two ho, beNat_two hc, beNat_two he,
    toNat_byte hl, toNat_byte hw, toNat_byte hr]

/-- ROOM_SET with its six values in range (R174). -/
theorem roomSet_inRange (s : State) {o c l w e r : Nat} (ho : o ≤ 1439) (hc : c ≤ 1439) (l1 : 5 ≤ l) (l2 : l ≤ 120) (w1 : 1 ≤ w)
    (w2 : w ≤ 60) (e1 : 10 ≤ e) (e2 : e ≤ 480) (r1 : 1 ≤ r) (r2 : r ≤ 30) : s.roomSet (o, c, l, w, e, r) =
      ((s.setRoomCfg ⟨o, c, l, w, e, r, s.settings.room.mode⟩).followMode .settings).ok := by
  unfold State.roomSet
  exact if_neg (by simp [ho, hc, l1, l2, w1, w2, e1, e2, r1, r2])

theorem execRoomSet_ready (ready : s.readyFor p) (turn : s.turn ≠ some (otherPort p)) {o c l w e r : Nat} (ho : o < 65536)
    (hc : c < 65536) (hl : l < 256) (hw : w < 256) (he : e < 65536) (hr : r < 256) :
    exec (.roomSet p (beBytes 2 o ++ beBytes 2 c ++ beBytes 1 l ++ beBytes 1 w ++ beBytes 2 e ++ beBytes 1 r)) s =
      .next (((s.countTaken p).roomSet (o, c, l, w, e, r)).finish p 0x16 (s.countTaken p).writes.length) :=
  congrArg _ (request_ok ready (kindRefused_false (by decide) (by decide)) (bodyRoomSet_bytes ho hc hl hw he hr)
    (fun _ => turn) _)

/-! ### ROOM_MODE (R178) -/

theorem modeOf_value (m : Mode) : modeOf m.value = some m := by cases m <;> rfl

theorem modeOf_none {m : Nat} (h : 3 ≤ m) : modeOf m = none := by
  obtain ⟨k, rfl⟩ := Nat.exists_eq_add_of_le' h
  rfl

theorem execRoomMode_value (ready : s.readyFor p) (turn : s.turn ≠ some (otherPort p)) (m : Mode) :
    exec (.roomMode p (beBytes 1 m.value)) s =
      .next (((s.countTaken p).roomMode m).finish p 0x50 (s.countTaken p).writes.length) := by
  have small : m.value < 256 := by cases m <;> decide
  refine congrArg _ ((request_ok ready (kindRefused_false (by decide) (by decide)) (body1_byte small) (fun _ => turn) _).trans ?_)
  rw [modeOf_value]

/-- A value that is no mode is refused (R178, R188). -/
theorem execRoomMode_badValue (ready : s.readyFor p) (turn : s.turn ≠ some (otherPort p)) {m : Nat} (h : modeOf m = none)
    (small : m < 256) : exec (.roomMode p (beBytes 1 m)) s = .next (s.replied p ⟨0x50, .badValue, .empty⟩) := by
  refine congrArg _ ((request_ok ready (kindRefused_false (by decide) (by decide)) (body1_byte small) (fun _ => turn) _).trans ?_)
  rw [h]
  exact finish_replied s p 0x50 .badValue .empty

theorem roomMode_inForce {m : Mode} (same : s.settings.room.mode = m) : s.roomMode m = s.ok (.roomMode m s.room.state) :=
  if_pos same

theorem roomMode_other {m : Mode} (differs : s.settings.room.mode ≠ m) : s.roomMode m =
    let v := (s.setRoomCfg { s.settings.room with mode := m }).followMode .mode
    v.ok (.roomMode m v.room.state) := if_neg differs

/-! ### TIME_SET (R173) -/

theorem execTimeSet_ready (ready : s.readyFor p) {day second : Nat} (hd : day < 65536) (hs : second < 86400) :
    exec (.timeSet p (beBytes 2 day ++ beBytes 3 second)) s =
      .next ((((s.countTaken p).setClock day second).ok (.clock ((s.countTaken p).setClock day second).clock)).finish p 0x17
        (s.countTaken p).writes.length) := by
  refine congrArg _ ((request_ok ready (kind := 0x17) (kindRefused_false (by decide) (by decide))
    (body23_bytes hd (by omega)) nofun _).trans ?_)
  have inRange : clockOk day second = true := by simp [clockOk, hd, hs]
  simp only [inRange, if_true]

theorem setClock_sameMinute {day second : Nat} (isSet : s.clock.isSet = true) (minute : s.clock.second / 60 = second / 60) :
    s.setClock day second = { s with clock := ⟨second, day, true⟩ } := by
  unfold State.setClock
  exact if_neg (by simp [Clock.minute, isSet, minute])

/-- CLOCK_SET becoming true, or another minute of day, evaluates the schedule afresh (R173). -/
theorem setClock_otherMinute {day second : Nat} (moves : s.clock.isSet = false ∨ s.clock.second / 60 ≠ second / 60) :
    s.setClock day second = ({ s with clock := ⟨second, day, true⟩ } : State).followMode .timeSet := by
  unfold State.setClock
  exact if_pos (by simpa [Clock.minute] using moves)

/-- A request that set the clock and evaluated the schedule is answered at once (R173, R189). -/
theorem finish_clockFollowed (k : Clock) (b : ReplyBody) :
    let t := ((({ s.countTaken p with clock := k } : State).followMode .timeSet).ok b).finish p 0x17 (s.countTaken p).writes.length
    t.clock = k ∧ t.port p = (s.port p).answered ⟨0x17, .ok, b⟩ ∧ s.booksKept t ∧ s.roomFollows t := by
  intro t
  have inside : t.inside = (({ s.countTaken p with clock := k } : State).followMode .timeSet).inside := finish_inside _ p 0x17 _
  have follows := followMode_follows { s.countTaken p with clock := k } .timeSet
  have port := followMode_port { s.countTaken p with clock := k } .timeSet
  obtain ⟨accounts, holds, settlement, writes⟩ := ((Calm.refl { s.countTaken p with clock := k }).followMode .timeSet).booksKept
  refine ⟨?_, finish_answered (fun q => (port q).trans (by cases q <;> rfl)) (congrArg List.length writes), ?_, ?_⟩
  · rw [finish_proj State.clock (fun _ => rfl)]
    exact followMode_clock { s.countTaken p with clock := k } .timeSet
  · rw [← booksKept_inside, inside, ← countTaken_inside s p]
    exact ⟨accounts, holds, settlement, writes⟩
  · rw [← roomFollows_inside, inside, ← countTaken_inside s p]
    exact follows

end

/-- Settles O48: each request sets its record and evaluates the schedule (`followMode_follows`), or leaves the room as it was. -/
theorem theRoomIsSet : Obligations.TheRoomIsSet := by
  intro s p ready
  have cfg : (s.countTaken p).settings.room = s.settings.room := countTaken_proj (·.settings.room) (fun _ => rfl) s p
  have clock : (s.countTaken p).clock = s.clock := countTaken_proj State.clock (fun _ => rfl) s p
  refine ⟨fun o c l w e r turn ho hc l1 l2 w1 w2 e1 e2 r1 r2 => ?roomSet,
    fun m turn none small => execRoomMode_badValue ready turn (modeOf_none none) small,
    fun m => ⟨fun turn same => ?modeInForce, fun turn differs => ?modeSet⟩,
    fun day second hd hs => ⟨fun isSet minute => ?sameMinute, fun moves => ?otherMinute⟩⟩
  case roomSet =>
    obtain ⟨taken, waits⟩ := finish_roomTaken (s := s) (p := p) ⟨o, c, l, w, e, r, s.settings.room.mode⟩ .settings 0x16 .empty
    refine ⟨_, ?_, taken.settings, taken.writes, waits, taken.room⟩
    rw [execRoomSet_ready ready turn (by omega) (by omega) (by omega) (by omega) (by omega) (by omega),
      roomSet_inRange _ ho hc l1 l2 w1 w2 e1 e2 r1 r2, cfg]
  case modeInForce =>
    rw [execRoomMode_value ready turn, roomMode_inForce (by rw [cfg]; exact same), countTaken_proj State.room (fun _ => rfl)]
    exact congrArg _ (finish_replied s p 0x50 .ok _)
  case modeSet =>
    have set := roomMode_other (s := s.countTaken p) (m := m) (by rw [cfg]; exact differs)
    rw [cfg] at set
    obtain ⟨taken, waits⟩ := finish_roomTaken (s := s) (p := p) { s.settings.room with mode := m } .mode 0x50
      (.roomMode m (((s.countTaken p).setRoomCfg { s.settings.room with mode := m }).followMode .mode).room.state)
    refine ⟨_, by rw [execRoomMode_value ready turn, set], taken.settings, taken.writes, ?_, taken.room⟩
    rw [finish_proj State.room (fun _ => rfl)]
    exact waits
  case sameMinute =>
    rw [execTimeSet_ready ready hd hs, setClock_sameMinute (by rw [clock]; exact isSet) (by rw [clock]; exact minute)]
    refine congrArg _ (Eq.trans ?_ (finish_replied { s with clock := ⟨second, day, true⟩ } p 0x17 .ok _))
    cases p <;> rfl
  case otherMinute =>
    have set := setClock_otherMinute (s := s.countTaken p) (day := day) (second := second) (by rw [clock]; exact moves)
    have stands : ((s.countTaken p).setClock day second).clock = ⟨second, day, true⟩ :=
      (congrArg State.clock set).trans (followMode_clock _ .timeSet)
    refine ⟨_, ?_, finish_clockFollowed ⟨second, day, true⟩ _⟩
    rw [execTimeSet_ready ready hd hs, stands, set]

end Sys2Proof.Machine

namespace Sys2Proof.Machine

/-! ## A step (R189; log 29, log 40) -/

section
variable {s : State} {p : Port}

/-- Only a reply that is built begins (R189). -/
theorem begun_still {x : Activity} (h : ∀ r, x ≠ .built r) : x.begun = x := by
  cases x with
  | built r => exact absurd rfl (h r)
  | _ => rfl

/-- In a running part each port's activity goes on to its beginning (log 40). -/
theorem beginReplies_port_eq (running : s.life = .running) (p : Port) :
    s.beginReplies.port p = { s.port p with activity := (s.port p).activity.begun } := by
  unfold State.beginReplies State.ifRunning
  rw [if_pos running]
  cases p <;> rfl

/-- Beside the ports nothing changes. -/
theorem beginReplies_rest (s : State) : { s.beginReplies with building := s.building, service := s.service } = s := by
  unfold State.beginReplies State.ifRunning
  split <;> rfl

end

/-- Settles O1: the command in front of the queue, or the beginning of the built replies. -/
theorem stepTakesTheFront : Obligations.StepTakesTheFront := by
  refine ⟨fun c q s front => ?_, fun s empty => ?_⟩
  · unfold step
    rw [front]
    rfl
  · have idle : step s = .next s.beginReplies := by
      unfold step
      rw [empty]
    refine ⟨fun stopped => ?_, fun running => ⟨_, idle, beginReplies_rest s, fun p => ⟨fun r built => ?_, fun still => ?_⟩⟩⟩
    · rw [idle, State.beginReplies, State.ifRunning, if_neg stopped]
    · rw [beginReplies_port_eq running, built]
      rfl
    · rw [beginReplies_port_eq running, begun_still still]

end Sys2Proof.Machine

namespace Sys2Proof.Machine

/-! ## The record store's completions at the ports (R189, R190, R204) -/

section
variable {s : State} {p : Port}

/-- A reply that waits, with one change fewer to wait for. -/
theorem stored_storing (r : Reply) (k : Nat) :
    (Activity.storing r k).stored = if k ≤ 1 then .built r else .storing r (k - 1) := rfl

theorem stored_other {x : Activity} (h : ∀ r k, x ≠ .storing r k) : x.stored = x := by
  cases x with
  | storing r k => exact absurd rfl (h r k)
  | _ => rfl

/-- A completed change builds the port's reply: it waited for this one alone. -/
def Activity.freed (x : Activity) : Bool := x.isStoring && !x.stored.isStoring

theorem freed_storing (r : Reply) (k : Nat) : (Activity.storing r k).freed = decide (k ≤ 1) := by
  rw [Activity.freed, stored_storing]
  by_cases last : k ≤ 1 <;> simp [last, Activity.isStoring]

theorem freed_other {x : Activity} (h : ∀ r k, x ≠ .storing r k) : x.freed = false := by
  cases x with
  | storing r k => exact absurd rfl (h r k)
  | _ => rfl

/-- A port's share in a completed change: its activity, and the store turn if it held that and its reply is built. -/
theorem portStored_eq (s : State) (p : Port) : s.portStored p =
    { s.setActivity p (s.port p).activity.stored with
      turn := if (s.port p).activity.freed = true ∧ s.turn = some p then none else s.turn } := by
  unfold State.portStored
  dsimp only
  have turn : (s.setActivity p (s.port p).activity.stored).turn = s.turn := State.setActivity_turn ..
  split
  · next h =>
    rw [if_pos (by simpa [Activity.freed, turn] using h)]
  · next h =>
    rw [if_neg (by simpa [Activity.freed, turn] using h), ← turn]

/-- The store turn once a change is done: whose reply is built gives it back (R190). -/
def State.turnAfter (s : State) : Option Port :=
  match s.turn with
  | some p => if (s.port p).activity.freed then none else some p
  | none => none

/-- A completed change: the store, the writes left, each port's activity and the store turn (R189, R190, R204). -/
theorem writeDone_eq {ws : List StoreWrite} {rest : List (List StoreWrite)} (h : s.writes = ws :: rest) : s.writeDone =
    { s with
      store := s.store.applyAll ws, writes := rest, turn := s.turnAfter
      building := { s.building with activity := s.building.activity.stored }
      service := { s.service with activity := s.service.activity.stored } } := by
  unfold State.writeDone
  rw [h]
  dsimp only
  rw [portStored_eq, portStored_eq]
  unfold State.turnAfter
  cases s.turn with
  | none => simp [State.setActivity, State.setPort, State.port]
  | some q =>
    cases q <;> simp [State.setActivity, State.setPort, State.port] <;> exact if_congr Iff.rfl rfl rfl

theorem writeDone_port {ws : List StoreWrite} {rest : List (List StoreWrite)} (h : s.writes = ws :: rest) (p : Port) :
    s.writeDone.port p = { s.port p with activity := (s.port p).activity.stored } := by
  rw [writeDone_eq h]
  cases p <;> rfl

theorem writeDone_turn {ws : List StoreWrite} {rest : List (List StoreWrite)} (h : s.writes = ws :: rest) :
    s.writeDone.turn = s.turnAfter := by rw [writeDone_eq h]

theorem turnAfter_some (held : s.turn = some p) :
    s.turnAfter = if (s.port p).activity.freed then none else some p := by rw [State.turnAfter, held]

theorem turnAfter_none (free : s.turn = none) : s.turnAfter = none := by rw [State.turnAfter, free]

theorem storeWriteDone_does (lives : s.life = .running ∨ s.life = .restartDue) : exec .storeWriteDone s = .next s.writeDone := by
  simp only [exec, execStoreWriteDone]
  rcases lives with e | e <;> rw [e]

end

/-- Settles O32: the completed change by what it makes of the state (`writeDone_eq`), at each port by what the port does. -/
theorem storeTakesTheOldestChange : Obligations.StoreTakesTheOldestChange := by
  intro s ws rest lives begun
  refine ⟨_, storeWriteDone_does lives, by rw [writeDone_eq begun], by rw [writeDone_eq begun], fun p => ?_,
    fun free => (writeDone_turn begun).trans (turnAfter_none free), by rw [writeDone_eq begun]⟩
  rw [writeDone_port begun, writeDone_turn begun]
  refine ⟨rfl, fun r k waits => ⟨?_, fun held => ?_⟩, fun still => ⟨stored_other still, fun held => ?_⟩⟩
  · rw [waits, stored_storing]
  · rw [turnAfter_some held, waits, freed_storing]
    simp only [decide_eq_true_eq]
  · rw [turnAfter_some held, freed_other still]
    rfl

end Sys2Proof.Machine

namespace Sys2Proof.Machine

/-! ## The end of a reply, and RESTART (R187, R196) -/

section
variable {s : State} {p : Port}

/-- A good RESTART at an IDLE port that hears, with no frame open, is answered OK and taken there (R196). -/
theorem restart_heard (running : s.life = .running) (idle : (s.port p).activity = .idle) (closed : (s.port p).frame = none)
    (other : s.restart.of (otherPort p) = .none) :
    exec (.restart p []) s = .next (({ s with restart := s.restart.take p } : State).replied p ⟨0x60, .ok, .empty⟩) := by
  have hears : s.hears p = true := by simp [State.hears, State.listens, State.deaf, running, idle, other, Activity.isSending]
  rw [gives_restart, frameArrives_none hears closed, if_neg (by rw [portBusy_iff, idle]; exact not_not_intro rfl),
    restartTaken_nil]
  cases p <;> rfl

/-- The end of a reply that is built or being sent (R187). -/
theorem hostReplyEnd_does (running : s.life = .running) {r : Reply}
    (replies : (s.port p).activity = .built r ∨ (s.port p).activity = .sending r) :
    exec (.hostReplyEnd p) s = .next ((s.setActivity p .idle).replyEnded p) := by
  simp only [exec, execHostReplyEnd, State.ifRunning, if_pos running]
  rcases replies with e | e <;> rw [e]

theorem unanswered_iff {x : Activity} : x.unanswered = true ↔
    (∃ r, x = .built r ∨ x = .sending r) ∨ (∃ r k, x = .storing r k) ∨ ∃ i, x = .sensing i := by
  cases x <;> simp [Activity.unanswered]

/-! What the end of a reply means for the RESTARTs taken, case by case (R196). -/

theorem replyEnded_due (other : s.restart.of (otherPort p) = .ended) : s.replyEnded p = { s with life := .restartDue } :=
  if_pos other

theorem replyEnded_none (other : s.restart.of (otherPort p) ≠ .ended) (own : s.restart.of p = .none) : s.replyEnded p = s := by
  rw [State.replyEnded, if_neg other, if_pos own]

theorem replyEnded_waits (other : s.restart.of (otherPort p) ≠ .ended) (own : s.restart.of p ≠ .none)
    (waits : (s.port (otherPort p)).activity.unanswered = true) :
    s.replyEnded p = { s with restart := s.restart.set p .ended } := by
  rw [State.replyEnded, if_neg other, if_neg own, if_pos waits]

theorem replyEnded_alone (other : s.restart.of (otherPort p) ≠ .ended) (own : s.restart.of p ≠ .none)
    (alone : ¬ (s.port (otherPort p)).activity.unanswered = true) : s.replyEnded p = { s with life := .restartDue } := by
  rw [State.replyEnded, if_neg other, if_neg own, if_neg alone]

end

/-- Settles O33: the end of a reply by the RESTARTs taken on each port. -/
theorem replyEndFreesThePort : Obligations.ReplyEndFreesThePort := by
  refine ⟨fun s p running idle closed other => restart_heard running idle closed other, fun s p r running replies => ?_⟩
  intro t waits
  have act : exec (.hostReplyEnd p) s = .next (t.replyEnded p) := hostReplyEnd_does running replies
  have restart : t.restart = s.restart := State.setPort_restart ..
  have unanswered : (t.port (otherPort p)).activity.unanswered = true ↔ waits := by
    rw [show t.port (otherPort p) = s.port (otherPort p) from State.port_setPort_other ..]
    exact unanswered_iff
  rw [act, ← restart]
  exact ⟨fun other => congrArg _ (replyEnded_due other), fun other => ⟨fun own => congrArg _ (replyEnded_none other own),
    fun own w => congrArg _ (replyEnded_waits other own (unanswered.2 w)),
    fun own w => congrArg _ (replyEnded_alone other own (mt unanswered.1 w))⟩⟩

end Sys2Proof.Machine

namespace Sys2Proof.Machine

/-! ## Frames at a BUSY port (R185, R187, R189) -/

section
variable {s : State} {p : Port} {c : Instr} {k : FrameClass}

theorem requestOf_fields {n : Nat} (h : requestOf c = some (p, n)) : ∃ body, requestFields c = some (p, n, body) := by
  cases e : requestFields c with
  | none => simp [requestOf, e] at h
  | some f =>
    obtain ⟨q, m, body⟩ := f
    simp only [requestOf, e, Option.map_some, Option.some.injEq, Prod.mk.injEq] at h
    obtain ⟨rfl, rfl⟩ := h
    exact ⟨body, rfl⟩

theorem request_gives {n : Nat} (h : requestOf c = some (p, n)) : ∃ act, Gives c p .request act := by
  obtain ⟨body, fields⟩ := requestOf_fields h
  obtain ⟨act, gives, -⟩ := request_carries fields
  exact ⟨act, gives⟩

theorem gives_unknownKind {kind : Byte} {body : List Byte} (unknown : catalogueKinds.contains kind.toNat = false) :
    Gives (.unknownKindRequest p kind body) p .request fun s => (s.countTaken p).answer p kind.toNat .unknownKind := fun s => by
  simp only [exec, execUnknownKindRequest, unknown, Bool.false_eq_true, if_false]

/-- A kind of the catalogue gives UNKNOWN_KIND_REQUEST no occasion (log 1). -/
theorem unknownKind_listed {kind : Byte} {body : List Byte} (listed : catalogueKinds.contains kind.toNat = true) :
    exec (.unknownKindRequest p kind body) s = .next s := by
  simp only [exec, execUnknownKindRequest, listed, if_true]

/-- BROADCAST_DROPPED does nothing on its frame (R191). -/
theorem gives_dropped {kind : Byte} {body : List Byte} : Gives (.broadcastDropped p kind body) p .broadcast id := fun _ => rfl

theorem gives_timeSet {body : List Byte} : ∃ act, Gives (.broadcastTimeSet p body) p .broadcast act := ⟨_, fun _ => rfl⟩

theorem gives_budgetSet {body : List Byte} : ∃ act, Gives (.broadcastBudgetSet p body) p .broadcast act := ⟨_, fun _ => rfl⟩

/-- A whole frame at a BUSY port that hears, with none open, is one overrun (R187). -/
theorem gives_busy {act : State → State} (gives : Gives c p k act) (hears : s.hears p = true) (busy : (s.port p).activity ≠ .idle)
    (closed : (s.port p).frame = none) : exec c s = .next (s.countOverrun p) := by
  rw [gives, frameArrives_none hears closed, if_pos (portBusy_iff.2 busy)]

/-! ### Once a reply has begun (R185) -/

theorem listens_sending {r : Reply} (sends : (s.port p).activity = .sending r) : s.listens p = false := by
  simp [State.listens, sends, Activity.isSending]

/-- A port that does not listen disregards a whole frame. -/
theorem gives_unheard {act : State → State} (gives : Gives c p k act) (unheard : s.listens p = false) : exec c s = .next s := by
  rw [gives, State.frameArrives, unheard, Bool.not_false, if_pos rfl]

/-- A port that does not listen disregards an opened frame, a gap and the characters of a frame. -/
theorem line_unheard (unheard : s.listens p = false) :
    (∀ a, exec (.hostFrameOverrun p a) s = .next s) ∧ (∀ a, exec (.frameGapTimeout (.host p) a) s = .next s) ∧
      ∀ chars, exec (.hostFrameDiscard p chars) s = .next s := by
  refine ⟨fun a => ?_, fun a => ?_, fun chars => ?_⟩
  · simp only [exec, execHostFrameOverrun, unheard, Bool.false_and]
  · simp only [exec, execFrameGapTimeout, unheard, Bool.not_false, if_true]
  · simp only [exec, execHostFrameDiscard, unheard, Bool.false_eq_true, if_false]

end

/-- Settles O35: whole frames by what `Gives` says of them, at a port that hears and at one that does not listen. -/
theorem framesAtABusyPort : Obligations.FramesAtABusyPort := by
  refine ⟨fun s p r running other built => ?hears, fun s p a hears busy closed => ⟨fun opens => ?opens, fun kind body => ?unknown,
    fun kind body => ⟨gives_busy gives_dropped hears busy closed, ?timeSet, ?budgetSet⟩⟩, fun c p k s request hears busy closed => ?request, fun s p r c sends line => ?sending,
    fun s a closed => ?notForUnit⟩
  case hears => simp [State.hears, State.listens, State.deaf, running, other, built, Activity.isSending]
  case opens =>
    obtain ⟨listens, deaf⟩ := hears_iff.1 hears
    rcases opens with class_ | class_ <;>
      simp [exec, execHostFrameOverrun, listens, portBusy_iff.2 busy, class_, deaf, breakOff_none closed]
  case unknown =>
    cases listed : catalogueKinds.contains kind.toNat with
    | true => exact unknownKind_listed listed
    | false => exact gives_busy (gives_unknownKind listed) hears busy closed
  case timeSet =>
    obtain ⟨act, gives⟩ := gives_timeSet (p := p) (body := body)
    exact gives_busy gives hears busy closed
  case budgetSet =>
    obtain ⟨act, gives⟩ := gives_budgetSet (p := p) (body := body)
    exact gives_busy gives hears busy closed
  case request =>
    obtain ⟨act, gives⟩ := request_gives request
    exact gives_busy gives hears busy closed
  case sending =>
    have unheard := listens_sending sends
    obtain ⟨overrun, gap, discard⟩ := line_unheard unheard
    rcases line with ⟨k, request⟩ | ⟨kind, body, rfl | rfl⟩ | ⟨body, rfl | rfl⟩ | ⟨a, rfl | rfl⟩ | ⟨chars, rfl⟩
    · obtain ⟨act, gives⟩ := request_gives request
      exact gives_unheard gives unheard
    · cases listed : catalogueKinds.contains kind.toNat with
      | true => exact unknownKind_listed listed
      | false => exact gives_unheard (gives_unknownKind listed) unheard
    · exact gives_unheard gives_dropped unheard
    · obtain ⟨act, gives⟩ := gives_timeSet (p := p) (body := body)
      exact gives_unheard gives unheard
    · obtain ⟨act, gives⟩ := gives_budgetSet (p := p) (body := body)
      exact gives_unheard gives unheard
    · exact overrun a
    · exact gap a
    · exact discard chars
  case notForUnit =>
    simp only [exec, execFrameNotForUnit, breakOff_none closed, ite_self]

end Sys2Proof.Machine

namespace Sys2Proof.Machine

/-! ## Broadcasts (R190, R191) -/

section
variable {s : State} {p : Port}

/-- A broadcast on a port that is ready acts. -/
theorem gives_ready {c : Instr} {k : FrameClass} {act : State → State} (gives : Gives c p k act) (ready : s.readyFor p) :
    exec c s = .next (act s) := by rw [gives, ready.arrives]

theorem countBroadcast_port (s : State) (p : Port) : (s.countBroadcast p).port p = { s.port p with
    counts := { (s.port p).counts with broadcasts := min 65535 ((s.port p).counts.broadcasts + 1) } } := by cases p <;> rfl

theorem modCounts_inside (s : State) (p : Port) (f : PortCounts → PortCounts) : (s.modCounts p f).inside = s.inside := by
  cases p <;> rfl

/-! ### TIME_SET (R173, R191) -/

/-- The clock set, and nothing of the ports (R173). -/
theorem setClock_rest (s : State) (day second : Nat) :
    (s.setClock day second).clock = ⟨second, day, true⟩ ∧ ∀ q, (s.setClock day second).port q = s.port q := by
  unfold State.setClock
  have own (q : Port) : ({ s with clock := ⟨second, day, true⟩ } : State).port q = s.port q := by cases q <;> rfl
  dsimp only
  split
  · exact ⟨followMode_clock _ _, fun q => (followMode_port _ _ q).trans (own q)⟩
  · exact ⟨rfl, own⟩

theorem broadcastTimeSet_does (ready : s.readyFor p) {day second : Nat} (hd : day < 65536) (hs : second < 86400) :
    exec (.broadcastTimeSet p (beBytes 2 day ++ beBytes 3 second)) s = .next ((s.setClock day second).countBroadcast p) := by
  refine (gives_ready (k := .broadcast) (fun _ => rfl) ready).trans (congrArg _ ?_)
  have inRange : clockOk day second = true := by simp [clockOk, hd, hs]
  simp only [body23_bytes hd (show second < 16777216 by omega), inRange, if_true]

/-! ### BUDGET_SET (R103, R190, R191) -/

/-- The feed budget set, whatever becomes of the ports (R103). -/
theorem setBudget_budgeted {t : State} {w : Nat} (h : t.inside = (s.setBudget w).inside) : s.budgeted w t := by
  have done := governed_regoverned s (g := { s.settings.governor with budget := w }) rfl
  rw [decide_eq_false (Nat.lt_irrefl _), ← setBudget_eq, regoverned_inside, ← h, ← regoverned_inside] at done
  exact done.budgeted

theorem setBudget_port (s : State) (w : Nat) (q : Port) : (s.setBudget w).port q = s.port q := by
  rw [setBudget_eq]
  exact (port_of_outside ((Acts.refl _).reckon _ _ _).outside q).trans (governed_port s _ q)

theorem broadcastBudgetSet_does (ready : s.readyFor p) {w : Nat} (low : 1000 ≤ w) (high : w ≤ 200000) :
    exec (.broadcastBudgetSet p (beBytes 3 w)) s = .next (if s.turn = some (otherPort p) then s.setActivity p (.deferred w)
      else (s.setBudget w).countBroadcast p) := by
  refine (gives_ready (k := .broadcast) (fun _ => rfl) ready).trans (congrArg _ ?_)
  have body : body3 (beBytes 3 w) = .ok w := by
    rw [beBytes_three]
    exact congrArg _ (beNat_three (by omega))
  have inRange : budgetOk w = true := by simp [budgetOk, low, high]
  simp only [body, inRange, Bool.not_true, Bool.false_eq_true, if_false]

theorem broadcastBudgetDeferred_does {w : Nat} (running : s.life = .running) (waits : (s.port p).activity = .deferred w)
    (free : s.turn = none) :
    exec (.broadcastBudgetDeferred p) s = .next (((s.setBudget w).countBroadcast p).setActivity p .idle) := by
  simp only [exec, execBroadcastBudgetDeferred, State.ifRunning, running, if_true, waits, free]

end

/-- Settles O36: each broadcast by what it does on its frame. -/
theorem broadcastsAct : Obligations.BroadcastsAct := by
  intro s p kind body ready
  refine ⟨gives_ready gives_dropped ready, ?timeSet, ?budgetSet, ?deferred⟩
  case timeSet =>
    rintro day second rfl hd hs
    obtain ⟨clock, port⟩ := setClock_rest s day second
    refine ⟨_, broadcastTimeSet_does ready hd hs, ?_, ?_, fun isSet minute => by rw [setClock_sameMinute isSet minute]⟩
    · rw [State.countBroadcast, State.modCounts_clock, clock]
    · rw [countBroadcast_port, port]
  case budgetSet =>
    rintro w rfl low high
    rw [broadcastBudgetSet_does ready low high]
    refine ⟨fun held => by rw [if_pos held]; rfl, fun free => ⟨(s.setBudget w).countBroadcast p, by rw [if_neg free], setBudget_budgeted (modCounts_inside _ p _), ?_⟩⟩
    rw [countBroadcast_port, setBudget_port]
  case deferred =>
    intro u w running waits free
    refine ⟨_, broadcastBudgetDeferred_does running waits free,
      setBudget_budgeted ((setActivity_inside ..).trans (modCounts_inside ..)), ?_⟩
    rw [State.setActivity, State.port_setPort_same, countBroadcast_port, setBudget_port]

end Sys2Proof.Machine

namespace Sys2Proof.Machine

/-! ## PORT_STATUS and EVENTS_READ (R197, R199, R201) -/

section
variable {s : State} {p : Port}

theorem flagOf_value (b : Bool) : flagOf (bit b) = some b := by cases b <;> rfl

/-- A port whose PORT_STATUS was counted and answered, its counts cleared where the flag asks for it (R197). -/
def PortUnit.reported (u : PortUnit) (b : Bool) (r : PortReport) : PortUnit :=
  { u with
    activity := .built ⟨0x04, .ok, .ports r⟩
    counts := if b then ⟨0, 0, 0, 0⟩ else { u.counts with taken := (u.counts.taken + 1) % 65536 } }

/-- PORT_STATUS changes its port alone; the report holds the counts as they were before the flag cleared them (R197). -/
theorem portStatus_does (ready : s.readyFor p) (b : Bool) : exec (.portStatus p (beBytes 1 (bit b))) s =
    .next (s.setPort p ((s.port p).reported b ((s.countTaken p).portReport p))) := by
  have body : body1 (beBytes 1 (bit b)) = .ok (bit b) := body1_byte (by cases b <;> decide)
  refine congrArg _ ((request_ok ready (kindRefused_false (by decide) (by decide)) body (fun writes => by cases writes) _).trans ?_)
  dsimp only
  rw [flagOf_value]
  cases b
  · exact (finish_sent rfl).trans (by cases p <;> rfl)
  · exact (finish_sent (by cases p <;> rfl)).trans (by cases p <;> rfl)

theorem setPort_rest (s : State) (p : Port) (u : PortUnit) :
    { s.setPort p u with building := s.building, service := s.service } = s := by cases p <;> rfl

/-- EVENTS_READ with a count (R199). -/
theorem eventsRead_taken (ready : s.readyFor .building) {k : Nat} (small : k < 256) :
    exec (.eventsRead .building (beBytes 1 k)) s = .next ((if 1 ≤ k ∧ k ≤ 8 then (s.countTaken .building).readEvents k
      else (s.countTaken .building).refuse .badValue).finish .building 0x08 (s.countTaken .building).writes.length) :=
  congrArg _ (request_ok ready rfl (body1_byte small) (fun writes => by cases writes) _)

theorem length_beBytes (k n : Nat) : (beBytes k n).length = k := by
  induction k generalizing n with
  | zero => rfl
  | succ k ih => simp [beBytes, ih]

/-- The fields of an event are 7 bytes, whatever its kind (R201). -/
theorem length_eventBody (b : EventBody) : b.bytes.2.length = 7 := by
  cases b <;> simp only [EventBody.bytes, List.length_append, length_beBytes]

end

/-- Settles O41: PORT_STATUS by its reply and its flag, EVENTS_READ by its count and its port. -/
theorem countsAndEventsAreTaken : Obligations.CountsAndEventsAreTaken := by
  refine ⟨fun s p b ready => ?ports, fun s k ready low high => ?events, fun s k ready small range => ?range,
    fun s body ready => ?service, fun e => ?bytes⟩
  case ports =>
    refine ⟨_, (s.countTaken p).portReport p, portStatus_does ready b, by rw [State.port_setPort_same]; rfl,
      State.port_setPort_other .., ?_, ?_, ?_, ?_, ?_, ?_, ?_, by rw [State.port_setPort_same]; rfl, setPort_rest ..⟩
    all_goals cases p <;> rfl
  case events =>
    rw [eventsRead_taken ready (by omega), if_pos ⟨low, high⟩]
    refine congrArg _ ((finish_sent rfl).trans ?_)
    simp only [State.readEvents, State.ok, List.length_drop]
    rfl
  case range =>
    rw [eventsRead_taken ready small, if_neg (by omega)]
    exact congrArg _ (finish_replied s .building 0x08 .badValue .empty)
  case service => exact congrArg _ ((request_refused ready rfl _ _).trans (answer_replied ..))
  case bytes =>
    simp only [Event.bytes, List.length_append, length_beBytes, length_eventBody]

end Sys2Proof.Machine

namespace Sys2Proof.Machine

/-! ## What a request's own rule makes of the state (R188, R189)

Each rule leaves the ports as they were and only begins changes of the store; where it refuses, it changes nothing. -/

/-- From `a` to `s` the ports are as they were, and changes of the store were only begun. -/
structure Begins (a s : State) : Prop where
  ports : ∀ q, s.port q = a.port q
  writes : a.writes <+: s.writes

section
variable {a s t : State}

namespace Begins

theorem refl (a : State) : Begins a a := ⟨fun _ => rfl, List.prefix_refl _⟩

theorem trans {b c : State} (h : Begins a b) (k : Begins b c) : Begins a c :=
  ⟨fun q => (k.ports q).trans (h.ports q), h.writes.trans k.writes⟩

theorem ite {c : Prop} [Decidable c] (hs : Begins a s) (ht : Begins a t) : Begins a (if c then s else t) := by
  split <;> assumption

theorem overSlots {f : Fin 24 → State → State} (h : Begins a s) (hf : ∀ n s, Begins s (f n s)) : Begins a (overSlots f s) := by
  have fold (l : List (Fin 24)) (s : State) : Begins s (l.foldl (fun s n => f n s) s) := by
    induction l generalizing s with
    | nil => exact refl s
    | cons n l ih => exact (hf n s).trans (ih _)
  exact h.trans (fold _ s)

/-- A change of neither the ports nor the changes in progress. -/
theorem change (h : Begins a s) (building : t.building = s.building) (service : t.service = s.service)
    (writes : t.writes = s.writes) : Begins a t :=
  h.trans ⟨fun | .building => building | .service => service, by rw [writes]⟩

/-- A change of neither the ports nor the changes in progress, beside those that it begins. -/
theorem wrote {ws : List (List StoreWrite)} (h : Begins a s) (building : t.building = s.building) (service : t.service = s.service)
    (writes : t.writes = s.writes ++ ws) : Begins a t :=
  h.trans ⟨fun | .building => building | .service => service, by rw [writes]; exact List.prefix_append _ _⟩

theorem write (h : Begins a s) (ws : List StoreWrite) : Begins a (s.write ws) := h.wrote rfl rfl rfl

/-- Acts at the slots touch no port. -/
theorem acts (h : Begins a s) (k : Acts s t) (b : Books s t) : Begins a t :=
  h.trans ⟨port_of_outside k.outside, b.writes⟩

theorem calm (h : Begins a s) (k : Acts s t) (c : Calm s t) : Begins a t := h.acts k c.toBooks

theorem modSettings (h : Begins a s) (f : Settings → Settings) : Begins a (s.modSettings f) := h.change rfl rfl rfl
theorem modSlot (h : Begins a s) (n : Fin 24) (f : Slot → Slot) : Begins a (s.modSlot n f) := h.change rfl rfl rfl
theorem restrike (h : Begins a s) (n : Fin 24) : Begins a (s.restrike n) := h.change rfl rfl rfl
theorem post (h : Begins a s) (b : EventBody) : Begins a (s.post b) := h.calm ((Acts.refl s).post b) ((Calm.refl s).post b)
theorem reckon (h : Begins a s) (x y z : Bool) : Begins a (s.reckon x y z) :=
  h.calm ((Acts.refl s).reckon x y z) ((Calm.refl s).reckon x y z)
theorem followMode (h : Begins a s) (c : RoomCause) : Begins a (s.followMode c) :=
  h.calm ((Acts.refl s).followMode c) ((Calm.refl s).followMode c)
theorem enterIdle (h : Begins a s) (n : Fin 24) : Begins a (s.enterIdle n) :=
  h.calm ((Acts.refl s).enterIdle n) ((Calm.refl s).enterIdle n)
theorem handOn (h : Begins a s) (n : Fin 24) : Begins a (s.handOn n) := h.calm ((Acts.refl s).handOn n) ((Calm.refl s).handOn n)
theorem removeCause (h : Begins a s) (n : Fin 24) (m : Cause) : Begins a (s.removeCause n m) :=
  h.acts ((Acts.refl s).removeCause n m) ((Books.refl s).removeCause n m)
theorem cycleEnd (h : Begins a s) (n : Fin 24) (r : Reason) (f : Option (FaultCode × Option Nat)) (st : SlotState) :
    Begins a (s.cycleEnd n r f st) := h.acts ((Acts.refl s).cycleEnd n r f st) ((Books.refl s).cycleEnd n r f st)

/-! ### Operations of the requests -/

theorem rephase (h : Begins a s) (c : Fin 4) (k : Kind) : Begins a (s.rephase c k) :=
  h.overSlots fun n t => ite ((refl t).modSlot n _) (refl t)

theorem leaveHalf (h : Begins a s) (o : Option SlotCfg) (m : Option (Fin 16 × Half)) : Begins a (s.leaveHalf o m) := by
  obtain ⟨-, -, -, -, outside, -⟩ := leaveHalf_rest s o m
  exact h.trans ⟨port_of_outside outside, (Calm.leaveHalf s o m).toBooks.writes⟩

theorem removeClass (h : Begins a s) (n : Fin 24) : Begins a (s.removeClass n) := by
  have stripped : Begins a (s.stripped n) := h.wrote rfl rfl rfl
  have told : Begins a ((s.stripped n).enterTold n .unconfigured) :=
    stripped.calm ((Acts.refl _).enterTold n _) ((Calm.refl _).enterTold n _)
  exact ((ite told stripped).modSlot n _).leaveHalf _ _

theorem followTerminal (h : Begins a s) (n : Fin 24) (t : Fin 16) : Begins a (s.followTerminal n t) :=
  ite (h.acts ((Acts.refl s).raise _ _ _) ((Books.refl s).raise _ _ _))
    (ite (h.acts ((Acts.refl s).regainSlot n) ((Books.refl s).regainSlot n)) h)

theorem takePlace (h : Begins a s) (n : Fin 24) (old : Option SlotCfg) (c : SlotCfg) : Begins a (s.takePlace n old c) := by
  cases old with
  | none => exact (h.enterIdle n).followTerminal n _
  | some o =>
    unfold State.takePlace
    dsimp only
    have moved := ite (c := (!(o.term == c.term && o.half == c.half)) = true)
      (h.calm ((Acts.refl s).showMoved n) ((Calm.refl s).showLasting n _)) h
    generalize (if (!(o.term == c.term && o.half == c.half)) = true then s.showMoved n else s) = u at *
    have offered := ite (c := o.cls ≠ c.cls ∧ (u.slot n).state = .idle)
      (moved.calm ((Acts.refl u).offer n) ((Calm.refl u).offer n)) moved
    exact ite (offered.followTerminal n _) offered

theorem assignClass (h : Begins a s) (n : Fin 24) (c : SlotCfg) : Begins a (s.assignClass n c) := by
  obtain ⟨-, -, -, writes, outside, -⟩ := configured_does s n c
  have configured : Begins s (s.configured n c) := ⟨port_of_outside outside, by rw [writes]; exact List.prefix_append _ _⟩
  rw [assignClass_eq]
  exact ((h.trans configured).takePlace n _ c).reckon _ _ _

theorem setClock (h : Begins a s) (day second : Nat) : Begins a (s.setClock day second) := by
  have clock : Begins a { s with clock := ⟨second, day, true⟩ } := h.change rfl rfl rfl
  exact ite (clock.followMode .timeSet) clock

theorem setBudget (h : Begins a s) (w : Nat) : Begins a (s.setBudget w) := by
  have governed : Begins a (s.governed { s.settings.governor with budget := w }) := h.wrote rfl rfl rfl
  rw [setBudget_eq]
  exact governed.reckon _ _ _

theorem putAccount (h : Begins a s) (i : Nat) (x : Account) : Begins a (s.putAccount i x) := h.wrote rfl rfl rfl

theorem cardLost (h : Begins a s) (card : Nat) : Begins a (s.cardLost card) :=
  ite h (h.calm ((Acts.refl s).losePlaces card) ((Calm.refl s).losePlaces card))

theorem resumeRoom (h : Begins a s) : Begins a s.resumeRoom :=
  h.trans ⟨fun q => (port_of_outside (resumeRoom_acts s).outside q).trans (by cases q <;> rfl), (Books.refl s).resumeRoom.writes⟩

end Begins

/-! ### The rules, one by one -/

/-- What a rule answers in state `s`. -/
structure Ruled (s : State) (x : Answer) : Prop where
  begins : Begins s x.state
  refused : x.status ≠ .ok → x.state = s

namespace Ruled

theorem ok {b : ReplyBody} (h : Begins s t) : Ruled s (t.ok b) := ⟨h, fun refused => absurd rfl refused⟩

theorem refuse (s : State) (st : Status) : Ruled s (s.refuse st) := ⟨.refl s, fun _ => rfl⟩

theorem ite {c : Prop} [Decidable c] {x y : Answer} (hx : Ruled s x) (hy : Ruled s y) : Ruled s (if c then x else y) := by
  split <;> assumption

theorem readEvents (s : State) (k : Nat) : Ruled s (s.readEvents k) := ok ((Begins.refl s).change rfl rfl rfl)

theorem classSet (s : State) (f : Nat × Nat × Nat × Nat) : Ruled s (s.classSet f) := by
  unfold State.classSet
  split
  · exact ite (refuse s _) (ite (refuse s _) (ok ((((Begins.refl s).rephase _ _).modSettings _).write _)))
  · exact refuse s _

theorem priceEntrySet (s : State) (c b : Nat) (e : PriceEntry) : Ruled s (s.priceEntrySet c b e) := by
  unfold State.priceEntrySet
  split
  · exact ite (refuse s _) (ok (((Begins.refl s).modSettings _).write _))
  · exact refuse s _

theorem priceGeneralSet (s : State) (f : Nat × Nat × Nat × Nat) : Ruled s (s.priceGeneralSet f) :=
  ite (refuse s _) (ok (((Begins.refl s).modSettings _).write _))

theorem slotSet (s : State) (f : Nat × Nat × Nat × Nat) : Ruled s (s.slotSet f) := by
  unfold State.slotSet
  split
  · exact refuse s _
  next n _ =>
  refine ite (ite (ok ((Begins.refl s).removeClass n)) (refuse s _)) ?_
  split
  · exact refuse s _
  refine ite (refuse s _) ?_
  split
  · split
    · exact refuse s _
    · exact ok ((Begins.refl s).assignClass n _)
  · exact refuse s _

theorem terminalSet (s : State) (t : Fin 16) (m : TermMode) : Ruled s (s.terminalSet t m) :=
  ite (ok (.refl s)) (ite (refuse s _) (ite (refuse s _) (ok ((Begins.refl s).wrote rfl rfl rfl))))

theorem governorGeneralSet (s : State) (f : Nat × Nat) : Ruled s (s.governorGeneralSet f) :=
  ite (refuse s _) (ok ((((Begins.refl s).modSettings _).write _).reckon _ _ _))

theorem governorClassSet (s : State) (f : Nat × GovClass) : Ruled s (s.governorClassSet f) := by
  unfold State.governorClassSet
  split
  · exact refuse s _
  next c _ =>
    refine ite (refuse s _) (ite (refuse s _) (ok ?_))
    have set : Begins s (s.governed { s.settings.governor with classes := s.settings.governor.classes.set c.val f.2 }) :=
      (Begins.refl s).wrote rfl rfl rfl
    exact .ite (set.overSlots fun n t => .ite ((Begins.refl t).restrike n) (.refl t)) set

theorem senseInputSet (s : State) (f : Nat × Calibration) : Ruled s (s.senseInputSet f) := by
  unfold State.senseInputSet
  split
  · refine ite (refuse s _) (ite (refuse s _) (ok ?_))
    split
    · exact (((Begins.refl s).modSettings _).write _).restrike _
    · exact ((Begins.refl s).modSettings _).write _
  · exact refuse s _

theorem senseGeneralSet (s : State) (v : Nat) : Ruled s (s.senseGeneralSet v) :=
  ite (refuse s _) (ite (refuse s _)
    (ok ((((Begins.refl s).modSettings _).write _).overSlots fun n t => (Begins.refl t).restrike n)))

theorem roomSet (s : State) (f : Nat × Nat × Nat × Nat × Nat × Nat) : Ruled s (s.roomSet f) :=
  ite (refuse s _) (ok ((((Begins.refl s).modSettings _).write _).followMode _))

theorem roomMode (s : State) (m : Mode) : Ruled s (s.roomMode m) :=
  ite (ok (.refl s)) (ok ((((Begins.refl s).modSettings _).write _).followMode _))

theorem accountPut (s : State) (f : Nat × Nat × Nat × Nat × Nat) : Ruled s (s.accountPut f) := by
  unfold State.accountPut
  dsimp only
  split
  · exact ite (refuse s _) (ite (refuse s _) (ite (refuse s _) (ok (((Begins.refl s).putAccount _ _).cardLost _))))
  · exact refuse s _

theorem accountCredit (s : State) (i amount : Nat) : Ruled s (s.accountCredit i amount) := by
  unfold State.accountCredit
  refine ite (refuse s _) ?_
  split
  · exact refuse s _
  · exact ite (refuse s _) (ok ((Begins.refl s).putAccount _ _))

theorem accountState (s : State) (i code : Nat) : Ruled s (s.accountState i code) := by
  unfold State.accountState
  split
  · split
    · exact refuse s _
    · exact ite (ok (.refl s)) (ok (.ite (((Begins.refl s).putAccount _ _).cardLost _) ((Begins.refl s).putAccount _ _)))
  · exact refuse s _

theorem accountRemove (s : State) (i : Nat) : Ruled s (s.accountRemove i) :=
  ite (refuse s _) (ite (refuse s _) (ite (refuse s _) (ok (((Begins.refl s).putAccount _ _).cardLost _))))

theorem accountRead (s : State) (i : Nat) : Ruled s (s.accountRead i) :=
  ite (refuse s _) (ok (.ite (.refl s) ((Begins.refl s).acts ((Acts.refl s).rollAccount i) ((Books.refl s).rollAccount i))))

theorem settlementRelease (s : State) (number : Nat) : Ruled s (s.settlementRelease number) := by
  unfold State.settlementRelease
  dsimp only
  split
  · exact ⟨.refl s, fun _ => rfl⟩
  · exact ok ((Begins.refl s).wrote rfl rfl rfl)

theorem serviceTake (s : State) (p : Port) (n : Fin 24) (force : Bool) : Ruled s (s.serviceTake p n force) := by
  have ended : Begins s (if (s.slot n).state.busy then s.cycleEnd n .abandoned none .faulted else s) :=
    .ite ((Begins.refl s).cycleEnd n _ _ _) (.refl s)
  exact ite (refuse s _) (ite (refuse s _) (ite (ok (.refl s))
    (ok (ended.acts ((Acts.refl _).joinCause n (portCause p)) ((Books.refl _).joinCause n (portCause p))))))

theorem serviceReturn (s : State) (p : Port) (n : Fin 24) : Ruled s (s.serviceReturn p n) :=
  ite (refuse s _) (ok ((Begins.refl s).removeCause n _))

theorem slotStop (s : State) (n : Fin 24) : Ruled s (s.slotStop n) :=
  ite (ok ((Begins.refl s).cycleEnd n _ _ _)) (refuse s _)

theorem clearTaken (h : Begins a s) (p : Port) (source : Option (Fin 24)) (code : FaultCode) (e : Option FaultEntry) :
    Ruled a (s.clearTaken p source code e) := by
  refine ⟨?_, fun refused => absurd (clearTaken_status s p source code e) refused⟩
  cases source with
  | none => exact h.post _
  | some n => exact .ite ((h.post _).removeCause n _) (h.post _)

theorem faultClear (s : State) (p : Port) (source : Option (Fin 24)) (code : FaultCode) : Ruled s (s.faultClear p source code) := by
  unfold State.faultClear
  split
  · exact ite (clearTaken (.refl s) ..) (refuse s _)
  next e _ =>
    have closed : Begins s (s.closeEntry p source code e) := (Begins.refl s).change rfl rfl rfl
    exact ite (refuse s _) (ite (refuse s _) (clearTaken closed p source code (some e)))

theorem waitlistRemove (s : State) (c : Fin 4) (card : Nat) : Ruled s (s.waitlistRemove c card) := by
  unfold State.waitlistRemove
  split
  · exact ok ((Begins.refl s).change rfl rfl rfl)
  · split
    · exact ok ((Begins.refl s).handOn _)
    · exact refuse s _

end Ruled

end

end Sys2Proof.Machine

namespace Sys2Proof.Machine

/-! ## Bodies by their length (R188, R202) -/

section
variable {α β : Type}

/-- The status with which a body is refused, if it is. -/
def refusal : Except Status α → Option Status
  | .error st => some st
  | .ok _ => none

/-- `f` reads every body of `n` bytes, and refuses any other for its length. -/
def Reads (n : Nat) (f : List Byte → Except Status α) : Prop :=
  ∀ body, refusal (f body) = if body.length = n then none else some .badLength

theorem reads_bodyNone : Reads 0 bodyNone
  | [] | _ :: _ => rfl

theorem reads_body1 : Reads 1 body1
  | [] | [_] | _ :: _ :: _ => rfl

theorem reads_body11 : Reads 2 body11
  | [] | [_] | [_, _] | _ :: _ :: _ :: _ => rfl

theorem reads_body111 : Reads 3 body111
  | [] | [_] | [_, _] | [_, _, _] | _ :: _ :: _ :: _ :: _ => rfl

theorem reads_body2 : Reads 2 body2
  | [] | [_] | [_, _] | _ :: _ :: _ :: _ => rfl

theorem reads_body3 : Reads 3 body3
  | [] | [_] | [_, _] | [_, _, _] | _ :: _ :: _ :: _ :: _ => rfl

theorem reads_body4 : Reads 4 body4
  | [] | [_] | [_, _] | [_, _, _] | [_, _, _, _] | _ :: _ :: _ :: _ :: _ :: _ => rfl

theorem reads_body21 : Reads 3 body21
  | [] | [_] | [_, _] | [_, _, _] | _ :: _ :: _ :: _ :: _ => rfl

theorem reads_body23 : Reads 5 body23
  | [] | [_] | [_, _] | [_, _, _] | [_, _, _, _] | [_, _, _, _, _] | _ :: _ :: _ :: _ :: _ :: _ :: _ => rfl

theorem reads_body14 : Reads 5 body14
  | [] | [_] | [_, _] | [_, _, _] | [_, _, _, _] | [_, _, _, _, _] | _ :: _ :: _ :: _ :: _ :: _ :: _ => rfl

theorem reads_body1111 : Reads 4 body1111
  | [] | [_] | [_, _] | [_, _, _] | [_, _, _, _] | _ :: _ :: _ :: _ :: _ :: _ => rfl

theorem reads_bodyClassSet : Reads 5 bodyClassSet
  | [] | [_] | [_, _] | [_, _, _] | [_, _, _, _] | [_, _, _, _, _] | _ :: _ :: _ :: _ :: _ :: _ :: _ => rfl

theorem reads_bodyPriceEntry : Reads 9 bodyPriceEntry
  | [] | [_] | [_, _] | [_, _, _] | [_, _, _, _] | [_, _, _, _, _] | [_, _, _, _, _, _] | [_, _, _, _, _, _, _]
  | [_, _, _, _, _, _, _, _] | [_, _, _, _, _, _, _, _, _] | _ :: _ :: _ :: _ :: _ :: _ :: _ :: _ :: _ :: _ :: _ => rfl

theorem reads_bodyPriceGeneral : Reads 7 bodyPriceGeneral
  | [] | [_] | [_, _] | [_, _, _] | [_, _, _, _] | [_, _, _, _, _] | [_, _, _, _, _, _] | [_, _, _, _, _, _, _]
  | _ :: _ :: _ :: _ :: _ :: _ :: _ :: _ :: _ => rfl

theorem reads_bodyGovernorGeneral : Reads 5 bodyGovernorGeneral
  | [] | [_] | [_, _] | [_, _, _] | [_, _, _, _] | [_, _, _, _, _] | _ :: _ :: _ :: _ :: _ :: _ :: _ => rfl

theorem reads_bodyGovernorClass : Reads 6 bodyGovernorClass
  | [] | [_] | [_, _] | [_, _, _] | [_, _, _, _] | [_, _, _, _, _] | [_, _, _, _, _, _]
  | _ :: _ :: _ :: _ :: _ :: _ :: _ :: _ => rfl

theorem reads_bodySenseInput : Reads 5 bodySenseInput
  | [] | [_] | [_, _] | [_, _, _] | [_, _, _, _] | [_, _, _, _, _] | _ :: _ :: _ :: _ :: _ :: _ :: _ => rfl

theorem reads_bodyRoomSet : Reads 9 bodyRoomSet
  | [] | [_] | [_, _] | [_, _, _] | [_, _, _, _] | [_, _, _, _, _] | [_, _, _, _, _, _] | [_, _, _, _, _, _, _]
  | [_, _, _, _, _, _, _, _] | [_, _, _, _, _, _, _, _, _] | _ :: _ :: _ :: _ :: _ :: _ :: _ :: _ :: _ :: _ :: _ => rfl

theorem reads_bodyAccountPut : Reads 13 bodyAccountPut
  | [] | [_] | [_, _] | [_, _, _] | [_, _, _, _] | [_, _, _, _, _] | [_, _, _, _, _, _] | [_, _, _, _, _, _, _]
  | [_, _, _, _, _, _, _, _] | [_, _, _, _, _, _, _, _, _] | [_, _, _, _, _, _, _, _, _, _]
  | [_, _, _, _, _, _, _, _, _, _, _] | [_, _, _, _, _, _, _, _, _, _, _, _] | [_, _, _, _, _, _, _, _, _, _, _, _, _]
  | _ :: _ :: _ :: _ :: _ :: _ :: _ :: _ :: _ :: _ :: _ :: _ :: _ :: _ :: _ => rfl

variable {n m kind : Nat}

/-- A kind with one form: its body is refused as test 3 refuses it. -/
theorem refusal_oneForm {f : List Byte → Except Status α} (reads : Reads n f) (lengths : bodyLengths kind = .inl n)
    (body : List Byte) : refusal (f body) = lengthTest kind body := by
  rw [reads, lengthTest, lengths]

theorem refusal_map (e : Except Status α) (f : α → β) : refusal (e.map f) = refusal e := by cases e <;> rfl

/-- A kind with two forms: the form byte first, then the length of its form. -/
theorem refusal_twoForms {zero : List Byte → Except Status α} {one : List Byte → Except Status β} (readsZero : Reads m zero)
    (readsOne : Reads n one) (lengths : bodyLengths kind = .inr (m + 1, n + 1)) (body : List Byte) :
    refusal (twoForms zero one body) = lengthTest kind body := by
  rw [lengthTest, lengths]
  cases body with
  | nil => rfl
  | cons form rest =>
    unfold twoForms bodyForm
    simp only [List.length_cons, Nat.add_right_cancel_iff, ← readsZero rest, ← readsOne rest]
    by_cases isZero : form = 0
    · rw [if_pos isZero, if_pos isZero]
      exact refusal_map ..
    · rw [if_neg isZero, if_neg isZero]
      by_cases isOne : form = 1
      · rw [if_pos isOne, if_pos isOne]
        exact refusal_map ..
      · rw [if_neg isOne, if_neg isOne]
        rfl

end

end Sys2Proof.Machine

namespace Sys2Proof.Machine

/-! ## Every request: tested, then answered by its own rule or waiting (R187 to R190, R192, R197) -/

section
variable {s t : State} {p : Port} {k : Nat} {x : Answer}

/-- From `s`, where a request of kind `k` was counted at port `p`, to `t` it was answered or waits, and a refusal changed
nothing (R188 to R190). -/
structure Served (p : Port) (k : Nat) (s t : State) : Prop where
  other : t.port (otherPort p) = s.port (otherPort p)
  counts : k ≠ 0x04 → (t.port p).counts = (s.port p).counts
  reply : (∃ r, r.kind = k ∧ (t.port p).activity = .built r) ∨
    (∃ r j, r.kind = k ∧ (t.port p).activity = .storing r j ∧ j = t.writes.length ∧ s.writes.length < j ∧ t.turn = some p) ∨
    k = 0x58 ∧ ∃ i, (t.port p).activity = .sensing i
  refused : ∀ r, (t.port p).activity = .built r ∨ (∃ j, (t.port p).activity = .storing r j) → r.status ≠ .ok →
    t = s.answer p r.kind r.status r.body

theorem answer_port (s : State) (p : Port) (k : Nat) (st : Status) (b : ReplyBody) :
    (s.answer p k st b).port p = { s.port p with activity := .built ⟨k, st, b⟩ } := State.port_setPort_same ..

theorem answer_other (s : State) (p : Port) (k : Nat) (st : Status) (b : ReplyBody) :
    (s.answer p k st b).port (otherPort p) = s.port (otherPort p) := State.port_setPort_other ..

/-- The end of a rule that left the other port alone, and the own counts but in PORT_STATUS. -/
theorem finish_served (other : x.state.port (otherPort p) = s.port (otherPort p))
    (counts : k ≠ 0x04 → (x.state.port p).counts = (s.port p).counts) (begun : s.writes.length ≤ x.state.writes.length)
    (refused : x.status ≠ .ok → x.state = s) : Served p k s (x.finish p k s.writes.length) := by
  by_cases same : x.state.writes.length = s.writes.length
  · rw [finish_sent same]
    have port := answer_port x.state p k x.status x.body
    refine ⟨(answer_other ..).trans other, fun h => by rw [port]; exact counts h, .inl ⟨_, rfl, by rw [port]⟩, fun r h bad => ?_⟩
    obtain rfl : Reply.mk k x.status x.body = r := by simpa [port] using h
    rw [refused bad]
  · rw [finish_stored same]
    generalize turned : ({ x.state.setActivity p (.storing ⟨k, x.status, x.body⟩ x.state.writes.length) with
      turn := some p } : State) = t
    have port : t.port p = { x.state.port p with activity := .storing ⟨k, x.status, x.body⟩ x.state.writes.length } := by
      rw [← turned]
      cases p <;> rfl
    have beside : t.port (otherPort p) = x.state.port (otherPort p) := by
      rw [← turned]
      cases p <;> rfl
    have writes : t.writes = x.state.writes := by
      rw [← turned]
      exact State.setActivity_writes ..
    refine ⟨beside.trans other, fun h => by rw [port]; exact counts h,
      .inr (.inl ⟨_, _, rfl, by rw [port], by rw [writes], by omega, by rw [← turned]⟩), fun r h bad => ?_⟩
    obtain rfl : Reply.mk k x.status x.body = r := by simpa [port] using h
    exact absurd (congrArg (fun u : State => u.writes.length) (refused bad)) same

theorem Ruled.served (h : Ruled s x) : Served p k s (x.finish p k s.writes.length) :=
  finish_served (h.begins.ports _) (fun _ => by rw [h.begins.ports]) h.begins.writes.length_le h.refused

theorem answer_served (s : State) (p : Port) (k : Nat) (st : Status) (b : ReplyBody) : Served p k s (s.answer p k st b) := by
  rw [← finish_sent (x := ⟨s, st, b⟩) (k := k) rfl]
  exact Ruled.served ⟨.refl s, fun _ => rfl⟩

/-- PORT_STATUS clears the counts of its own port alone (R197). -/
theorem portStatus_served (s : State) (p : Port) (clear : Bool) (b : ReplyBody) :
    Served p 0x04 s (((if clear then s.modCounts p fun _ => ⟨0, 0, 0, 0⟩ else s).ok b).finish p 0x04 s.writes.length) := by
  refine finish_served ?_ (fun h => absurd rfl h) (le_of_eq ?_) fun bad => absurd rfl bad
  · cases clear
    · rfl
    · exact State.port_setPort_other ..
  · cases clear
    · rfl
    · exact congrArg List.length (State.modCounts_writes s p fun _ => ⟨0, 0, 0, 0⟩).symm

/-- A conversion asked for: the port waits for its result (R124, R189). -/
theorem askConversion_served (s : State) (p : Port) (i : Nat) : Served p 0x58 s (s.askConversion p i) := by
  obtain ⟨port, -⟩ := askConversion_does s p i
  have other : (s.askConversion p i).port (otherPort p) = s.port (otherPort p) := by
    rw [State.askConversion, startNext_port]
    cases p <;> rfl
  refine ⟨other, fun _ => by rw [port], .inr (.inr ⟨rfl, i, by rw [port]⟩), fun r h => ?_⟩
  rw [port] at h
  simp at h

/-! ### A request's tests and its own rule -/

/-- The command is a request of kind `k` at port `p`: its body is tested as test 3 of R188 tests it, and what then is done on the
counted state serves it. -/
inductive Asked (c : Instr) (p : Port) (k : Nat) (body : List Byte) : Prop
  | mk {α : Type} (parsed : Except Status α) (go : α → State → State)
    (takes : ∀ s, exec c s = .next (s.take p k parsed go)) (tested : refusal parsed = lengthTest k body)
    (served : ∀ a s, Served p k s (go a s)) : Asked c p k body

variable {α β : Type} {c : Instr} {body : List Byte} {n m : Nat}

/-- A request with one form, answered at its event. -/
theorem asked_oneForm {f : List Byte → Except Status α} {act : α → State → Answer} (reads : Reads n f)
    (lengths : bodyLengths k = .inl n) (takes : ∀ s, exec c s = .next (s.request p k (f body) act))
    (ruled : ∀ a s, Ruled s (act a s)) : Asked c p k body :=
  ⟨f body, _, takes, refusal_oneForm reads lengths body, fun a s => (ruled a s).served⟩

/-- A request with two forms. -/
theorem asked_twoForms {zero : List Byte → Except Status α} {one : List Byte → Except Status β} {act : α ⊕ β → State → Answer}
    (readsZero : Reads m zero) (readsOne : Reads n one) (lengths : bodyLengths k = .inr (m + 1, n + 1))
    (takes : ∀ s, exec c s = .next (s.request p k (twoForms zero one body) act))
    (ruledZero : ∀ a s, Ruled s (act (.inl a) s)) (ruledOne : ∀ b s, Ruled s (act (.inr b) s)) : Asked c p k body :=
  ⟨twoForms zero one body, _, takes, refusal_twoForms readsZero readsOne lengths body, fun a s => by
    cases a with
    | inl a => exact (ruledZero a s).served
    | inr b => exact (ruledOne b s).served⟩

/-- Every request of the catalogue. -/
theorem request_asked (hc : requestFields c = some (p, k, body)) : Asked c p k body := by
  cases c with
  | roomStatus | grantsRead => cases hc; exact asked_oneForm reads_bodyNone rfl (fun _ => rfl) fun _ s => .ok (.refl s)
  | slotStatus | terminalStatus =>
    cases hc
    exact asked_oneForm reads_body1 rfl (fun _ => rfl) fun _ s => by split; exacts [.ok (.refl s), .refuse s _]
  | portStatus =>
    cases hc
    refine ⟨body1 _, _, fun _ => rfl, refusal_oneForm reads_body1 rfl _, fun a s => ?_⟩
    dsimp only
    split
    · exact portStatus_served ..
    · exact (Ruled.refuse s _).served
  | eventsRead =>
    cases hc
    exact asked_oneForm reads_body1 rfl (fun _ => rfl) fun a s => .ite (.readEvents s a) (.refuse s _)
  | settlementRead =>
    cases hc
    exact asked_oneForm reads_body1 rfl (fun _ => rfl) fun _ s => .ite (.ok (.refl s)) (.refuse s _)
  | faultsRead =>
    cases hc
    exact asked_oneForm reads_body11 rfl (fun _ => rfl) fun _ s => .ite (.ok (.refl s)) (.refuse s _)
  | historyRead =>
    cases hc
    exact asked_oneForm reads_body21 rfl (fun _ => rfl) fun _ s => .ite (.ok (.refl s)) (.refuse s _)
  | waitlistRead =>
    cases hc
    exact asked_oneForm reads_body11 rfl (fun _ => rfl) fun _ s => by
      split; exacts [.ite (.ok (.refl s)) (.refuse s _), .refuse s _]
  | classSet => cases hc; exact asked_oneForm reads_bodyClassSet rfl (fun _ => rfl) fun f s => .classSet s f
  | priceSetEntry | priceSetGeneral =>
    cases hc
    exact asked_twoForms reads_bodyPriceEntry reads_bodyPriceGeneral rfl (fun _ => rfl) (fun _ s => .priceEntrySet s _ _ _)
      fun f s => .priceGeneralSet s f
  | slotSet => cases hc; exact asked_oneForm reads_body1111 rfl (fun _ => rfl) fun f s => .slotSet s f
  | terminalSet =>
    cases hc
    exact asked_oneForm reads_body11 rfl (fun _ => rfl) fun _ s => by split; exacts [.terminalSet s _ _, .refuse s _]
  | governorSetGeneral | governorSetClass =>
    cases hc
    exact asked_twoForms reads_bodyGovernorGeneral reads_bodyGovernorClass rfl (fun _ => rfl)
      (fun f s => .governorGeneralSet s f) fun f s => .governorClassSet s f
  | senseSetInput | senseSetGeneral =>
    cases hc
    exact asked_twoForms reads_bodySenseInput reads_body2 rfl (fun _ => rfl) (fun f s => .senseInputSet s f)
      fun v s => .senseGeneralSet s v
  | roomSet => cases hc; exact asked_oneForm reads_bodyRoomSet rfl (fun _ => rfl) fun f s => .roomSet s f
  | timeSet =>
    cases hc
    exact asked_oneForm reads_body23 rfl (fun _ => rfl) fun f s => .ite (.ok ((Begins.refl s).setClock f.1 f.2)) (.refuse s _)
  | accountPut => cases hc; exact asked_oneForm reads_bodyAccountPut rfl (fun _ => rfl) fun f s => .accountPut s f
  | accountCredit => cases hc; exact asked_oneForm reads_body23 rfl (fun _ => rfl) fun f s => .accountCredit s _ _
  | accountState => cases hc; exact asked_oneForm reads_body21 rfl (fun _ => rfl) fun f s => .accountState s _ _
  | accountRemove => cases hc; exact asked_oneForm reads_body2 rfl (fun _ => rfl) fun i s => .accountRemove s i
  | accountRead => cases hc; exact asked_oneForm reads_body2 rfl (fun _ => rfl) fun i s => .accountRead s i
  | settlementRelease => cases hc; exact asked_oneForm reads_body4 rfl (fun _ => rfl) fun k s => .settlementRelease s k
  | slotServiceTake | slotServiceReturn =>
    cases hc
    exact asked_oneForm reads_body111 rfl (fun _ => rfl) fun _ s => by
      split; exacts [.serviceTake s _ _ _, .serviceReturn s _ _, .refuse s _]
  | slotStop =>
    cases hc
    exact asked_oneForm reads_body1 rfl (fun _ => rfl) fun _ s => by split; exacts [.slotStop s _, .refuse s _]
  | faultClear =>
    cases hc
    exact asked_oneForm reads_body11 rfl (fun _ => rfl) fun _ s => by split; exacts [.faultClear s _ _ _, .refuse s _]
  | budgetSet =>
    cases hc
    exact asked_oneForm reads_body3 rfl (fun _ => rfl) fun w s => .ite (.ok ((Begins.refl s).setBudget w)) (.refuse s _)
  | waitlistRemove =>
    cases hc
    exact asked_oneForm reads_body14 rfl (fun _ => rfl) fun _ s => by
      split; exacts [.ite (.refuse s _) (.waitlistRemove s _ _), .refuse s _]
  | roomMode =>
    cases hc
    exact asked_oneForm reads_body1 rfl (fun _ => rfl) fun _ s => by split; exacts [.roomMode s _, .refuse s _]
  | roomResume =>
    cases hc
    exact asked_oneForm reads_bodyNone rfl (fun _ => rfl) fun _ s => .ite (.ok (Begins.refl s).resumeRoom) (.refuse s _)
  | senseRead =>
    cases hc
    refine ⟨body1 _, _, fun _ => rfl, refusal_oneForm reads_body1 rfl _, fun i s => ?_⟩
    split
    · exact answer_served ..
    · split
      · exact answer_served ..
      · exact askConversion_served s p i
  | restart =>
    cases hc
    exact asked_oneForm reads_bodyNone rfl (fun _ => rfl) fun _ s => .ok ((Begins.refl s).change rfl rfl rfl)
  | _ => cases hc

/-! ### A request on a port that is ready -/

/-- The port's test, the body's and the store turn's, in their order (R188, R190, R192). -/
theorem requestTaken_tested {parsed : Except Status α} {go : α → State → State} :
    (kindRefused p k = true → requestTaken p k parsed go s = s.replied p ⟨k, .notPermitted, .empty⟩) ∧
    (kindRefused p k = false →
      (∀ st, refusal parsed = some st → requestTaken p k parsed go s = s.replied p ⟨k, st, .empty⟩) ∧
      (refusal parsed = none → kindWrites k = true → s.turn = some (otherPort p) →
        requestTaken p k parsed go s = s.replied p ⟨k, .full, .empty⟩)) := by
  have turn : (s.countTaken p).turn = s.turn := State.modCounts_turn ..
  unfold requestTaken
  dsimp only
  refine ⟨fun refused => ?_, fun allowed => ?_⟩
  · rw [if_pos refused, answer_replied]
  · rw [if_neg (by rw [allowed]; exact Bool.false_ne_true)]
    cases parsed with
    | error st =>
      refine ⟨fun st' h => ?_, fun h => by cases h⟩
      cases h
      exact answer_replied ..
    | ok a =>
      refine ⟨fun st' h => (by cases h), fun _ writes held => ?_⟩
      dsimp only
      rw [if_pos (by simp [writes, turn, held]), answer_replied]

theorem requestTaken_served {parsed : Except Status α} {go : α → State → State} (served : ∀ a s, Served p k s (go a s)) :
    Served p k (s.countTaken p) (requestTaken p k parsed go s) := by
  unfold requestTaken
  dsimp only
  split
  · exact answer_served ..
  · split
    · exact answer_served ..
    · split
      · exact answer_served ..
      · exact served ..

/-- A request on a port that is ready is counted and served. -/
theorem request_served (request : requestOf c = some (p, k)) (ready : s.readyFor p) :
    ∃ t, exec c s = .next t ∧ Served p k (s.countTaken p) t := by
  obtain ⟨body, fields⟩ := requestOf_fields request
  obtain ⟨parsed, go, takes, -, served⟩ := request_asked fields
  exact ⟨_, (takes s).trans (congrArg _ (ready.arrives ..)), requestTaken_served served⟩

theorem kindRefused_iff : kindRefused p k = true ↔ p = .service ∧ (k = 0x08 ∨ k = 0x29) := by simp [kindRefused]

theorem unknownKind_does (ready : s.readyFor p) {kind : Byte} (unknown : catalogueKinds.contains kind.toNat = false) :
    exec (.unknownKindRequest p kind body) s = .next (s.replied p ⟨kind.toNat, .unknownKind, .empty⟩) :=
  (gives_ready (gives_unknownKind unknown) ready).trans (congrArg _ (answer_replied ..))

end

/-- Settles O37: the tests that every request passes through (`requestTaken_tested`), its body read as test 3 reads it. -/
theorem requestsAreTested : Obligations.RequestsAreTested := by
  intro s p body ready
  refine ⟨fun kind unknown => unknownKind_does ready unknown, fun c k fields => ?_⟩
  obtain ⟨parsed, go, takes, tested, -⟩ := request_asked fields
  obtain ⟨refused, allowed⟩ := requestTaken_tested (s := s) (p := p) (k := k) (parsed := parsed) (go := go)
  rw [takes, show s.take p k parsed go = requestTaken p k parsed go s from ready.arrives .., ← tested]
  refine ⟨fun port kind => congrArg _ (refused (kindRefused_iff.2 ⟨port, kind⟩)), fun free => ?_⟩
  obtain ⟨length, full⟩ := allowed (by
    rw [← Bool.not_eq_true, kindRefused_iff]
    rintro ⟨service, kind⟩
    obtain ⟨events, release⟩ := free.resolve_left (by rw [service]; exact nofun)
    exact kind.elim events release)
  exact ⟨fun st h => congrArg _ (length st h), fun read writes held => congrArg _ (full read writes held)⟩

/-- Settles O38, by what serves a request counted. -/
theorem everyRequestIsAnswered : Obligations.EveryRequestIsAnswered := by
  refine ⟨fun s p kind body ready unknown => unknownKind_does ready unknown, fun c p k s request ready => ?_⟩
  obtain ⟨t, taken, other, counts, reply, -⟩ := request_served request ready
  rw [countTaken_writes] at reply
  refine ⟨t, taken, reply, fun kind => ?_, other.trans (countTaken_other s p)⟩
  rw [counts kind, countTaken_port]

/-- Settles O39: what serves a request changes nothing where it refuses. -/
theorem refusalChangesNothing : Obligations.RefusalChangesNothing := by
  intro c p k s t r request ready taken replies refused
  obtain ⟨u, taken', served⟩ := request_served request ready
  obtain rfl : t = u := Host.Outcome.next.inj (taken.symm.trans taken')
  exact (served.refused r replies refused).trans (answer_replied ..)

end Sys2Proof.Machine

namespace Sys2Proof.Machine

/-! ## A part without power (R204; log 5, log 8) -/

section
variable {s : State} {c : Instr} {p : Port}

/-- What acts in a running part alone does nothing in a stopped one (log 5). -/
theorem ifRunning_stopped (stopped : s.life ≠ .running) (t : State) : s.ifRunning t = s := if_neg stopped

/-- The ports of a stopped part hear nothing (R185). -/
theorem listens_stopped (stopped : s.life ≠ .running) (p : Port) : s.listens p = false := by simp [State.listens, stopped]

/-- A whole frame is disregarded at a port that does not listen (R185). -/
theorem frame_unheard {k : FrameClass} (frame : frameOf c = some (p, k)) (unheard : s.listens p = false) :
    exec c s = .next s := by
  obtain ⟨act, gives, -⟩ := frame_carries frame
  exact gives_unheard gives unheard

/-- A request of an unknown kind is disregarded where its port does not listen, and has no occasion with a listed kind (log 1). -/
theorem unknownKind_unheard {kind : Byte} {body : List Byte} (unheard : s.listens p = false) :
    exec (.unknownKindRequest p kind body) s = .next s := by
  cases listed : catalogueKinds.contains kind.toNat with
  | true => exact unknownKind_listed listed
  | false => exact gives_unheard (gives_unknownKind listed) unheard

/-- Without power the clock stands, no change of the store is done and no strap is read; beside these, commands act only where the
part runs or a port listens (log 5). -/
theorem exec_waiting (off : s.life = .waiting) (noStart : ∀ i, c ≠ .startUp i) (noLoss : c ≠ .powerLoss) :
    exec c s = .next s := by
  have stopped : s.life ≠ .running := by simp [off]
  have unheard := listens_stopped stopped
  cases c with
  | startUp i => exact absurd rfl (noStart i)
  | powerLoss => exact absurd rfl noLoss
  | strapReread => simp only [exec, execStrapReread, off]
  | clockSecond => simp only [exec, execClockSecond, off]
  | storeWriteDone => simp only [exec, execStoreWriteDone, off]
  | hostFrameDiscard p chars =>
    obtain ⟨-, -, discard⟩ := line_unheard (unheard p)
    exact discard chars
  | hostFrameOverrun p a =>
    obtain ⟨overrun, -⟩ := line_unheard (unheard p)
    exact overrun a
  | frameGapTimeout l a =>
    cases l with
    | bus => exact congrArg Host.Outcome.next (ifRunning_stopped stopped _)
    | host p =>
      obtain ⟨-, gap, -⟩ := line_unheard (unheard p)
      exact gap a
  | frameNotForUnit => simp only [exec, execFrameNotForUnit, unheard, Bool.false_eq_true, if_false]
  | unknownKindRequest p => exact unknownKind_unheard (unheard p)
  | rotationPoll | probePoll | outOfTurnPoll | broadcastDisplay | terminalReply | malformedReply | replyTimeout
  | contentionWindow | briefDeadline | armedDeadline | lockingDeadline | unlockDeadline | collectWindowExpiry
  | recoveryDeadline | runSecond | overrun | paidSecondsExhausted | coolDownEnd | waitlistEntryExpiry | reservationExpiry
  | scanStart | conversionResult | scanEnd | onDemandConversionResult | minuteChange | interlockActive | interlockInactive
  | suspensionLimit | hostReplyEnd | broadcastBudgetDeferred =>
    exact congrArg Host.Outcome.next (ifRunning_stopped stopped _)
  | _ => exact frame_unheard rfl (unheard _)

end

/-- Settles O2: the loss is the model's arm as it stands, and a part without power takes no other command (`exec_waiting`). -/
theorem nothingActsWithoutPower : Obligations.NothingActsWithoutPower :=
  ⟨fun _ => rfl, fun _ _ off noStart noLoss => exec_waiting off noStart noLoss⟩

end Sys2Proof.Machine
